-- ==== Sys2Proof/Word.lean ====
section
/-! DEFINITION. The words of the part: slots, bytes, dwords, addresses and tick values (00_scope, "Names and numbers"). -/

namespace Sys2Proof

/-- A slot, 0 to 7. -/
abbrev Slot := Fin 8

/-- A tag of a slot's Outstanding Request Table, 0 to 31 (R7). -/
abbrev Tag := Fin 32

abbrev Byte := BitVec 8

/-- 4 bytes. -/
abbrev Dword := BitVec 32

/-- A 64-bit host memory address. -/
abbrev Addr := BitVec 64

/-- A value of the 32-bit tick counter (R1): timestamps and deadlines. -/
abbrev Tick := BitVec 32

end Sys2Proof
end

