-- ==== Sys2Proof/Syntax.lean ====
section
/-! DEFINITION. The commands: one constructor of `Instr` per row of spec/opcode_table.json, and their operands. -/

namespace Sys2Proof

/-- Requester identity and requester tag of a request (00_scope, "Link traffic"; R121). The identity carries a bus
number; the spec gives no width for the rest of it nor for the tag (log 1). -/
structure Requester where
  bus : BitVec 8
  device : Nat
  tag : Nat
  deriving DecidableEq, Repr

/-- The status of a completion (00_scope, "Link traffic"). -/
inductive CplStatus where
  | success | unsupported | aborted
  deriving DecidableEq, Repr

/-- The kinds of request an ORT entry keeps (R7). -/
inductive ReqKind where
  | memoryRead | configRead | configWrite
  deriving DecidableEq, Repr

/-- The non-posted host transactions, with what the card is sent (log 2). -/
inductive NonPosted where
  | memRead (addr : Addr) (dwords : Nat)
  | cfgRead (bus : BitVec 8) (index : Nat)
  | cfgWrite (bus : BitVec 8) (index : Nat) (data : Dword)
  deriving DecidableEq, Repr

/-- The posted host transactions. -/
inductive Posted where
  | memWrite (addr : Addr) (data : List Dword)
  | message (bus : BitVec 8) (data : List Dword)
  deriving DecidableEq, Repr

/-- A non-posted host request with the identity and tag its completions are addressed to. -/
structure Tracked where
  req : Requester
  op : NonPosted
  deriving DecidableEq, Repr

/-- A host-originated transaction (00_scope, "Link traffic"). -/
inductive HostRequest where
  | nonPosted (r : Tracked)
  | posted (p : Posted)
  deriving DecidableEq, Repr

/-- What a completion from a card carries beside its tag. -/
structure CardCpl where
  status : CplStatus
  data : List Byte
  remaining : Nat
  deriving DecidableEq, Repr

/-- A completion of the host to a card's memory read (R131). -/
structure HostCpl where
  req : Requester
  status : CplStatus
  data : List Byte
  remaining : Nat
  deriving DecidableEq, Repr

/-- Severity of a card error message. -/
inductive Severity where
  | correctable | nonfatal | fatal
  deriving DecidableEq, Repr

/-- A card memory write: an interrupt message is one too (R121). -/
structure CardWrite where
  addr : Addr
  data : List Dword
  deriving DecidableEq, Repr

/-- A card-originated request (R121). -/
inductive CardRequest where
  | write (w : CardWrite)
  | read (req : Requester) (addr : Addr) (dwords : Nat)
  | error (sev : Severity)
  deriving DecidableEq, Repr

/-- The end of a host memory read: its bytes (possibly fewer than asked), or an Unsupported or Aborted answer. -/
inductive ReadResult where
  | data (bytes : List Byte)
  | unsupported
  | aborted
  deriving DecidableEq, Repr

/-- What an action row carries beside its slot: the ring index of its entry and its two arguments (R144). -/
structure ActionArgs where
  index : Nat
  argA : BitVec 16
  argB : BitVec 32
  deriving DecidableEq, Repr

/-- The writable registers of REGISTER_WRITE (R164). -/
inductive CbReg where
  | kcbl | kcbh
  deriving DecidableEq, Repr

/-- The pins of one presence and attention sample: bit i is slot i; 1 is PRESENT or PRESSED. `attentionFirst` and
`order` say in which order the events of the sample are handed on, which the spec leaves open (R134; log 8). -/
structure SensePins where
  presence : BitVec 8
  attention : BitVec 8
  attentionFirst : BitVec 8
  order : List Slot
  deriving DecidableEq, Repr

/-- An event that the clock brings due, as the same event is taken by its own row. TICK carries the ones that are taken
between the step of the counters and the power-good samples of that tick (R61, R69, R75, R77; log 7). -/
inductive DueEvent where
  | deadline (i : Slot) (tag : Tag) (seFirst : Bool)
  | held (i : Slot) (req : Requester)
  | drain (i : Slot)
  | quiet (i : Slot)
  | isolate (i : Slot)
  | assert (i : Slot)
  | rampSlow (i : Slot)
  | settle (i : Slot)
  | reconnect (i : Slot)
  | training (i : Slot)
  | bleedWait (i : Slot)
  | settling
  | measuring (rail : Int)
  | sense (pins : SensePins)
  | shadowRead
  | loadPolicyRead (i : Slot)
  | riRead
  | scanTimer
  deriving DecidableEq, Repr

/-- The power-good inputs at a tick: bit i is slot i; 1 is PRESENT. `acceptFirst` says, for a slot in RAMP, that an
acceptance is taken before this tick's step of the ramp count (R75, R140; log 7); `order` is the order of the slots
(log 8). -/
structure TickPins where
  powerGood : BitVec 8
  acceptFirst : BitVec 8
  order : List Slot
  deriving DecidableEq, Repr

/-- The commands: one constructor per row of spec/opcode_table.json. -/
inductive Instr where
  /-- POWER_ON_RESET (R177). -/
  | powerOnReset
  /-- HOST_PORT_RESET (R66); `order` is the order in which the slots are taken (log 8). -/
  | hostPortReset (order : List Slot)
  /-- TICK (R1). -/
  | tick (pins : TickPins) (early : List DueEvent)
  /-- HOST_REQUEST (R4). -/
  | hostRequest (r : HostRequest)
  /-- CARD_COMPLETION (R12): `tag` may be above 31 (R15); `seFirst` orders SE before HM on the engine tag (log 9). -/
  | cardCompletion (i : Slot) (tag : Nat) (c : CardCpl) (seFirst : Bool)
  /-- DEADLINE_EXPIRY (R18). -/
  | deadlineExpiry (i : Slot) (tag : Tag) (seFirst : Bool)
  /-- HELD_REQUEST_EXPIRY (R20). -/
  | heldRequestExpiry (i : Slot) (req : Requester)
  /-- DRAIN_TIMER_EXPIRY (R45). -/
  | drainTimerExpiry (i : Slot)
  /-- PROBATION_QUIET_EXPIRY (R58). -/
  | probationQuietExpiry (i : Slot)
  /-- ISOLATE_END (R71). -/
  | isolateEnd (i : Slot)
  /-- ASSERT_END (R72). -/
  | assertEnd (i : Slot)
  /-- RAMP_SLOW (R75). -/
  | rampSlow (i : Slot)
  /-- SETTLE_END (R77). -/
  | settleEnd (i : Slot)
  /-- RECONNECT_END (R78). -/
  | reconnectEnd (i : Slot)
  /-- TRAINING_TIMEOUT (R79). -/
  | trainingTimeout (i : Slot)
  /-- BLEED_WAIT_END (R81). -/
  | bleedWaitEnd (i : Slot)
  /-- SETTLING_CONVERSION_END (R90). -/
  | settlingConversionEnd
  /-- MEASURING_CONVERSION_END (R93): `rail` is the voltage at the rail sense input in mV, before the converter's range. -/
  | measuringConversionEnd (rail : Int)
  /-- SENSE_SAMPLE (R134). -/
  | senseSample (pins : SensePins)
  /-- LINK_UP (R55). -/
  | linkUp (i : Slot)
  /-- LINK_DOWN (R42). -/
  | linkDown (i : Slot)
  /-- CARD_REQUEST (R122). -/
  | cardRequest (i : Slot) (r : CardRequest)
  /-- HOST_COMPLETION (R131). -/
  | hostCompletion (c : HostCpl)
  /-- SHADOW_READ_DONE (R107): the end of the host memory read `id`. -/
  | shadowReadDone (id : Nat) (res : ReadResult)
  /-- SHADOW_READ_DEADLINE (R103). -/
  | shadowReadDeadline
  /-- FENCE (R148). -/
  | fence (i : Slot) (a : ActionArgs)
  /-- RECOVER (R149). -/
  | recover (i : Slot) (a : ActionArgs)
  /-- POWER_ON (R150). -/
  | powerOn (i : Slot) (a : ActionArgs)
  /-- POWER_OFF (R151). -/
  | powerOff (i : Slot) (a : ActionArgs)
  /-- RETIRE (R152). -/
  | retire (i : Slot) (a : ActionArgs)
  /-- ADMIT (R153). -/
  | admitSlot (i : Slot) (a : ActionArgs)
  /-- RELEASE (R153). -/
  | release (i : Slot) (a : ActionArgs)
  /-- SNAPSHOT (R154). -/
  | snapshot (i : Slot) (a : ActionArgs)
  /-- LOAD_POLICY (R155). -/
  | loadPolicy (i : Slot) (a : ActionArgs)
  /-- LOAD_POLICY_READ_DONE (R155). -/
  | loadPolicyReadDone (i : Slot) (id : Nat) (res : ReadResult)
  /-- LOAD_POLICY_READ_DEADLINE (R155). -/
  | loadPolicyReadDeadline (i : Slot)
  /-- READ_SLOT (R156). -/
  | readSlot (i : Slot) (a : ActionArgs)
  /-- RAIL_SAMPLE (R157). -/
  | railSample (i : Slot) (a : ActionArgs)
  /-- UNKNOWN_ACTION_CODE (R146). -/
  | unknownActionCode (i : Slot) (code : BitVec 8) (a : ActionArgs)
  /-- INIT (R166). -/
  | init
  /-- START (R165). -/
  | start
  /-- STOP (R165). -/
  | stop
  /-- PROMPT (R170). -/
  | prompt
  /-- UNKNOWN_COMMAND (R164): a KCMD write whose low byte names no command. -/
  | unknownCommand (value : Dword)
  /-- KSTAT_WRITE (R164). -/
  | kstatWrite (value : Dword)
  /-- REGISTER_WRITE (R164): a write to KCBL or KCBH. -/
  | registerWrite (reg : CbReg) (value : Dword)
  /-- CONTROL_BLOCK_READ_DONE (R166). -/
  | controlBlockReadDone (id : Nat) (res : ReadResult)
  /-- POLICY_RECORD_READ_DONE (R167). -/
  | policyRecordReadDone (id : Nat) (res : ReadResult)
  /-- RI_READ_DEADLINE (R169). -/
  | riReadDeadline
  /-- SCAN_TIMER_EXPIRY (R170). -/
  | scanTimerExpiry
  /-- ACTION_ENTRY_READ_DONE (R171). -/
  | actionEntryReadDone (id : Nat) (res : ReadResult)
  /-- INCIDENT_ENTRY_READ_DONE (R174). -/
  | incidentEntryReadDone (id : Nat) (res : ReadResult)
  deriving DecidableEq, Repr

end Sys2Proof
end

