-- ==== Sys2Proof/WellFormed.lean ====
section
/-! DEFINITION. The limits the spec sets on the operands of a command. The meanings do not ask for them: they are total. -/

namespace Sys2Proof

/-- Every slot stands once in an order of slots. -/
def orderOk (o : List Slot) : Bool := decide (o.length = 8) && decide o.Nodup

/-- A memory read asks for 1 to 128 dwords (00_scope, R7); a configuration access names a dword of the 1024 (R99). -/
def NonPosted.wf : NonPosted → Bool
  | .memRead _ n => decide (1 ≤ n) && decide (n ≤ 128)
  | .cfgRead _ k => decide (k < 1024)
  | .cfgWrite _ k _ => decide (k < 1024)

/-- A memory write carries at least one dword; a message may carry none. -/
def Posted.wf : Posted → Bool
  | .memWrite _ d => !d.isEmpty
  | .message _ _ => true

def HostRequest.wf : HostRequest → Bool
  | .nonPosted r => r.op.wf
  | .posted p => p.wf

/-- A card memory read asks for 1 to 128 dwords (R121); a card memory write carries at least one. -/
def CardRequest.wf : CardRequest → Bool
  | .write w => !w.data.isEmpty
  | .read _ _ n => decide (1 ≤ n) && decide (n ≤ 128)
  | .error _ => true

/-- An Action Ring has at most 2^8 entries (R166). -/
def ActionArgs.wf (a : ActionArgs) : Bool := decide (a.index < 256)

def DueEvent.wf : DueEvent → Bool
  | .sense p => orderOk p.order
  | _ => true

/-- A command whose operands are in the ranges the spec gives. -/
def Instr.wf : Instr → Bool
  | .powerOnReset => true
  | .hostPortReset o => orderOk o
  | .tick p e => orderOk p.order && e.all DueEvent.wf
  | .hostRequest r => r.wf
  | .cardCompletion _ _ _ _ => true
  | .deadlineExpiry _ _ _ => true
  | .heldRequestExpiry _ _ => true
  | .drainTimerExpiry _ => true
  | .probationQuietExpiry _ => true
  | .isolateEnd _ => true
  | .assertEnd _ => true
  | .rampSlow _ => true
  | .settleEnd _ => true
  | .reconnectEnd _ => true
  | .trainingTimeout _ => true
  | .bleedWaitEnd _ => true
  | .settlingConversionEnd => true
  | .measuringConversionEnd _ => true
  | .senseSample p => orderOk p.order
  | .linkUp _ => true
  | .linkDown _ => true
  | .cardRequest _ r => r.wf
  | .hostCompletion _ => true
  | .shadowReadDone _ _ => true
  | .shadowReadDeadline => true
  | .fence _ a => a.wf
  | .recover _ a => a.wf
  | .powerOn _ a => a.wf
  | .powerOff _ a => a.wf
  | .retire _ a => a.wf
  | .admitSlot _ a => a.wf
  | .release _ a => a.wf
  | .snapshot _ a => a.wf
  | .loadPolicy _ a => a.wf
  | .loadPolicyReadDone _ _ _ => true
  | .loadPolicyReadDeadline _ => true
  | .readSlot _ a => a.wf
  | .railSample _ a => a.wf
  | .unknownActionCode _ c a => a.wf && !(decide (1 ≤ c.toNat) && decide (c.toNat ≤ 11))
  | .init => true
  | .start => true
  | .stop => true
  | .prompt => true
  | .unknownCommand v => !(decide (1 ≤ v.toNat % 256) && decide (v.toNat % 256 ≤ 4))
  | .kstatWrite _ => true
  | .registerWrite _ _ => true
  | .controlBlockReadDone _ _ => true
  | .policyRecordReadDone _ _ => true
  | .riReadDeadline => true
  | .scanTimerExpiry => true
  | .actionEntryReadDone _ _ => true
  | .incidentEntryReadDone _ _ => true

end Sys2Proof
end

