-- ==== Sys2Proof/Config.lean ====
section
/-! DEFINITION. The free values: what the spec leaves open and the machine still produces. -/

namespace Sys2Proof

/-- Free value (log 13): a byte that the spec does not state, drawn by a plain counter of the state. It stands for the
bytes of an engine read that a card answers Success with less than one dword (R104 states the result for one dword). -/
opaque Config.freeByte : Nat → Byte

end Sys2Proof
end

