-- ==== Sys2Proof/Machine/State.lean ====
section
/-! DEFINITION. The state of the part as plain data: the records of its fourteen blocks, the reset state, and the
reasons a step can stop. -/

namespace Sys2Proof.Machine

open Sys2Proof

/-! ## Names (chapters 1 to 11) -/

/-- The thirteen slot states (section 3.1). -/
inductive SlotState where
  | empty | off | powering | training | restoring | held | probation | online | fenced | resetting | bleeding
  | isolated | retired
  deriving DecidableEq, Repr

/-- Recovery kind (R39). -/
inductive RecKind where
  | none | warm | cold
  deriving DecidableEq, Repr

/-- Shutdown target (R39). -/
inductive Target where
  | none | off | retired
  deriving DecidableEq, Repr

/-- Probation mode (R39). -/
inductive ProbMode where
  | quiet | traffic
  deriving DecidableEq, Repr

/-- The trigger field: `none` is 0, the others are codes 1 to 9 (R39, R178). -/
inductive Trigger where
  | none | action | score | probationScore | cardFatal | linkDown | attention | powerLost | hostPortReset | presenceOff
  deriving DecidableEq, Repr

/-- The directed sequence (R67, R70). Host-port isolation and presence cut are applied at once and leave it IDLE. -/
inductive Sequence where
  | idle | warm | reconnect | isolate | coldDown | shutdown | powerUp
  deriving DecidableEq, Repr

/-- The phase in progress (R67). -/
inductive Phase where
  | idle | isolate | assert | ramp | settle | reconnect | training | bleedWait | bleedCheck
  deriving DecidableEq, Repr

/-- What PRU knows of the rail (R73). -/
inductive Rail where
  | down | unproven | good
  deriving DecidableEq, Repr

/-- The kinds of rail fault (R76). -/
inductive RailFault where
  | rampFast | rampSlow | bleedStuck
  deriving DecidableEq, Repr

/-- Disposition class of CTF (R122). -/
inductive DispClass where
  | opened | permit | hold | cut
  deriving DecidableEq, Repr

/-- Activity of the converter (R89). -/
inductive Activity where
  | idle | settling | measuring
  deriving DecidableEq, Repr

/-- State of a rail request (R89). -/
inductive ReqState where
  | none | pending | inService
  deriving DecidableEq, Repr

/-- Chain position of an action entry (section 10.10). -/
inductive Chain where
  | alone | first | middle | last
  deriving DecidableEq, Repr

/-- The outcomes of an action (R147). -/
inductive ActOutcome where
  | done | refused | slotBusy | overtaken | skipped | badCode | badChain | noPolicy | policyInvalid | cardRemoved
  | failed | badArgument | memoryError
  deriving DecidableEq, Repr

/-- The eleven actions (R144). -/
inductive ActCode where
  | fence | recover | powerOn | powerOff | retire | admitSlot | release | snapshot | loadPolicy | readSlot | railSample
  deriving DecidableEq, Repr

/-- The kinds of incident, codes 1 to 18 (R179). -/
inductive IncKind where
  | deadlineExpired | scoreWatch | scoreFence | cardFatal | linkDown | powerLost | dmaBlocked | presenceOn | presenceOff
  | attentionShort | attentionLong | contained | recovered | recoveryFailed | retired | restoreSkipped | railFault
  | isolated
  deriving DecidableEq, Repr

/-! ## The policy and the Control Block (section 10.10) -/

/-- A window: its base and its size in bytes (R2, R125). -/
structure Window where
  base : Addr
  size : Nat
  deriving DecidableEq, Repr

/-- A loaded policy record (section 10.10). It is the one home of TT's route and limits (R3), of HM's thresholds (R27),
of CTF's permit windows (R120) and of the durations of PRU (R67): each of them takes it in the event of acceptance. -/
structure Policy where
  autoContain : Bool
  escalate : Bool
  autoPowerOn : Bool
  restore : Bool
  fatalFence : Bool
  attention : Bool
  probationTraffic : Bool
  autoKind : RecKind
  maxAttempts : Nat
  busFirst : BitVec 8
  busLast : BitVec 8
  memWindows : List Window
  permitWindows : List Window
  mapAddr : Addr
  areaAddr : Addr
  outLimit : Nat
  probLimit : Nat
  bleedExt : Nat
  watchT : Nat
  fenceT : Nat
  probT : Nat
  offT : Nat
  completionDeadline : Nat
  drain : Nat
  isoLead : Nat
  resetHold : Nat
  releaseLag : Nat
  bleedWait : Nat
  bleedRecheck : Nat
  rampMin : Nat
  rampMax : Nat
  settle : Nat
  trainTimeout : Nat
  probQuiet : Nat
  probTraffic : Nat
  attnLong : Nat
  deriving DecidableEq, Repr

/-- What stands for the policy of a slot that has none. No reachable event reads it (log 26). -/
def Policy.blank : Policy :=
  { autoContain := false, escalate := false, autoPowerOn := false, restore := false, fatalFence := false
    attention := false, probationTraffic := false, autoKind := .none, maxAttempts := 0, busFirst := 0, busLast := 0
    memWindows := [], permitWindows := [], mapAddr := 0, areaAddr := 0, outLimit := 0, probLimit := 0, bleedExt := 0
    watchT := 0, fenceT := 0, probT := 0, offT := 0, completionDeadline := 0, drain := 0, isoLead := 0, resetHold := 0
    releaseLag := 0, bleedWait := 0, bleedRecheck := 0, rampMin := 0, rampMax := 0, settle := 0, trainTimeout := 0
    probQuiet := 0, probTraffic := 0, attnLong := 0 }

/-- The fields of the Control Block (section 10.10). -/
structure ControlBlock where
  actionBase : Addr
  actionExp : Nat
  incidentExp : Nat
  prescaleSel : Nat
  divider : Nat
  scanInterval : Nat
  senseInterval : Nat
  incidentBase : Addr
  policyBase : Addr
  intBase : Addr
  intSize : Nat
  enables : BitVec 32
  deriving DecidableEq, Repr

/-! ## The slot records -/

/-- Who issued a tracked request, and where its completions go; absent for ENGINE (R7). -/
inductive Origin where
  | host (req : Requester)
  | engine
  deriving DecidableEq, Repr

/-- The fields of an ORT entry that is not FREE (R7). -/
structure OrtFields where
  origin : Origin
  kind : ReqKind
  dwords : Nat
  bytes : Nat
  deadline : Tick
  parts : Nat
  deriving DecidableEq, Repr

/-- An ORT entry: when it becomes FREE its other fields lose their meaning (R7). -/
inductive OrtEntry where
  | free
  | live (f : OrtFields)
  | stale (f : OrtFields)
  deriving DecidableEq, Repr

/-- A request in a Hold Queue (R10), kept with what it is sent down as (log 2). -/
structure Held where
  request : Tracked
  deadline : Tick
  deriving DecidableEq, Repr

/-- TT's part of a slot. -/
structure TtRec where
  ort : Vector OrtEntry 32
  hold : List Held
  discard : Nat
  deriving DecidableEq, Repr

/-- The health record (R27). -/
structure HmRec where
  score : Nat
  watched : Bool
  alert : Bool
  firstExpiry : Bool
  deriving DecidableEq, Repr

/-- The slot record (R39). -/
structure CsRec where
  state : SlotState
  attempts : Nat
  kind : RecKind
  target : Target
  retryPending : Bool
  restoreWanted : Bool
  probMode : ProbMode
  probCount : Nat
  trigger : Trigger
  drain : Option Nat
  deriving DecidableEq, Repr

/-- The sequencing record (R67). `isoOpen`: isolation OPEN; `asserted`: reset ASSERTED; `power`, `bleed`: ON.
`rampDue` says that the check R75 makes at a tick found the ramp maximum reached and RAMP_SLOW is still to be taken
(log 5). -/
structure PruRec where
  isoOpen : Bool
  asserted : Bool
  power : Bool
  bleed : Bool
  sequence : Sequence
  phase : Phase
  timer : Option Nat
  rampCount : Nat
  rampDue : Bool
  rechecks : Nat
  lastReading : Nat
  rail : Rail
  deriving DecidableEq, Repr

/-- The filter record (R120). -/
structure CtfRec where
  holdover : Option CardWrite
  dmaReported : Bool
  cls : DispClass
  deriving DecidableEq, Repr

/-- The sense record (R133): `true` is PRESENT or PRESSED. -/
structure SenseRec where
  presAcc : Bool
  presPrev : Bool
  attnAcc : Bool
  attnPrev : Bool
  width : Nat
  longMade : Bool
  pgAcc : Bool
  pgPrev : Bool
  deriving DecidableEq, Repr

/-- An action entry as taken (R144): ring index, chain position and code (which R173 writes back), and arguments. -/
structure ActEntry where
  index : Nat
  chain : Chain
  code : BitVec 8
  argA : BitVec 16
  argB : BitVec 32
  deriving DecidableEq, Repr

/-- What occupies an action record (R145). -/
inductive Occupant where
  | none | action | plan
  deriving DecidableEq, Repr

/-- The identity and the deadline of a host memory read that is outstanding. -/
structure ReadRef where
  id : Nat
  deadline : Tick
  deriving DecidableEq, Repr

/-- The action-in-progress record (R145). `cardRemoved`: the decided outcome is CARD_REMOVED. `policyRead`: the read of a
LOAD_POLICY (R155). -/
structure AdRec where
  occupant : Occupant
  current : Option ActEntry
  cardRemoved : Bool
  remaining : List ActEntry
  policyRead : Option ReadRef
  deriving DecidableEq, Repr

/-- All that the part keeps for one slot, but for its rail request. -/
structure SlotRec where
  policy : Option Policy
  tt : TtRec
  hm : HmRec
  cs : CsRec
  pru : PruRec
  ctf : CtfRec
  sense : SenseRec
  ad : AdRec
  deriving DecidableEq, Repr

/-! ## The part-wide records -/

/-- The timebase (R1). -/
structure Timebase where
  prescale : Nat
  divider : Nat
  counter : Tick
  deriving DecidableEq, Repr

/-- A rail request (R89). -/
structure RailReq where
  state : ReqState
  bleed : Bool
  sample : Bool
  deriving DecidableEq, Repr

/-- The Rail Monitor: the converter record and the request records (R89). -/
structure RmRec where
  activity : Activity
  inService : Option Slot
  timer : Nat
  channel : Option Slot
  lastServed : Slot
  reqs : Vector RailReq 8
  deriving DecidableEq, Repr

/-- The kinds of engine operation (R105). -/
inductive OpKind where
  | snapshot | restore
  deriving DecidableEq, Repr

structure SeOp where
  kind : OpKind
  slot : Slot
  deriving DecidableEq, Repr

/-- Where the current operation stands (R102). -/
inductive SeStep where
  | idle | readHeader | readMap | readData | copy | writeBack | verifyRead
  deriving DecidableEq, Repr

/-- An entry of the Shadow Map (R99). -/
structure MapEntry where
  index : Nat
  count : Nat
  skip : Bool
  last : Bool
  verify : Bool
  deriving DecidableEq, Repr

/-- The pass of a write-back (R112). -/
inductive Pass where
  | first | last
  deriving DecidableEq, Repr

/-- What a host memory read of SE is for. The header is one read, and the map two, its head and then its entries (R107;
log 15). -/
inductive SeRead where
  | header | mapHead | mapEntries (count : Nat) | data
  deriving DecidableEq, Repr

/-- What the current operation has outstanding (R102). -/
inductive SeWait where
  | nothing
  | read (r : ReadRef) (what : SeRead)
  | card
  deriving DecidableEq, Repr

/-- The engine record (R102). `hdrCount` and `hdrLength` are the header's map entry count and data length, which a
restore compares with the map (R111). -/
structure SeRec where
  queue : List SeOp
  current : Option SeOp
  step : SeStep
  mapAddr : Addr
  areaAddr : Addr
  bus : BitVec 8
  map : List MapEntry
  generation : Nat
  hdrCount : Nat
  hdrLength : Nat
  pass : Pass
  entry : Nat
  dword : Nat
  staging : List Dword
  waiting : SeWait
  deriving DecidableEq, Repr

/-- The ring-interface state (R163). -/
inductive RiState where
  | stopped | initializing | running | halted
  deriving DecidableEq, Repr

/-- The init fault (R163). -/
inductive InitFault where
  | none | cbRead | cbInvalid
  deriving DecidableEq, Repr

/-- The six causes (R163). -/
structure Causes where
  actionDone : Bool
  incident : Bool
  initDone : Bool
  initError : Bool
  memError : Bool
  badCommand : Bool
  deriving DecidableEq, Repr

/-- An entry of the in-flight list with its taken tick (R163). -/
structure InFlight where
  index : Nat
  taken : Tick
  deriving DecidableEq, Repr

/-- The host memory read RI has outstanding and what it is for (R166, R167, R170 to R172, R174). A policy read keeps the
slots rejected so far in this INIT; a look-ahead keeps the slot of FIRST and the entries collected, FIRST at the head. -/
inductive RiWork where
  | idle
  | controlBlock (r : ReadRef)
  | policy (r : ReadRef) (slot : Slot) (rejected : BitVec 8)
  | action (r : ReadRef)
  | lookAhead (r : ReadRef) (slot : Slot) (collected : List ActEntry)
  | incident (r : ReadRef)
  deriving DecidableEq, Repr

/-- The interface record and the registers (R163, R164). -/
structure RiRec where
  state : RiState
  initValid : Bool
  initFault : InitFault
  initRejected : BitVec 8
  cb : Option ControlBlock
  actionPtr : Nat
  incidentPtr : Nat
  inFlight : List InFlight
  scanTimer : Option Nat
  scanRequested : Bool
  causes : Causes
  summary : Bool
  kcbl : BitVec 32
  kcbh : BitVec 32
  work : RiWork
  deriving DecidableEq, Repr

/-- An incident (R178, R179). `merged` is the merged-kind set, bit n for kind code n. -/
structure Incident where
  slot : Slot
  kind : IncKind
  state : SlotState
  timestamp : Tick
  score : Nat
  attempts : Nat
  trigger : Trigger
  mergedCount : Nat
  merged : BitVec 32
  countA : Nat
  countB : Nat
  detail : BitVec 64
  deriving DecidableEq, Repr

/-- Who reads host memory. -/
inductive Reader where
  | shadowEngine | ringInterface | dispatcher (i : Slot)
  deriving DecidableEq, Repr

/-- What the part hands to the Host Port or to a slot port. -/
inductive Output where
  /-- A completion sent upstream to the host (R5, R12). -/
  | completion (req : Requester) (c : CardCpl)
  /-- A tracked host request sent down with its downstream tag (R9). -/
  | sendDown (i : Slot) (tag : Tag) (op : NonPosted)
  /-- A posted host request forwarded down, untracked (R4). -/
  | postDown (i : Slot) (p : Posted)
  /-- An engine access on tag 31: bus number, dword index, and the dword of a write (R104). -/
  | engineDown (i : Slot) (bus : BitVec 8) (index : Nat) (write : Option Dword)
  /-- A card memory write or interrupt message forwarded to the host (R123, R128). -/
  | cardWriteUp (i : Slot) (w : CardWrite)
  /-- A card memory read forwarded to the host (R123). -/
  | cardReadUp (i : Slot) (req : Requester) (addr : Addr) (dwords : Nat)
  /-- An Unsupported completion down the slot port that refuses a card read (R124). -/
  | refuseDown (i : Slot) (req : Requester)
  /-- A host completion routed down to the card that asked (R131). -/
  | completionDown (i : Slot) (c : HostCpl)
  /-- A host memory read by the part. -/
  | hostRead (by' : Reader) (id : Nat) (addr : Addr) (bytes : Nat)
  /-- A host memory write by the part. -/
  | hostWrite (addr : Addr) (bytes : List Byte)
  /-- The part's interrupt message: one dword to the interrupt window base, carrying KSTAT (R175). -/
  | interrupt (addr : Addr) (kstat : Dword)
  deriving DecidableEq, Repr

/-- The four outputs of a slot (R67). -/
inductive Signal where
  | isolation | reset | power | bleed
  deriving DecidableEq, Repr

/-- A change of a slot output; `level` is true for OPEN, ASSERTED and ON (R68). -/
structure SignalChange where
  slot : Slot
  signal : Signal
  level : Bool
  deriving DecidableEq, Repr

/-- The state of the part. `out`, `signals`, `readId`, `free` and `pending` are the model's own (INVENTORY.md). `signals`
is every change of a slot output so far, in the order in which PRU applied them (R68; log 36). -/
structure State where
  slots : Vector SlotRec 8
  tb : Timebase
  sampleTimer : Nat
  senseInterval : Nat
  rm : RmRec
  se : SeRec
  ri : RiRec
  iq : List Incident
  out : List Output
  signals : List SignalChange
  readId : Nat
  free : Nat
  pending : List Instr
  deriving DecidableEq, Repr

/-- Reasons a command ends in a fault: none. The spec describes no stop of the part, and every command has an effect or
finds nothing to do. -/
inductive Fault where
  deriving DecidableEq, Repr

/-- Reasons a command is refused. -/
inductive Refusal where
  /-- Raised by an arm of `exec` whose row has no meaning yet; safe, since nothing is claimed of the row. No arm raises it. -/
  | notModelled (mnemonic : String)
  deriving DecidableEq, Repr

/-! ## Power-on reset values -/

/-- A slot after power-on reset (R26, R27, R39, R67, R120, R133, R145). -/
def SlotRec.reset : SlotRec :=
  { policy := none
    tt := { ort := Vector.replicate 32 .free, hold := [], discard := 0 }
    hm := { score := 0, watched := false, alert := false, firstExpiry := false }
    cs := { state := .empty, attempts := 0, kind := .none, target := .none, retryPending := false
            restoreWanted := false, probMode := .quiet, probCount := 0, trigger := .none, drain := none }
    pru := { isoOpen := true, asserted := true, power := false, bleed := false, sequence := .idle, phase := .idle
             timer := none, rampCount := 0, rampDue := false, rechecks := 0, lastReading := 0, rail := .down }
    ctf := { holdover := none, dmaReported := false, cls := .cut }
    sense := { presAcc := false, presPrev := false, attnAcc := false, attnPrev := false, width := 0
               longMade := false, pgAcc := false, pgPrev := false }
    ad := { occupant := .none, current := none, cardRemoved := false, remaining := [], policyRead := none } }

/-- The engine after power-on reset (R119); the fields without a meaning are at the values of log 16. -/
def SeRec.reset : SeRec :=
  { queue := [], current := none, step := .idle, mapAddr := 0, areaAddr := 0, bus := 0, map := [], generation := 0
    hdrCount := 0, hdrLength := 0, pass := .first, entry := 0, dword := 0, staging := [], waiting := .nothing }

def Causes.clear : Causes :=
  { actionDone := false, incident := false, initDone := false, initError := false, memError := false
    badCommand := false }

/-- The interface after power-on reset (R177). -/
def RiRec.reset : RiRec :=
  { state := .stopped, initValid := false, initFault := .none, initRejected := 0, cb := none, actionPtr := 0
    incidentPtr := 0, inFlight := [], scanTimer := none, scanRequested := false, causes := Causes.clear
    summary := false, kcbl := 0, kcbh := 0, work := .idle }

/-- The part right after power-on reset, as the chapters state it (R1, R26, R38, R39, R67, R98, R119, R120, R143, R145,
R177, R184). -/
def State.reset : State :=
  { slots := Vector.replicate 8 SlotRec.reset
    tb := { prescale := 64, divider := 31, counter := 0 }
    sampleTimer := 49
    senseInterval := 49
    rm := { activity := .idle, inService := none, timer := 0, channel := none, lastServed := 7
            reqs := Vector.replicate 8 { state := .none, bleed := false, sample := false } }
    se := SeRec.reset
    ri := RiRec.reset
    iq := []
    out := []
    signals := []
    readId := 0
    free := 0
    pending := [] }

end Sys2Proof.Machine
end

