-- ==== Sys2Proof/Machine/Operands.lean ====
section
/-! DEFINITION. The codes of the manual's names, and the layouts of section 10.10: how the bytes of host memory are read
as a Control Block, a policy record, an action entry, a shadow header and a shadow map, and how records are laid out. -/

namespace Sys2Proof

/-! ## The operands of commands -/

/-- A read that asked for `n` bytes: `none` is the read error of R103, R155 and R169 (Unsupported, Aborted or too few
bytes). Bytes past the ones asked for are not looked at (log 14). -/
def ReadResult.bytes (n : Nat) : ReadResult → Option (List Byte)
  | .data b => if n ≤ b.length then some (b.take n) else none
  | .unsupported => none
  | .aborted => none

/-- The request kind codes of DEADLINE_EXPIRED (R179). -/
def ReqKind.code : ReqKind → Nat
  | .memoryRead => 0 | .configRead => 1 | .configWrite => 2

def NonPosted.kind : NonPosted → ReqKind
  | .memRead _ _ => .memoryRead
  | .cfgRead _ _ => .configRead
  | .cfgWrite _ _ _ => .configWrite

/-- Dwords requested (R7). -/
def NonPosted.dwords : NonPosted → Nat
  | .memRead _ n => n
  | .cfgRead _ _ => 1
  | .cfgWrite _ _ _ => 1

/-- Bytes remaining at the start (R9). -/
def NonPosted.bytes : NonPosted → Nat
  | .memRead _ n => 4 * n
  | .cfgRead _ _ => 4
  | .cfgWrite _ _ _ => 0

end Sys2Proof

namespace Sys2Proof.Machine

open Sys2Proof

/-! ## Bytes, least significant first (00_scope, "Names and numbers") -/

/-- The low `n` bytes of a number. -/
def toLE : Nat → Nat → List Byte
  | 0, _ => []
  | n + 1, w => BitVec.ofNat 8 w :: toLE n (w / 256)

def byteAt (b : List Byte) (k : Nat) : Nat := (b.getD k 0).toNat

/-- The `n`-byte field at offset `k`. -/
def leNat (b : List Byte) (k : Nat) : Nat → Nat
  | 0 => 0
  | n + 1 => byteAt b k + 256 * leNat b (k + 1) n

/-- The 8-byte field at offset `k`. -/
def leAddr (b : List Byte) (k : Nat) : Addr := BitVec.ofNat 64 (leNat b k 8)

/-- Bytes `k` to `k + n − 1` are all zero. -/
def zeroFrom (b : List Byte) (k n : Nat) : Bool := decide (leNat b k n = 0)

/-! ## Codes -/

/-- The code of a slot state (section 3.1). -/
def SlotState.code : SlotState → Nat
  | .empty => 0 | .off => 1 | .powering => 2 | .training => 3 | .restoring => 4 | .held => 5 | .probation => 6
  | .online => 7 | .fenced => 8 | .resetting => 9 | .bleeding => 10 | .isolated => 11 | .retired => 12

def RecKind.code : RecKind → Nat
  | .none => 0 | .warm => 1 | .cold => 2

/-- The codes of R39 and R178. -/
def Trigger.code : Trigger → Nat
  | .none => 0 | .action => 1 | .score => 2 | .probationScore => 3 | .cardFatal => 4 | .linkDown => 5
  | .attention => 6 | .powerLost => 7 | .hostPortReset => 8 | .presenceOff => 9

/-- The codes of R76. -/
def RailFault.code : RailFault → Nat
  | .rampFast => 1 | .rampSlow => 2 | .bleedStuck => 3

def Chain.code : Chain → Nat
  | .alone => 0 | .first => 1 | .middle => 2 | .last => 3

/-- The codes of R147. -/
def ActOutcome.code : ActOutcome → Nat
  | .done => 0 | .refused => 1 | .slotBusy => 2 | .overtaken => 3 | .skipped => 4 | .badCode => 5 | .badChain => 6
  | .noPolicy => 7 | .policyInvalid => 8 | .cardRemoved => 9 | .failed => 10 | .badArgument => 11 | .memoryError => 12

/-- The codes of R179. -/
def IncKind.code : IncKind → Nat
  | .deadlineExpired => 1 | .scoreWatch => 2 | .scoreFence => 3 | .cardFatal => 4 | .linkDown => 5 | .powerLost => 6
  | .dmaBlocked => 7 | .presenceOn => 8 | .presenceOff => 9 | .attentionShort => 10 | .attentionLong => 11
  | .contained => 12 | .recovered => 13 | .recoveryFailed => 14 | .retired => 15 | .restoreSkipped => 16
  | .railFault => 17 | .isolated => 18

/-- The codes of R144. -/
def ActCode.code : ActCode → BitVec 8
  | .fence => 1 | .recover => 2 | .powerOn => 3 | .powerOff => 4 | .retire => 5 | .admitSlot => 6 | .release => 7
  | .snapshot => 8 | .loadPolicy => 9 | .readSlot => 10 | .railSample => 11

/-- The action a code names; `none` outside 0x01 to 0x0B (R146, check 1). -/
def ActCode.ofCode (c : BitVec 8) : Option ActCode :=
  match c.toNat with
  | 1 => some .fence | 2 => some .recover | 3 => some .powerOn | 4 => some .powerOff | 5 => some .retire
  | 6 => some .admitSlot | 7 => some .release | 8 => some .snapshot | 9 => some .loadPolicy | 10 => some .readSlot
  | 11 => some .railSample | _ => none

/-- The action an entry names. -/
def ActEntry.act (e : ActEntry) : Option ActCode := ActCode.ofCode e.code

/-- Recovery states (section 3.1). -/
def SlotState.recovery : SlotState → Bool
  | .fenced | .resetting | .bleeding | .powering | .training | .restoring => true
  | .empty | .off | .held | .probation | .online | .isolated | .retired => false

/-- The disposition class of a slot state (R122). -/
def SlotState.cls : SlotState → DispClass
  | .online => .opened
  | .probation => .permit
  | .training | .restoring | .held => .hold
  | .fenced | .resetting | .bleeding | .powering | .isolated | .off | .retired | .empty => .cut

/-! ## Routes -/

/-- Every byte from `a` to `a + 4·n − 1` lies in the window (R2, R125). -/
def Window.holds (w : Window) (a : Addr) (n : Nat) : Bool :=
  decide (w.base.toNat ≤ a.toNat) && decide (a.toNat + 4 * n ≤ w.base.toNat + w.size)

def Policy.hasBus (p : Policy) (bus : BitVec 8) : Bool :=
  decide (p.busFirst.toNat ≤ bus.toNat) && decide (bus.toNat ≤ p.busLast.toNat)

/-- The request belongs to the slot of this policy (R2). -/
def Policy.routes (p : Policy) : HostRequest → Bool
  | .nonPosted r =>
    match r.op with
    | .memRead a n => p.memWindows.any (·.holds a n)
    | .cfgRead b _ => p.hasBus b
    | .cfgWrite b _ _ => p.hasBus b
  | .posted (.memWrite a d) => p.memWindows.any (·.holds a d.length)
  | .posted (.message b _) => p.hasBus b

/-! ## Policy records (R168) -/

/-- A window field: base 8 bytes, size minus 1 in 4 bytes. -/
def windowAt (b : List Byte) (k : Nat) : Window := ⟨leAddr b k, leNat b (k + 8) 4 + 1⟩

def recKindOf : Nat → Option RecKind
  | 0 => some .none
  | 1 => some .warm
  | 2 => some .cold
  | _ => none

/-- The fields of a 256-byte record (section 10.10); `none` when a check that the fields do not keep fails: VALID clear,
flag bits 8 to 15, the auto recovery kind, a window count, a window not in use, or a byte that must be zero (R168). -/
def parsePolicy (b : List Byte) : Option Policy :=
  let flags := leNat b 0 2
  let mw := byteAt b 6
  let pw := byteAt b 7
  match recKindOf (byteAt b 2) with
  | none => none
  | some kind =>
    if flags % 2 = 1 ∧ flags < 256 ∧ mw ≤ 2 ∧ pw ≤ 4
        ∧ zeroFrom b (8 + 12 * mw) (24 - 12 * mw) = true ∧ zeroFrom b (32 + 12 * pw) (48 - 12 * pw) = true
        ∧ byteAt b 99 = 0 ∧ zeroFrom b 136 120 = true then
      some
        { autoContain := flags.testBit 1, escalate := flags.testBit 2, autoPowerOn := flags.testBit 3
          restore := flags.testBit 4, fatalFence := flags.testBit 5, attention := flags.testBit 6
          probationTraffic := flags.testBit 7, autoKind := kind, maxAttempts := byteAt b 3
          busFirst := BitVec.ofNat 8 (byteAt b 4), busLast := BitVec.ofNat 8 (byteAt b 5)
          memWindows := (List.range mw).map fun k => windowAt b (8 + 12 * k)
          permitWindows := (List.range pw).map fun k => windowAt b (32 + 12 * k)
          mapAddr := leAddr b 80, areaAddr := leAddr b 88, outLimit := byteAt b 96, probLimit := byteAt b 97
          bleedExt := byteAt b 98, watchT := leNat b 100 2, fenceT := leNat b 102 2, probT := leNat b 104 2
          offT := leNat b 106 2, completionDeadline := leNat b 108 2, drain := leNat b 110 2
          isoLead := leNat b 112 2, resetHold := leNat b 114 2, releaseLag := leNat b 116 2
          bleedWait := leNat b 118 2, bleedRecheck := leNat b 120 2, rampMin := leNat b 122 2
          rampMax := leNat b 124 2, settle := leNat b 126 2, trainTimeout := leNat b 128 2
          probQuiet := leNat b 130 2, probTraffic := leNat b 132 2, attnLong := leNat b 134 2 }
    else none

/-- 4 KiB. -/
def kib4 : Nat := 4096

/-- Base and size of a window in use (R168, R125). -/
def Window.valid (w : Window) : Bool :=
  decide (w.base.toNat % kib4 = 0) && decide (w.size % kib4 = 0) && decide (kib4 ≤ w.size)
    && decide (w.size ≤ 4294967296) && decide (w.base.toNat + w.size ≤ 18446744073709551616)

def Window.overlaps (v w : Window) : Bool :=
  decide (v.base.toNat < w.base.toNat + w.size) && decide (w.base.toNat < v.base.toNat + v.size)

/-- No two windows of the list overlap. -/
def windowsApart : List Window → Bool
  | [] => true
  | w :: ws => ws.all (fun v => !w.overlaps v) && windowsApart ws

def inRange (lo hi n : Nat) : Bool := decide (lo ≤ n) && decide (n ≤ hi)

/-- A duration of bytes 108 to 134 that may not be 0 (R168). -/
def durationOk (n : Nat) : Bool := inRange 1 65535 n

/-- The requirements of R168 on the fields of a record, but for other slots. -/
def Policy.valid (p : Policy) : Bool :=
  inRange 1 7 p.maxAttempts && decide (p.busFirst.toNat ≤ p.busLast.toNat)
    && decide (p.memWindows.length ≤ 2) && decide (p.permitWindows.length ≤ 4)
    && p.memWindows.all Window.valid && p.permitWindows.all Window.valid && windowsApart p.memWindows
    && decide (p.mapAddr.toNat % 4 = 0) && decide (p.areaAddr.toNat % 16 = 0)
    && inRange 1 31 p.outLimit && inRange 1 31 p.probLimit && decide (p.bleedExt ≤ 7)
    && inRange 1 1023 p.watchT && inRange 1 1023 p.fenceT && inRange 1 1023 p.probT && decide (p.watchT < p.fenceT)
    && inRange 1 14000 p.offT
    && durationOk p.completionDeadline && decide (p.drain ≤ 65535) && decide (p.isoLead ≤ 65535)
    && durationOk p.resetHold && decide (p.releaseLag ≤ 65535) && durationOk p.bleedWait && durationOk p.bleedRecheck
    && durationOk p.rampMin && durationOk p.rampMax && durationOk p.settle && durationOk p.trainTimeout
    && durationOk p.probQuiet && durationOk p.probTraffic && durationOk p.attnLong

/-- Bus ranges and memory windows of two slots are disjoint (R168, "other slots"; R2). -/
def Policy.apart (p q : Policy) : Bool :=
  !(decide (p.busFirst.toNat ≤ q.busLast.toNat) && decide (q.busFirst.toNat ≤ p.busLast.toNat))
    && p.memWindows.all fun v => q.memWindows.all fun w => !v.overlaps w

/-! ## The Control Block (R166) -/

/-- The fields of the 64-byte block (section 10.10). -/
def parseControlBlock (b : List Byte) : ControlBlock :=
  { actionBase := leAddr b 0, actionExp := byteAt b 8, incidentExp := byteAt b 9, prescaleSel := byteAt b 10
    divider := byteAt b 11, scanInterval := leNat b 12 2, senseInterval := leNat b 14 2
    incidentBase := leAddr b 16, policyBase := leAddr b 24, intBase := leAddr b 32, intSize := leNat b 40 4
    enables := BitVec.ofNat 32 (leNat b 44 4) }

def ControlBlock.actionSize (c : ControlBlock) : Nat := 2 ^ c.actionExp

def ControlBlock.incidentSize (c : ControlBlock) : Nat := 2 ^ c.incidentExp

/-- Prescale select 0, 1, 2, 3 gives 1, 4, 16, 64 (R166). -/
def ControlBlock.prescale (c : ControlBlock) : Nat := 4 ^ c.prescaleSel

def rangesApart (a n b m : Nat) : Bool := decide (a + n ≤ b) || decide (b + m ≤ a)

/-- The bits of KSTAT that are causes: 8 to 13 (section 10.10). -/
def causeMask : BitVec 32 := 0x3F00

/-- The top of the 64-bit address space. -/
def addrTop : Nat := 18446744073709551616

/-- The checks of R166 on the fields. -/
def ControlBlock.valid (c : ControlBlock) : Bool :=
  let a := c.actionBase.toNat
  let i := c.incidentBase.toNat
  let p := c.policyBase.toNat
  inRange 3 8 c.actionExp && inRange 3 8 c.incidentExp && decide (c.prescaleSel ≤ 3) && decide (c.divider ≤ 31)
    && inRange 1 65535 c.scanInterval && inRange 1 65535 c.senseInterval
    && decide (a % 32 = 0) && decide (i % 32 = 0) && decide (p % 256 = 0)
    && decide (a + 32 * c.actionSize ≤ addrTop) && decide (i + 32 * c.incidentSize ≤ addrTop)
    && decide (p + 2048 ≤ addrTop)
    && rangesApart a (32 * c.actionSize) i (32 * c.incidentSize) && rangesApart a (32 * c.actionSize) p 2048
    && rangesApart i (32 * c.incidentSize) p 2048
    && decide (c.intBase.toNat % 4 = 0) && decide (c.intBase.toNat + c.intSize ≤ addrTop)
    && decide (c.enables &&& ~~~causeMask = 0)

/-- The Control Block of 64 bytes, if it is valid (R166). -/
def checkedControlBlock (b : List Byte) : Option ControlBlock :=
  let c := parseControlBlock b
  if c.valid && zeroFrom b 48 16 then some c else none

/-! ## Ring entries (section 10.10) -/

def chainOf : Nat → Chain
  | 0 => .alone
  | 1 => .first
  | 2 => .middle
  | _ => .last

/-- What RI reads of an action entry: whether the part owns it, its slot, and the entry (R171). Bits 14 and 11 of the
control word are ignored. -/
structure RingEntry where
  partOwned : Bool
  slot : Slot
  entry : ActEntry
  deriving DecidableEq, Repr

def parseEntry (b : List Byte) (index : Nat) : RingEntry :=
  let w := leNat b 0 2
  { partOwned := w.testBit 15
    slot := Fin.ofNat 8 (w / 256)
    entry :=
      { index := index, chain := chainOf (w / 4096 % 4), code := BitVec.ofNat 8 w
        argA := BitVec.ofNat 16 (leNat b 2 2), argB := BitVec.ofNat 32 (leNat b 4 4) } }

/-- The owner bit of an incident entry (R174). -/
def incidentOwned (b : List Byte) : Bool := (leNat b 0 2).testBit 15

/-- The control word of a returned entry: owner SOFTWARE, bits 14 and 11 zero (R173). -/
def ActEntry.controlWord (e : ActEntry) (i : Slot) : Nat := e.chain.code * 4096 + i.val * 256 + e.code.toNat

/-- Bytes 16 to 31 of a returned entry (R173, section 10.10). -/
def returnBody (o : ActOutcome) (st : SlotState) (result : Nat) (taken now : Tick) : List Byte :=
  toLE 2 o.code ++ toLE 2 st.code ++ toLE 4 result ++ toLE 4 taken.toNat ++ toLE 4 now.toNat

/-- Bytes 2 to 31 of an incident entry (R182, section 10.10). -/
def Incident.body (x : Incident) : List Byte :=
  toLE 1 x.state.code ++ toLE 1 x.mergedCount ++ toLE 4 x.merged.toNat ++ toLE 4 x.timestamp.toNat
    ++ toLE 2 x.score ++ toLE 1 x.attempts ++ toLE 1 x.trigger.code ++ toLE 4 x.countA ++ toLE 4 x.countB
    ++ toLE 8 x.detail.toNat

/-- The control word of an incident entry: owner SOFTWARE, slot and kind (R182). -/
def Incident.controlWord (x : Incident) : Nat := x.slot.val * 256 + x.kind.code

/-- A detail that holds a code in its first byte and an index in its last four (R179). -/
def detailOf (code index : Nat) : BitVec 64 := BitVec.ofNat 64 (code + 4294967296 * index)

/-! ## The shadow (R99, R100, section 10.10) -/

/-- The states of a shadow header (R100). -/
inductive HdrState where
  | empty | partialCopy | valid
  deriving DecidableEq, Repr

def HdrState.code : HdrState → Nat
  | .empty => 0 | .partialCopy => 1 | .valid => 2

/-- The 16 bytes of a header; bytes 12 to 15 are zero. -/
def headerBytes (st : HdrState) (count generation : Nat) (now : Tick) (length : Nat) : List Byte :=
  toLE 1 st.code ++ toLE 1 count ++ toLE 2 generation ++ toLE 4 now.toNat ++ toLE 4 length ++ toLE 4 0

/-- A map entry of 4 bytes at offset `k`. -/
def mapEntryAt (b : List Byte) (k : Nat) : MapEntry :=
  let w := leNat b k 4
  { index := w % 1024, count := w / 65536 % 32, skip := w.testBit 24, last := w.testBit 25, verify := w.testBit 26 }

/-- The bits of a map entry that the layout assigns: 9 to 0, 20 to 16, 24, 25, 26. -/
def mapEntryMask : BitVec 32 := 0x071F03FF

/-- A map entry is valid: dword count 1 to 16, index plus count at most 1024, the other bits zero (R99). -/
def mapEntryOk (b : List Byte) (k : Nat) : Bool :=
  let e := mapEntryAt b k
  inRange 1 16 e.count && decide (e.index + e.count ≤ 1024)
    && decide (BitVec.ofNat 32 (leNat b k 4) &&& ~~~mapEntryMask = 0)

/-- The entry count of a valid map head (R99); `none` for 0, above 64, or bytes 2 and 3 not zero. -/
def mapHeadCount (b : List Byte) : Option Nat :=
  if inRange 1 64 (leNat b 0 2) && zeroFrom b 2 2 then some (leNat b 0 2) else none

/-- The entries of a map, if every one is valid (R99). -/
def mapEntries (b : List Byte) (count : Nat) : Option (List MapEntry) :=
  if (List.range count).all fun k => mapEntryOk b (4 * k) then
    some ((List.range count).map fun k => mapEntryAt b (4 * k))
  else none

/-- Total dwords of a map (R99). -/
def totalDwords (m : List MapEntry) : Nat := (m.map MapEntry.count).sum

/-- The place of an entry's first dword in the data, in dwords (R100). -/
def dataPlace (m : List MapEntry) (entry : Nat) : Nat := totalDwords (m.take entry)

/-- The dwords of data read from an area. -/
def dwordsOf (b : List Byte) (count : Nat) : List Dword :=
  (List.range count).map fun k => BitVec.ofNat 32 (leNat b (4 * k) 4)

/-! ## The order of slots in one step (log 8) -/

def allSlots : List Slot := [0, 1, 2, 3, 4, 5, 6, 7]

/-- The slots in the order given, each once, the ones not named last. -/
def slotOrder (o : List Slot) : List Slot := o.eraseDups ++ allSlots.filter fun i => !o.contains i

end Sys2Proof.Machine
end

