-- ==== Sys2Proof/Machine/Ops.lean ====
section
/-! DEFINITION. The named operations over the records that every block uses: a slot's record, the outputs, host memory
reads, deadlines, the Incident Queue (chapter 11), and a change of slot state (R40). -/

namespace Sys2Proof.Machine

open Sys2Proof

/-- What a command answers. -/
abbrev Answer := Host.Outcome State Fault Refusal

/-- `f` on every entry of a vector. -/
def mapVec {α : Type} {n : Nat} (f : α → α) (v : Vector α n) : Vector α n :=
  ⟨⟨v.toList.map f⟩, by simp⟩

/-! ## Slots and outputs -/

def State.slot (s : State) (i : Slot) : SlotRec := s.slots.get i

def State.setSlot (s : State) (i : Slot) (r : SlotRec) : State := { s with slots := s.slots.set i r }

def State.modSlot (s : State) (i : Slot) (f : SlotRec → SlotRec) : State := s.setSlot i (f (s.slot i))

/-- Hand outputs to the ports, in order. -/
def State.emits (s : State) (os : List Output) : State := { s with out := s.out ++ os }

def State.emit (s : State) (o : Output) : State := s.emits [o]

/-- The changes from one set of a slot's outputs to another, in the order of R68: isolation OPEN, reset ASSERTED, power OFF,
bleed ON; and the other way as the phases give, bleed OFF, power ON, isolation CLOSED, reset RELEASED (R74, R78). -/
def signalChanges (i : Slot) (old new : PruRec) : List SignalChange :=
  (if !old.isoOpen && new.isoOpen then [⟨i, .isolation, true⟩] else [])
    ++ (if !old.asserted && new.asserted then [⟨i, .reset, true⟩] else [])
    ++ (if old.power && !new.power then [⟨i, .power, false⟩] else [])
    ++ (if !old.bleed && new.bleed then [⟨i, .bleed, true⟩] else [])
    ++ (if old.bleed && !new.bleed then [⟨i, .bleed, false⟩] else [])
    ++ (if !old.power && new.power then [⟨i, .power, true⟩] else [])
    ++ (if old.isoOpen && !new.isoOpen then [⟨i, .isolation, false⟩] else [])
    ++ (if old.asserted && !new.asserted then [⟨i, .reset, false⟩] else [])

/-- PRU drives outputs, in order. -/
def State.drives (s : State) (cs : List SignalChange) : State := { s with signals := s.signals ++ cs }

/-- The tick-counter value (R1). -/
def State.now (s : State) : Tick := s.tb.counter

/-- The slot's loaded policy; the blank one where none is loaded (log 26). -/
def SlotRec.pol (r : SlotRec) : Policy := r.policy.getD Policy.blank

def State.pol (s : State) (i : Slot) : Policy := (s.slot i).pol

/-! ## Deadlines and host memory reads (R17, R103, R155, R169) -/

/-- The deadline `n` ticks from now. -/
def deadlineIn (now : Tick) (n : Nat) : Tick := now + BitVec.ofNat 32 n

/-- The counter has reached the deadline: it took that value at most 2^31 − 1 ticks ago (R17; log 6). -/
def deadlineReached (now deadline : Tick) : Bool := decide ((now - deadline).toNat < 2147483648)

/-- Hand a host memory read to the Host Port under a fresh identity (log 4). -/
def State.issueRead (s : State) (who : Reader) (addr : Addr) (bytes : Nat) : State :=
  { s.emit (.hostRead who s.readId addr bytes) with readId := s.readId + 1 }

/-- The reference of the next read, with its deadline. -/
def State.readRef (s : State) (ticks : Nat) : ReadRef := ⟨s.readId, deadlineIn s.now ticks⟩

/-! ## The Incident Queue (R178 to R181) -/

/-- Merge a kind into a queued incident: the set takes it, the count goes up and holds at 255 (R181). -/
def Incident.absorb (x : Incident) (k : IncKind) : Incident :=
  { x with merged := x.merged ||| (1#32 <<< k.code), mergedCount := min 255 (x.mergedCount + 1) }

/-- Merge into the newest queued incident of the slot (R181). -/
def mergeNewest (i : Slot) (k : IncKind) : List Incident → List Incident
  | [] => []
  | x :: xs =>
    if x.slot = i ∧ xs.all (fun y => decide (y.slot ≠ i)) = true then x.absorb k :: xs
    else x :: mergeNewest i k xs

/-- How many incidents of the slot are queued. -/
def queuedFor (i : Slot) (q : List Incident) : Nat := q.countP fun x => decide (x.slot = i)

/-- IW takes an incident: at the tail while its slot has fewer than 4, merged otherwise (R180, R181). -/
def iwTake (x : Incident) (q : List Incident) : List Incident :=
  if queuedFor x.slot q < 4 then q ++ [x] else mergeNewest x.slot x.kind q

/-- The record of an incident raised now: its common fields are read from the slot as it stands (R178). -/
def State.incident (s : State) (i : Slot) (k : IncKind) (a b : Nat) (detail : BitVec 64) : Incident :=
  let r := s.slot i
  { slot := i, kind := k, state := r.cs.state, timestamp := s.now, score := r.hm.score, attempts := r.cs.attempts
    trigger := r.cs.trigger, mergedCount := 0, merged := 0, countA := a, countB := b, detail := detail }

/-- A block raises an incident for a slot (R178 to R180). -/
def State.raise (s : State) (i : Slot) (k : IncKind) (a : Nat := 0) (b : Nat := 0) (detail : BitVec 64 := 0) : State :=
  { s with iq := iwTake (s.incident i k a b detail) s.iq }

/-! ## A change of slot state (R40) -/

/-- CS sets a slot's state and hands it to CTF, which sets the disposition class (R122, R132). -/
def SlotRec.enter (r : SlotRec) (st : SlotState) : SlotRec :=
  { r with cs := { r.cs with state := st }, ctf := { r.ctf with cls := st.cls } }

def State.enter (s : State) (i : Slot) (st : SlotState) : State := s.modSlot i (·.enter st)

/-- HM clears the first-expiry flag on entry to ONLINE, PROBATION or HELD (R35). -/
def SlotRec.clearFirstExpiry (r : SlotRec) : SlotRec := { r with hm := { r.hm with firstExpiry := false } }

/-- HM sets the score to 0 and clears WATCHED and the alert flag, without an incident (R30). -/
def SlotRec.clearScore (r : SlotRec) : SlotRec :=
  { r with hm := { r.hm with score := 0, watched := false, alert := false } }

def State.setTrigger (s : State) (i : Slot) (t : Trigger) : State :=
  s.modSlot i fun r => { r with cs := { r.cs with trigger := t } }

end Sys2Proof.Machine
end

