-- ==== Sys2Proof/Machine/Flags.lean ====
section
/-! DEFINITION. The causes, the summary and KSTAT (R163, R164, R175), the interrupt message, and the registers as they
read. -/

namespace Sys2Proof.Machine

open Sys2Proof

def boolBit (b : Bool) (k : Nat) : Nat := if b then 2 ^ k else 0

/-- The causes at their bits of KSTAT (section 10.10). -/
def Causes.bits (c : Causes) : Nat :=
  boolBit c.actionDone 8 + boolBit c.incident 9 + boolBit c.initDone 10 + boolBit c.initError 11
    + boolBit c.memError 12 + boolBit c.badCommand 13

/-- The cause enables: those of the Control Block copy, every one clear while it is absent (R163). -/
def RiRec.enables (r : RiRec) : BitVec 32 :=
  match r.cb with
  | some c => c.enables
  | none => 0

/-- The OR over the causes of cause AND enable (R163, R175). -/
def RiRec.summaryNow (r : RiRec) : Bool := decide (BitVec.ofNat 32 r.causes.bits &&& r.enables ≠ 0)

def RiState.code : RiState → Nat
  | .stopped => 0 | .initializing => 1 | .running => 2 | .halted => 3

def InitFault.code : InitFault → Nat
  | .none => 0 | .cbRead => 1 | .cbInvalid => 2

/-- The value of KSTAT (section 10.10). -/
def RiRec.kstat (r : RiRec) : Dword :=
  BitVec.ofNat 32
    (r.state.code + 16 * r.initFault.code + r.causes.bits + 65536 * r.initRejected.toNat + boolBit r.summary 31)

/-- The four registers of the management function. -/
inductive RegName where
  | kcmd | kstat | kcbl | kcbh
  deriving DecidableEq, Repr

/-- The byte offset of a register (section 10.10). -/
def RegName.offset : RegName → Nat
  | .kcmd => 0 | .kstat => 4 | .kcbl => 8 | .kcbh => 12

/-- The register at a byte offset. -/
def RegName.atOffset (n : Nat) : Option RegName :=
  [RegName.kcmd, .kstat, .kcbl, .kcbh].find? fun g => decide (g.offset = n)

/-- The command that a write to KCMD is, by its low byte (R164); the other bits are not looked at (log 40). -/
def kcmdCommand (v : Dword) : Instr :=
  match v.toNat % 256 with
  | 1 => .init | 2 => .start | 3 => .stop | 4 => .prompt | _ => .unknownCommand v

/-- The row of the table that a write of a value to a register is (R164). -/
def RegName.write (g : RegName) (v : Dword) : Instr :=
  match g with
  | .kcmd => kcmdCommand v
  | .kstat => .kstatWrite v
  | .kcbl => .registerWrite .kcbl v
  | .kcbh => .registerWrite .kcbh v

/-- What a read of a register returns (R164). The table has no row for it: a read changes nothing. -/
def RiRec.readRegister (r : RiRec) : RegName → Dword
  | .kcmd => 0
  | .kstat => r.kstat
  | .kcbl => r.kcbl
  | .kcbh => r.kcbh

/-- Bring the summary into line at the end of an event. At a rise RI sends one interrupt message, after the writes of
the event, unless the Control Block copy is absent or its interrupt window has size 0 (R175). -/
def State.align (s : State) : State :=
  let up := s.ri.summaryNow
  let s' := { s with ri := { s.ri with summary := up } }
  if up && !s.ri.summary then
    match s.ri.cb with
    | some c => if 0 < c.intSize then s'.emit (.interrupt c.intBase s'.ri.kstat) else s'
    | none => s'
  else s'

/-- A KSTAT write clears the causes whose bits are written 1 (R164). -/
def Causes.clearBits (c : Causes) (v : Dword) : Causes :=
  { actionDone := c.actionDone && !v.getLsbD 8, incident := c.incident && !v.getLsbD 9
    initDone := c.initDone && !v.getLsbD 10, initError := c.initError && !v.getLsbD 11
    memError := c.memError && !v.getLsbD 12, badCommand := c.badCommand && !v.getLsbD 13 }

def State.setCauses (s : State) (f : Causes → Causes) : State :=
  { s with ri := { s.ri with causes := f s.ri.causes } }

/-- BAD_COMMAND is set and nothing else changes (R164, R165). -/
def State.badCommand (s : State) : State := s.setCauses fun c => { c with badCommand := true }

end Sys2Proof.Machine
end

