-- ==== Sys2Proof/Machine/Returns.lean ====
section
/-! DEFINITION. The return of an action: RI's writing of it (R173), the end of the current entry and what it does to a
plan (R147, R160), the returns at the entry to a state (R148 to R152), and presence loss (R161). -/

namespace Sys2Proof.Machine

open Sys2Proof

/-- Address of an entry of a ring of 32-byte entries. -/
def ringAddr (base : Addr) (index : Nat) : Addr := base + BitVec.ofNat 64 (32 * index)

/-- RI writes a return into its entry: bytes 16 to 31, then the control word with owner SOFTWARE; the index leaves the
in-flight list and ACTION_DONE is set (R173). Only an entry in flight is returned. -/
def State.giveBack (s : State) (i : Slot) (e : ActEntry) (o : ActOutcome) (result : Nat) : State :=
  match s.ri.cb, s.ri.inFlight.find? fun f => decide (f.index = e.index) with
  | some cb, some f =>
    let a := ringAddr cb.actionBase e.index
    let w := s.emits
      [.hostWrite (a + 16) (returnBody o (s.slot i).cs.state result f.taken s.now),
        .hostWrite a (toLE 2 (e.controlWord i))]
    { w with
      ri := { w.ri with
        inFlight := w.ri.inFlight.filter fun g => !decide (g.index = e.index)
        causes := { w.ri.causes with actionDone := true } } }
  | _, _ => s

/-- Entries returned SKIPPED with result 0, in ring order (R160). -/
def State.skipAll (s : State) (i : Slot) (es : List ActEntry) : State :=
  es.foldl (fun t e => t.giveBack i e .skipped 0) s

/-- A free action record (R145). -/
def AdRec.free : AdRec :=
  { occupant := .none, current := none, cardRemoved := false, remaining := [], policyRead := none }

def State.setAd (s : State) (i : Slot) (a : AdRec) : State := s.modSlot i fun r => { r with ad := a }

/-- The current entry of the slot's record is this action. -/
def AdRec.runs (a : AdRec) (c : ActCode) : Bool :=
  match a.current with
  | some e => decide (e.act = some c)
  | none => false

/-- The current entry is returned. DONE with entries remaining leaves the plan between two entries (`startNext` takes the
next one in the same event); any other outcome returns the remaining entries SKIPPED and frees the record (R160). -/
def State.endEntry (s : State) (i : Slot) (o : ActOutcome) (result : Nat) : State :=
  let a := (s.slot i).ad
  match a.current with
  | none => s
  | some e =>
    let t := s.giveBack i e o result
    if o = .done ∧ a.remaining ≠ [] then
      t.setAd i { AdRec.free with occupant := a.occupant, remaining := a.remaining }
    else (t.skipAll i a.remaining).setAd i AdRec.free

/-- What an action in progress awaits (R145): the outcome it is returned with when its slot enters a state, from the
tables of R148 to R152. `none`: the entry does not return it. -/
def ActCode.atEntry : ActCode → SlotState → Option ActOutcome
  | .fence, .online => some .done
  | .fence, .held => some .done
  | .fence, .isolated => some .done
  | .fence, .retired => some .failed
  | .recover, .online => some .done
  | .recover, .held => some .done
  | .recover, .isolated => some .done
  | .recover, .retired => some .failed
  | .powerOn, .held => some .done
  | .powerOn, .probation => some .done
  | .powerOn, .retired => some .failed
  | .powerOff, .off => some .done
  | .powerOff, .retired => some .failed
  | .retire, .retired => some .done
  | _, _ => none

/-- The state entries that return an entry (R145, awaited end). -/
def ActEntry.awaits (e : ActEntry) (st : SlotState) : Option ActOutcome :=
  match e.act with
  | some c => c.atEntry st
  | none => none

/-- The result of a return at a state entry: attempts for FENCE, RECOVER and POWER_ON (R148 to R150), the last bleed
reading for POWER_OFF and RETIRE (R151, R152). -/
def ActEntry.entryResult (e : ActEntry) (attempts reading : Nat) : Nat :=
  match e.act with
  | some .powerOff => reading
  | some .retire => reading
  | _ => attempts

/-- AD returns the action in progress when the slot enters the state it waits for (R40). `attempts` is the attempts field
at the moment of entry. -/
def State.onEntry (s : State) (i : Slot) (st : SlotState) (attempts : Nat) : State :=
  match (s.slot i).ad.current with
  | none => s
  | some e =>
    match e.awaits st with
    | none => s
    | some o => s.endEntry i o (e.entryResult attempts (s.slot i).pru.lastReading)

/-- Presence lost for a slot whose record is occupied: a RAIL_SAMPLE is kept to its reading with its outcome decided, any
other entry is returned CARD_REMOVED; the remaining entries are SKIPPED (R161). -/
def State.loseCard (s : State) (i : Slot) : State :=
  let a := (s.slot i).ad
  if a.runs .railSample then
    (s.skipAll i a.remaining).setAd i { a with cardRemoved := true, remaining := [] }
  else s.endEntry i .cardRemoved 0

end Sys2Proof.Machine
end

