-- ==== Sys2Proof/Machine/Tracker.lean ====
section
/-! DEFINITION. The Transaction Tracker (chapter 1): limits, tags, the Hold Queue, promotion, and its work at a fence, a
reset assertion and presence loss. The work on one slot is a function of the slot's record. -/

namespace Sys2Proof.Machine

open Sys2Proof

/-! ## Tags and limits -/

/-- The host pool, ascending: tags 0 to 30 (R7). -/
def hostTags : List Tag :=
  [0, 1, 2, 3, 4, 5, 6, 7, 8, 9, 10, 11, 12, 13, 14, 15, 16, 17, 18, 19, 20, 21, 22, 23, 24, 25, 26, 27, 28, 29, 30]

/-- The engine tag (R7). -/
def engineTag : Tag := 31

def OrtEntry.isLive : OrtEntry → Bool
  | .live _ => true
  | _ => false

def OrtEntry.isStale : OrtEntry → Bool
  | .stale _ => true
  | _ => false

def OrtEntry.isFree : OrtEntry → Bool
  | .free => true
  | _ => false

/-- A LIVE entry becomes STALE. -/
def OrtEntry.toStale : OrtEntry → OrtEntry
  | .live f => .stale f
  | e => e

def TtRec.entry (t : TtRec) (k : Tag) : OrtEntry := t.ort.get k

def TtRec.setEntry (t : TtRec) (k : Tag) (e : OrtEntry) : TtRec := { t with ort := t.ort.set k e }

/-- LIVE host-pool entries (R8, R25). -/
def TtRec.liveHost (t : TtRec) : Nat := hostTags.countP fun k => (t.entry k).isLive

/-- STALE entries over all 32 tags (R25). -/
def TtRec.staleCount (t : TtRec) : Nat := (hostTags ++ [engineTag]).countP fun k => (t.entry k).isStale

/-- The lowest-numbered FREE tag of the host pool (R9). -/
def TtRec.freeTag (t : TtRec) : Option Tag := hostTags.find? fun k => (t.entry k).isFree

/-- The limit in force (R8). Outside ONLINE, HELD and PROBATION no request is tracked. -/
def SlotRec.limit (r : SlotRec) : Nat :=
  match r.cs.state with
  | .probation => r.pol.probLimit
  | _ => if r.hm.watched then r.pol.probLimit else r.pol.outLimit

/-- The tag that can be taken for a host request now: a FREE one, while LIVE host entries are fewer than the limit in
force (R9, R11). -/
def SlotRec.takeable (r : SlotRec) : Option Tag := if r.tt.liveHost < r.limit then r.tt.freeTag else none

/-! ## Completions TT makes itself -/

/-- A synthesized completion: no data, remaining count zero (R5). -/
def synthesized (st : CplStatus) : CardCpl := { status := st, data := [], remaining := 0 }

def abortUp (q : Requester) : Output := .completion q (synthesized .aborted)

/-- The Aborted completion of an entry, if it is LIVE of origin HOST (R21, R22). -/
def OrtEntry.abortOut : OrtEntry → Option Output
  | .live f =>
    match f.origin with
    | .host q => some (abortUp q)
    | .engine => none
  | _ => none

/-- Aborted completions for the LIVE host entries, in ascending tag order (R5). -/
def TtRec.abortLive (t : TtRec) : List Output := hostTags.filterMap fun k => (t.entry k).abortOut

/-- Aborted completions for the held requests, in queue order (R5). -/
def TtRec.abortHeld (t : TtRec) : List Output := t.hold.map fun h => abortUp h.request.req

/-! ## Tracking and promotion (R9 to R11) -/

/-- The entry of a tracked host request (R9). -/
def hostEntry (q : Tracked) (deadline : Tick) : OrtEntry :=
  .live
    { origin := .host q.req, kind := q.op.kind, dwords := q.op.dwords, bytes := q.op.bytes, deadline := deadline
      parts := 0 }

def SlotRec.setTt (r : SlotRec) (t : TtRec) : SlotRec := { r with tt := t }

/-- A request takes a tag (R9). -/
def SlotRec.allocate (r : SlotRec) (k : Tag) (h : Held) : SlotRec :=
  r.setTt (r.tt.setEntry k (hostEntry h.request h.deadline))

/-- Promote the oldest held request, at most `n` times, while a tag can be taken (R11). -/
def promoteLoop (i : Slot) : Nat → SlotRec → SlotRec × List Output
  | 0, r => (r, [])
  | n + 1, r =>
    match r.tt.hold, r.takeable with
    | h :: rest, some k =>
      let p := promoteLoop i n ((r.allocate k h).setTt { (r.allocate k h).tt with hold := rest })
      (p.1, .sendDown i k h.request.op :: p.2)
    | _, _ => (r, [])

/-- TT promotes held requests until the queue is empty or no tag can be taken (R11). -/
def State.promote (s : State) (i : Slot) : State :=
  let p := promoteLoop i (s.slot i).tt.hold.length (s.slot i)
  (s.setSlot i p.1).emits p.2

/-- A request that R4 tracks and forwards: it takes a tag, or waits in the Hold Queue, or is answered Unsupported when 8
requests wait there (R9, R10). -/
def SlotRec.track (r : SlotRec) (i : Slot) (q : Tracked) (now : Tick) : SlotRec × List Output :=
  let h : Held := ⟨q, deadlineIn now r.pol.completionDeadline⟩
  match r.tt.hold, r.takeable with
  | [], some k => (r.allocate k h, [.sendDown i k q.op])
  | hold, _ =>
    if hold.length < 8 then (r.setTt { r.tt with hold := hold ++ [h] }, [])
    else (r, [.completion q.req (synthesized .unsupported)])

/-- A posted request dropped because of the slot state (R6). -/
def SlotRec.discardOne (r : SlotRec) : SlotRec := r.setTt { r.tt with discard := min 65535 (r.tt.discard + 1) }

/-! ## Fence, reset assertion, presence loss (R21 to R23) -/

/-- Every LIVE entry becomes STALE and the Hold Queue is emptied. -/
def TtRec.cutOff (t : TtRec) : TtRec := { t with ort := mapVec OrtEntry.toStale t.ort, hold := [] }

/-- TT's work at a fence on the slot's record (R21, steps 1 to 4). -/
def SlotRec.fenceWork (r : SlotRec) : SlotRec := r.setTt { r.tt.cutOff with discard := 0 }

/-- How many Aborted completions a fence makes (R21, step 5). -/
def TtRec.abortCount (t : TtRec) : Nat := t.abortLive.length + t.abortHeld.length

/-- TT's work at a fence (R21). -/
def State.fenceWork (s : State) (i : Slot) : State :=
  let r := s.slot i
  (s.setSlot i r.fenceWork).emits (r.tt.abortLive ++ r.tt.abortHeld)

/-- Every tag FREE and the Hold Queue empty (R22). -/
def TtRec.freeAll (t : TtRec) : TtRec := { t with ort := Vector.replicate 32 .free, hold := [] }

/-- A reset assertion reported to TT, which answers what remains, held requests first, and frees every tag (R22), and to
CTF, which empties the holdover (R129). -/
def State.resetAssertion (s : State) (i : Slot) : State :=
  let r := s.slot i
  (s.setSlot i { r with tt := r.tt.freeAll, ctf := { r.ctf with holdover := none } }).emits
    (r.tt.abortHeld ++ r.tt.abortLive)

/-- TT's work at presence loss (R23). -/
def State.presenceWork (s : State) (i : Slot) : State :=
  let r := s.slot i
  (s.setSlot i (r.setTt r.tt.cutOff)).emits (r.tt.abortLive ++ r.tt.abortHeld)

/-! ## The engine tag (R16) -/

/-- The entry of an engine access (R16). -/
def engineEntry (write : Bool) (deadline : Tick) : OrtEntry :=
  .live
    { origin := .engine, kind := if write then .configWrite else .configRead, dwords := 1
      bytes := if write then 0 else 4, deadline := deadline, parts := 0 }

end Sys2Proof.Machine
end

