-- ==== Sys2Proof/Machine/Engine.lean ====
section
/-! DEFINITION. The Shadow Engine's record (chapter 6): starting, ending and cancelling operations, the position, and the
bytes it reads and writes. What the results of its reads and accesses lead to is in EngineSteps. -/

namespace Sys2Proof.Machine

open Sys2Proof

/-- SE issues a host memory read for its current operation, with the slot's completion deadline (R103). -/
def State.seRead (s : State) (i : Slot) (addr : Addr) (bytes : Nat) (what : SeRead) : State :=
  let t := { s with se := { s.se with waiting := .read (s.readRef (s.pol i).completionDeadline) what } }
  t.issueRead .shadowEngine addr bytes

/-- SE starts an operation: it copies the slot values and reads the header (R103, R106), in one read of 16 bytes: the
model's choice (log 15). -/
def State.seBegin (s : State) (op : SeOp) : State :=
  let p := s.pol op.slot
  let t := { s with
    se := { s.se with
      current := some op, step := .readHeader, mapAddr := p.mapAddr, areaAddr := p.areaAddr, bus := p.busFirst } }
  t.seRead op.slot p.areaAddr 16 .header

/-- An operation request: it starts at once when none is running, and waits at the tail otherwise (R105). -/
def State.seRequest (s : State) (op : SeOp) : State :=
  match s.se.current with
  | none => s.seBegin op
  | some _ => { s with se := { s.se with queue := s.se.queue ++ [op] } }

/-- The current operation is absent and the step IDLE (R106). -/
def State.seClear (s : State) : State :=
  { s with se := { s.se with current := none, step := .idle, waiting := .nothing } }

/-- The operation at the head of the queue starts, in the event in which the one before it ended (R106). -/
def State.seNext (s : State) : State :=
  match s.se.queue with
  | [] => s
  | op :: rest => { s with se := { s.se with queue := rest } }.seBegin op

/-- The current operation is one of the slot. -/
def SeRec.runsFor (e : SeRec) (i : Slot) : Bool :=
  match e.current with
  | some op => decide (op.slot = i)
  | none => false

/-- A slot's operation is cancelled: removed from the queue, or ended at once, and the next operation starts (R116). Its
header read is handed over here, ahead of the OVERTAKEN return of a cancelled SNAPSHOT: the model's choice (log 41). -/
def State.seDrop (s : State) (i : Slot) : State :=
  let t := { s with se := { s.se with queue := s.se.queue.filter fun op => !decide (op.slot = i) } }
  if s.se.runsFor i then t.seClear.seNext else t

/-- CS cancels a slot's operation; for a cancelled SNAPSHOT the action is returned OVERTAKEN (R116, R159). The manual does not
say which is handed over first, the start of the next operation or that return; the start comes first: the model's choice
(log 41). -/
def State.cancelOp (s : State) (i : Slot) : State :=
  let t := s.seDrop i
  if (s.slot i).ad.runs .snapshot then t.endEntry i .overtaken 0 else t

/-- SE hands a host memory write to the Host Port (R103). -/
def State.seWrite (s : State) (addr : Addr) (bytes : List Byte) : State := s.emit (.hostWrite addr bytes)

/-- The entry of the map copy at the position. -/
def SeRec.here (e : SeRec) : MapEntry :=
  e.map.getD e.entry { index := 0, count := 0, skip := false, last := false, verify := false }

/-- The dword index of the card access at the position (R104). -/
def SeRec.cardIndex (e : SeRec) : Nat := e.here.index + e.dword

/-- The place of the position's dword in the data, in dwords (R100). -/
def SeRec.place (e : SeRec) : Nat := dataPlace e.map e.entry + e.dword

/-- The staged dword at the position (R112). -/
def SeRec.staged (e : SeRec) : Dword := e.staging.getD e.place 0

/-- The host memory address of the position's dword (R100; log 17). -/
def SeRec.dataAddr (e : SeRec) : Addr := e.areaAddr + BitVec.ofNat 64 (16 + 4 * e.place)

/-- The pass takes the entry (R112). -/
def Pass.takes (p : Pass) (m : MapEntry) : Bool :=
  !m.skip &&
    match p with
    | .first => !m.last
    | .last => m.last

/-- The first entry from `k` on that the pass takes; `m` is the map from entry `k` on. -/
def nextTaken (p : Pass) : Nat → List MapEntry → Option Nat
  | _, [] => none
  | k, e :: es => if p.takes e then some k else nextTaken p (k + 1) es

/-- The position of the next access of a write-back from entry `k` of pass `p` on; `none` when neither pass takes more
(R112, R115). -/
def nextPlace (m : List MapEntry) (p : Pass) (k : Nat) : Option (Pass × Nat) :=
  match p with
  | .last => (nextTaken .last k (m.drop k)).map fun e => (.last, e)
  | .first =>
    match nextTaken .first k (m.drop k) with
    | some e => some (.first, e)
    | none => (nextTaken .last 0 m).map fun e => (.last, e)

/-- The position after the dword at hand in a copy: the next dword, or the next entry (R108); `none` past the last. -/
def SeRec.copyNext (e : SeRec) : Option SeRec :=
  if e.dword + 1 < e.here.count then some { e with dword := e.dword + 1 }
  else if e.entry + 1 < e.map.length then some { e with entry := e.entry + 1, dword := 0 }
  else none

/-- The position after the dword at hand in a write-back (R112); `none` when it is complete (R115). -/
def SeRec.restoreNext (e : SeRec) : Option SeRec :=
  if e.dword + 1 < e.here.count then some { e with step := .writeBack, dword := e.dword + 1 }
  else
    (nextPlace e.map e.pass (e.entry + 1)).map fun q =>
      { e with step := .writeBack, pass := q.1, entry := q.2, dword := 0 }

end Sys2Proof.Machine
end

