-- ==== Sys2Proof/Machine/Rails.lean ====
section
/-! DEFINITION. The Rail Monitor (chapter 5): placing and withdrawing shares, the arbiter, and the service. -/

namespace Sys2Proof.Machine

open Sys2Proof

/-- The two kinds of share (R89). -/
inductive Share where
  | bleed | sample
  deriving DecidableEq, Repr

def RailReq.setShare (q : RailReq) (k : Share) (b : Bool) : RailReq :=
  match k with
  | .bleed => { q with bleed := b }
  | .sample => { q with sample := b }

/-- No request: state NONE and no share. -/
def RailReq.none : RailReq := { state := .none, bleed := false, sample := false }

def RmRec.req (m : RmRec) (i : Slot) : RailReq := m.reqs.get i

def RmRec.setReq (m : RmRec) (i : Slot) (q : RailReq) : RmRec := { m with reqs := m.reqs.set i q }

/-- The slots after `k`, ascending, wrapping from 7 to 0, `k` itself last (R92). -/
def roundRobin (k : Slot) : List Slot := [k + 1, k + 2, k + 3, k + 4, k + 5, k + 6, k + 7, k]

/-- The slot the arbiter would choose (R92). -/
def RmRec.choice (m : RmRec) : Option Slot :=
  (roundRobin m.lastServed).find? fun i => decide ((m.req i).state = .pending)

/-- The service of a slot begins: a settling conversion on another channel, a measuring one on the same (R90, R92). -/
def RmRec.serve (m : RmRec) (i : Slot) : RmRec :=
  let n := m.setReq i { m.req i with state := .inService }
  if m.channel = some i then
    { n with activity := .measuring, inService := some i, timer := 2, lastServed := i }
  else { n with activity := .settling, inService := some i, timer := 2, lastServed := i, channel := some i }

/-- The arbiter chooses when the converter is IDLE and a request is PENDING (R92). -/
def RmRec.arbitrate (m : RmRec) : RmRec :=
  if m.activity = .idle then
    match m.choice with
    | some i => m.serve i
    | none => m
  else m

/-- A share is placed (R91). -/
def RmRec.place (m : RmRec) (i : Slot) (k : Share) : RmRec :=
  let q := (m.req i).setShare k true
  match (m.req i).state with
  | .none => (m.setReq i { q with state := .pending }).arbitrate
  | .pending => m.setReq i q
  | .inService => m.setReq i q

/-- A share is withdrawn (R94). -/
def RmRec.withdraw (m : RmRec) (i : Slot) (k : Share) : RmRec :=
  let q := (m.req i).setShare k false
  match q.state with
  | .pending => if q.bleed || q.sample then m.setReq i q else m.setReq i RailReq.none
  | .inService => m.setReq i q
  | .none => m.setReq i q

/-- A service ends: the request is NONE with both shares absent, the converter IDLE, and the arbiter chooses (R93). -/
def RmRec.endService (m : RmRec) (i : Slot) : RmRec :=
  { m.setReq i RailReq.none with activity := .idle, inService := none }.arbitrate

/-- A settling conversion ends: the measuring conversion begins if a share remains (R90, R94). -/
def RmRec.endSettling (m : RmRec) (i : Slot) : RmRec :=
  if (m.req i).bleed || (m.req i).sample then { m with activity := .measuring, timer := 2 } else m.endService i

/-- The result of a conversion: a whole number of mV from 0 to 14000 (R90; log 30). -/
def reading (rail : Int) : Nat := min 14000 rail.toNat

def State.setRm (s : State) (m : RmRec) : State := { s with rm := m }

def State.placeShare (s : State) (i : Slot) (k : Share) : State := s.setRm (s.rm.place i k)

def State.withdrawShare (s : State) (i : Slot) (k : Share) : State := s.setRm (s.rm.withdraw i k)

end Sys2Proof.Machine
end

