-- ==== Sys2Proof/Machine/Power.lean ====
section
/-! DEFINITION. The paths of a slot (chapters 3 and 4): PRU's phases and outputs, and what CS does at the events they
lead to, in the order in which the ones call the others. -/

namespace Sys2Proof.Machine

open Sys2Proof

def State.modCs (s : State) (i : Slot) (f : CsRec → CsRec) : State :=
  s.modSlot i fun r => { r with cs := f r.cs }

/-- PRU changes a slot's record; the outputs that change do so in the order of R68. -/
def State.modPru (s : State) (i : Slot) (f : PruRec → PruRec) : State :=
  (s.modSlot i fun r => { r with pru := f r.pru }).drives
    (signalChanges i (s.slot i).pru (f (s.slot i).pru))

/-! ## Power-off and the shutdown path (R80, R85, R48) -/

/-- Power-off in PRU's record: the four outputs, the rail status, the counts, and BLEED_WAIT (R80). The sequence is as
directed. -/
def PruRec.powerOff (p : PruRec) (bleedWait : Nat) : PruRec :=
  { p with
    isoOpen := true, asserted := true, power := false, bleed := true, rail := .down, rechecks := 0, lastReading := 0
    timer := some bleedWait, phase := .bleedWait, rampDue := false }

/-- Power-off: PRU sets the outputs and reports the reset assertion, and the slot is in BLEEDING (R80, R68). -/
def State.powerOffNow (s : State) (i : Slot) : State :=
  let t := (s.modPru i fun p => p.powerOff (s.pol i).bleedWait).resetAssertion i
  t.enter i .bleeding

/-- CS directs the shutdown sequence: power-off at once from whatever outputs the slot has (R48, R80, R85). -/
def State.shutdown (s : State) (i : Slot) : State :=
  (s.modPru i fun p => { p with sequence := .shutdown }).powerOffNow i

/-- The attempt check of R51 on the slot record: target RETIRED when attempts equal the maximum, a cold retry pending
otherwise. -/
def CsRec.failCheck (c : CsRec) (maxAttempts : Nat) : CsRec :=
  if maxAttempts ≤ c.attempts then { c with target := .retired, kind := .cold, drain := none }
  else { c with target := .none, retryPending := true, kind := .cold, drain := none }

/-- A failed attempt outside FENCED, or at power-good lost: RECOVERY_FAILED with the failing state, the attempt check,
and the shutdown path (R51, R179). -/
def State.failAttempt (s : State) (i : Slot) (cause index : Nat) : State :=
  let r := s.slot i
  let s1 := s.raise i .recoveryFailed r.tt.discard r.cs.state.code (detailOf cause index)
  let s2 := s1.modCs i fun c => c.failCheck r.pol.maxAttempts
  (s2.cancelOp i).shutdown i

/-! ## The rail on the way up (R74 to R76) -/

/-- A ramp fault: RAIL_FAULT with the ramp count, then a failed attempt in POWERING (R76). -/
def State.rampFault (s : State) (i : Slot) (k : RailFault) : State :=
  let s1 := s.raise i .railFault (s.slot i).pru.rampCount 0 (detailOf k.code 0)
  s1.failAttempt i 1 0

/-- Entry to RAMP in PRU's record (R74). -/
def PruRec.enterRamp (p : PruRec) : PruRec :=
  { p with
    bleed := false, power := true, rail := .unproven, rampCount := 0, rampDue := false, phase := .ramp, timer := none
    sequence := .powerUp }

/-- CS sets POWERING and directs power up, which begins at RAMP; a power-good level already accepted is RAMP_FAST at
count 0 (R48, R53, R74). -/
def State.powerUp (s : State) (i : Slot) : State :=
  let t := (s.enter i .powering).modPru i PruRec.enterRamp
  if (s.slot i).sense.pgAcc then t.rampFault i .rampFast else t

/-! ## SETTLE, RECONNECT and TRAINING (R77, R78) -/

/-- The end of RECONNECT: reset RELEASED, the training timeout runs, and the slot is in TRAINING (R78). -/
def State.releaseReset (s : State) (i : Slot) : State :=
  let t := s.modPru i fun p =>
    { p with asserted := false, timer := some (s.pol i).trainTimeout, phase := .training }
  t.enter i .training

/-- Entry to RECONNECT: isolation CLOSED, the release lag runs; a lag of 0 ends it in the event (R78, R69). -/
def State.reconnect (s : State) (i : Slot) : State :=
  let lag := (s.pol i).releaseLag
  let t := s.modPru i fun p => { p with isoOpen := false, timer := some lag, phase := .reconnect }
  if lag = 0 then t.releaseReset i else t

/-- Entry to SETTLE (R77). -/
def PruRec.enterSettle (p : PruRec) (n : Nat) : PruRec :=
  { p with rail := .good, timer := some n, phase := .settle, rampDue := false }

/-! ## ISOLATE and ASSERT (R71, R72) -/

/-- PRU's sequence and phase become IDLE and its timer stops. -/
def PruRec.rest (p : PruRec) : PruRec := { p with sequence := .idle, phase := .idle, timer := none, rampDue := false }

/-- The slot record at the entry to ISOLATED (R50). -/
def CsRec.isolate (c : CsRec) : CsRec :=
  { c with kind := .none, target := .none, retryPending := false, restoreWanted := false }

/-- The NONE path ends its ASSERT phase: the slot enters ISOLATED, the incident is raised, and AD returns (R50). -/
def State.enterIsolated (s : State) (i : Slot) : State :=
  let s1 := (s.enter i .isolated).modCs i CsRec.isolate
  let s2 := s1.raise i .isolated (s1.slot i).tt.discard
  s2.onEntry i .isolated (s2.slot i).cs.attempts

/-- The end of ASSERT, by sequence (R72). -/
def State.assertDone (s : State) (i : Slot) : State :=
  match (s.slot i).pru.sequence with
  | .warm => s.reconnect i
  | .isolate => (s.modPru i PruRec.rest).enterIsolated i
  | .coldDown => s.powerOffNow i
  | _ => s

/-- The hold of ASSERT: the reset hold on the warm cycle, 0 in every other sequence (R69, R72). -/
def PruRec.hold (p : PruRec) (resetHold : Nat) : Nat :=
  match p.sequence with
  | .warm => resetHold
  | _ => 0

/-- Entry to ASSERT: reset ASSERTED and reported; a hold of 0 ends it in the event (R72, R68). -/
def State.assertReset (s : State) (i : Slot) : State :=
  let hold := (s.slot i).pru.hold (s.pol i).resetHold
  let t := (s.modPru i fun p => { p with asserted := true, timer := some hold, phase := .assert }).resetAssertion i
  if hold = 0 then t.assertDone i else t

/-- CS sets RESETTING and directs a sequence that begins at ISOLATE: isolation OPEN and the isolation lead; a lead of 0
ends it in the event (R46 to R48, R71). -/
def State.startReset (s : State) (i : Slot) (q : Sequence) : State :=
  let lead := (s.pol i).isoLead
  let t := (s.enter i .resetting).modPru i fun p =>
    { p with sequence := q, isoOpen := true, timer := some lead, phase := .isolate }
  if lead = 0 then t.assertReset i else t

/-! ## The drain and the attempt check (R45, R46) -/

/-- The end of the drain: the attempt check, and the NONE, warm or cold path, or the path to RETIRED (R46). -/
def State.drainEnd (s : State) (i : Slot) : State :=
  let p := s.pol i
  let s1 := s.modCs i fun c => { c with drain := none }
  let c := (s1.slot i).cs
  match c.kind with
  | .none => s1.startReset i .isolate
  | k =>
    if p.maxAttempts ≤ c.attempts then (s1.modCs i fun c => { c with target := .retired }).startReset i .coldDown
    else
      let kind := if p.escalate && decide (1 < c.attempts + 1) then .cold else k
      let s2 := s1.modCs i fun c =>
        { c with attempts := c.attempts + 1, kind := kind, restoreWanted := p.restore }
      s2.startReset i (if kind = .warm then .warm else .coldDown)

/-! ## The fence (R42 to R44) -/

/-- The slot record at a fence (R43, steps 1 and 2). -/
def CsRec.fence (c : CsRec) (t : Trigger) (k : RecKind) : CsRec :=
  { c with trigger := t, kind := k, target := .none, retryPending := false }

/-- The drain starts: the timer is loaded, or the drain ends at once when the policy's drain is 0 or no STALE tag remains
(R43 step 8, R45). -/
def State.startDrain (s : State) (i : Slot) : State :=
  if (s.pol i).drain = 0 ∨ (s.slot i).tt.staleCount = 0 then s.drainEnd i
  else s.modCs i fun c => { c with drain := some (s.pol i).drain }

/-- CS fences a slot, in the order of R43. `failed` is the code of the failing state of a fence that fails the attempt in
progress (R44). -/
def State.fence (s : State) (i : Slot) (t : Trigger) (k : RecKind) (failed : Option Nat) : State :=
  let count := (s.slot i).tt.abortCount
  let s1 := (s.enter i .fenced).modCs i fun c => c.fence t k
  let s2 := (s1.fenceWork i).cancelOp i
  let s3 := if t = .linkDown then s2.raise i .linkDown else s2
  let s4 := s3.raise i .contained count 0 (detailOf k.code 0)
  let s5 := match failed with
    | some code => s4.raise i .recoveryFailed (s4.slot i).tt.discard code (detailOf 7 0)
    | none => s4
  s5.startDrain i

/-- A fence trigger from the card or its link: a fence with the auto recovery kind in ONLINE and HELD, a fence that fails
the attempt in PROBATION, and, for link-down, in RESTORING (R42, R44). -/
def State.cardFence (s : State) (i : Slot) (t : Trigger) : State :=
  match (s.slot i).cs.state with
  | .online => s.fence i t (s.pol i).autoKind none
  | .held => s.fence i t (s.pol i).autoKind none
  | .probation => s.fence i t .cold (some SlotState.probation.code)
  | .restoring => if t = .linkDown then s.fence i t .cold (some SlotState.restoring.code) else s
  | _ => s

/-! ## Arrivals (R49, R52, R55, R57, R59) -/

/-- Entry to RETIRED: the incident with the last bleed reading, then the slot record (R52). -/
def State.enterRetired (s : State) (i : Slot) (lastReading : Nat) : State :=
  let s1 := s.enter i .retired
  let s2 := s1.raise i .retired (s1.slot i).tt.discard lastReading
  s2.modCs i fun c => { c with kind := .none, target := .none, retryPending := false }

/-- A slot in BLEEDING retires, and AD returns the action that waits for it (R49, R148 to R152). -/
def State.retireFromBleed (s : State) (i : Slot) : State :=
  let t := s.enterRetired i (s.slot i).pru.lastReading
  t.onEntry i .retired (t.slot i).cs.attempts

/-- The bleed is confirmed: CS ends BLEEDING by the target and retry pending as they stand (R49). A retry's attempts rise
by one, within the maximum (R51; log 23). -/
def State.bleedEnd (s : State) (i : Slot) : State :=
  let c := (s.slot i).cs
  match c.target with
  | .retired => s.retireFromBleed i
  | .off =>
    let t := (s.enter i .off).modCs i fun c => { c with retryPending := false }
    t.onEntry i .off c.attempts
  | .none =>
    if c.retryPending then
      let m := (s.pol i).maxAttempts
      (s.modCs i fun c => { c with attempts := min m (c.attempts + 1), retryPending := false }).powerUp i
    else s.powerUp i

/-- Entry to HELD (R55, R35). -/
def State.enterHeld (s : State) (i : Slot) : State :=
  (s.enter i .held).modSlot i SlotRec.clearFirstExpiry

/-- The slot record at the entry to PROBATION: the mode and the count (R57). -/
def CsRec.startProbation (c : CsRec) (p : Policy) : CsRec :=
  if p.probationTraffic then { c with probMode := .traffic, probCount := 0 }
  else { c with probMode := .quiet, probCount := p.probQuiet }

/-- CTF at the entry to PROBATION: the holdover is sent and emptied, the DMA-blocked flag cleared (R128, R126). -/
def State.sendHoldover (s : State) (i : Slot) : State :=
  let s1 := s.modSlot i fun r => { r with ctf := { r.ctf with holdover := none, dmaReported := false } }
  match (s.slot i).ctf.holdover with
  | some w => s1.emit (.cardWriteUp i w)
  | none => s1

/-- Entry to PROBATION, in the order of R57; the limit in force may have changed, and TT promotes (R8, R11). The held
interrupt message goes to the Host Port before the writes of the return made at this entry, of a POWER_ON here or of the
ADMIT that caused it: the model's choice (log 45). -/
def State.enterProbation (s : State) (i : Slot) : State :=
  let s1 := (s.enter i .probation).modCs i fun c => c.startProbation (s.pol i)
  let s2 := s1.modSlot i fun r => r.clearScore.clearFirstExpiry
  let s3 := (s2.promote i).sendHoldover i
  s3.onEntry i .probation (s3.slot i).cs.attempts

/-- The end of probation, in the order of R59. -/
def State.probationEnd (s : State) (i : Slot) : State :=
  let used := (s.slot i).cs.attempts
  let s1 := (s.enter i .online).modSlot i fun r => r.clearScore.clearFirstExpiry
  let s2 := s1.raise i .recovered (s1.slot i).tt.discard
  let s3 := s2.modCs i fun c => { c with attempts := 0, kind := .none, probCount := 0 }
  (s3.promote i).onEntry i .online used

/-- A report of a score increase in PROBATION: QUIET mode reloads the count (R34, R58). -/
def State.scoreIncrease (s : State) (i : Slot) : State :=
  s.modCs i fun c =>
    match c.probMode with
    | .quiet => { c with probCount := (s.pol i).probQuiet }
    | .traffic => c

/-- A report of a host request ended with Success: TRAFFIC mode counts it and ends probation at the target (R58). -/
def State.countSuccess (s : State) (i : Slot) : State :=
  let c := (s.slot i).cs
  if c.state = .probation ∧ c.probMode = .traffic then
    let n := min 65535 (c.probCount + 1)
    let t := s.modCs i fun c => { c with probCount := n }
    if (s.pol i).probTraffic ≤ n then t.probationEnd i else t
  else s

/-! ## Bring-up, RECOVER, POWER_OFF and RETIRE (R53, R54, R60) -/

/-- A bring-up (R53). -/
def State.bringUp (s : State) (i : Slot) (restore : Bool) : State :=
  let t := s.modCs i fun c =>
    { c with attempts := 0, kind := .cold, target := .none, retryPending := false, restoreWanted := restore }
  t.powerUp i

/-- The slot record at the first attempt of a RECOVER from a resting state (R54). -/
def CsRec.firstAttempt (c : CsRec) (k : RecKind) (restore : Bool) (t : Trigger) : CsRec :=
  { c with attempts := 1, kind := k, restoreWanted := restore, trigger := t }

/-- RECOVER from RETIRED: attempt 1 at POWERING, as in R53 (R54). The trigger is written first, so a RAMP_FAST met at the
entry to RAMP shows it in its RAIL_FAULT and RECOVERY_FAILED: the model's choice (log 43). -/
def State.recoverRetired (s : State) (i : Slot) (t : Trigger) : State :=
  let u := s.modCs i fun c =>
    { c.firstAttempt .cold (s.pol i).restore t with target := .none, retryPending := false }
  u.powerUp i

/-- RECOVER WARM from ISOLATED: the warm path from RECONNECT (R47, R54). -/
def State.recoverWarm (s : State) (i : Slot) : State :=
  let u := s.modCs i fun c => c.firstAttempt .warm (s.pol i).restore .action
  let v := (u.enter i .resetting).modPru i fun p => { p with sequence := .reconnect }
  v.reconnect i

/-- RECOVER COLD from ISOLATED: the shutdown path with target none and retry pending clear (R54). -/
def State.recoverCold (s : State) (i : Slot) : State :=
  let u := s.modCs i fun c =>
    { c.firstAttempt .cold (s.pol i).restore .action with target := .none, retryPending := false }
  u.shutdown i

/-- The recovery kind an argument A names (R144). -/
def kindOfArg (a : BitVec 16) : RecKind :=
  match a.toNat with
  | 1 => .warm
  | 2 => .cold
  | _ => .none

/-- RECOVER by state (R54, R149). -/
def State.recoverAction (s : State) (i : Slot) (a : BitVec 16) : State :=
  match (s.slot i).cs.state with
  | .isolated => if kindOfArg a = .warm then s.recoverWarm i else s.recoverCold i
  | .held => (s.modCs i fun c => { c with attempts := 0 }).fence i .action (kindOfArg a) none
  | .retired => s.recoverRetired i .action
  | _ => s

/-- The shutdown target that POWER_OFF or RETIRE leaves: RETIRED is kept by POWER_OFF (R60). -/
def Target.meet (old new : Target) : Target := if old = .retired then .retired else new

/-- POWER_OFF (`tgt` OFF) or RETIRE (`tgt` RETIRED) in a state that they take through the shutdown path or, in BLEEDING,
through the target (R60). -/
def State.powerDown (s : State) (i : Slot) (tgt : Target) (t : Trigger) : State :=
  match (s.slot i).cs.state with
  | .online | .probation | .held | .fenced | .resetting | .powering | .training | .restoring | .isolated =>
    let u := s.modCs i fun c =>
      { c with target := c.target.meet tgt, retryPending := false, drain := none, trigger := t }
    (u.cancelOp i).shutdown i
  | .bleeding => s.modCs i fun c => { c with target := c.target.meet tgt, retryPending := false }
  | _ => s

end Sys2Proof.Machine
end

