-- ==== Sys2Proof/Machine/Health.lean ====
section
/-! DEFINITION. The Health Monitor (chapter 2): scoring events, WATCHED, the threshold events, and the acceptance of a
policy (R36), with what TT and CS do at it (R3, R41). -/

namespace Sys2Proof.Machine

open Sys2Proof

/-- The scoring events (R28). -/
inductive ScoreEvent where
  | deadlineExpiry (tag : Tag) (kind : ReqKind)
  | malformed | nonfatal | fatal | blocked | late | unexpected | badStatus | correctable | success
  deriving DecidableEq, Repr

/-- The weight of a scoring event applied to a score, held between 0 and 1023 (R28, R29 step 2). -/
def ScoreEvent.apply (e : ScoreEvent) (score : Nat) : Nat :=
  match e with
  | .deadlineExpiry _ _ => min 1023 (score + 8)
  | .malformed => min 1023 (score + 8)
  | .nonfatal => min 1023 (score + 8)
  | .fatal => min 1023 (score + 8)
  | .blocked => min 1023 (score + 8)
  | .late => min 1023 (score + 1)
  | .unexpected => min 1023 (score + 1)
  | .badStatus => min 1023 (score + 1)
  | .correctable => min 1023 (score + 1)
  | .success => score - 1

/-- The weight is positive: every event but a host request ended with Success (R28). -/
def ScoreEvent.positive : ScoreEvent → Bool
  | .success => false
  | _ => true

def State.modHm (s : State) (i : Slot) (f : HmRec → HmRec) : State :=
  s.modSlot i fun r => { r with hm := f r.hm }

/-- Step 2 of R29: the score alone. Every incident of the event carries the score after it (R29, R37, R126, R130). -/
def State.weigh (s : State) (i : Slot) (e : ScoreEvent) : State :=
  s.modHm i fun h => { h with score := e.apply h.score }

/-- Step 1 of R29: the first deadline expiry raises DEADLINE_EXPIRED and sets the flag (R35). -/
def State.noteExpiry (s : State) (i : Slot) (e : ScoreEvent) : State :=
  match e with
  | .deadlineExpiry tag kind =>
    if (s.slot i).hm.firstExpiry then s
    else (s.raise i .deadlineExpired tag.val kind.code).modHm i fun h => { h with firstExpiry := true }
  | _ => s

/-- WATCHED is brought into line with the score (R31). From clear to set it raises SCORE_WATCH; from set to clear the limit
in force rises and TT promotes (R8, R11). Without a policy WATCHED stays clear (R27). -/
def State.alignWatch (s : State) (i : Slot) : State :=
  match (s.slot i).policy with
  | none => s
  | some p =>
    let h := (s.slot i).hm
    let up := decide (p.watchT ≤ h.score)
    if up = h.watched then s
    else
      let t := s.modHm i fun h => { h with watched := up }
      if up then t.raise i .scoreWatch p.watchT else t.promote i

/-- Step 4 of R29: a score below the fence threshold clears the alert flag. -/
def State.alignAlert (s : State) (i : Slot) : State :=
  match (s.slot i).policy with
  | none => s
  | some p =>
    if (s.slot i).hm.score < p.fenceT then s.modHm i fun h => { h with alert := false } else s

/-- The score crossed the threshold from below. -/
def crossed (old new threshold : Nat) : Bool := decide (old < threshold) && decide (threshold ≤ new)

/-- A fence event (R32). -/
def State.fenceEvent (s : State) (i : Slot) (p : Policy) : State :=
  if p.autoContain then s.fence i .score p.autoKind none
  else (s.raise i .scoreFence p.fenceT).modHm i fun h => { h with alert := true }

/-- Steps 5 and 6 of R29: the fence event in ONLINE and HELD (R32), the probation event (R33) or the increase report
(R34) in PROBATION. `old` is the score before the event. -/
def State.checkThresholds (s : State) (i : Slot) (e : ScoreEvent) (old : Nat) : State :=
  match (s.slot i).policy with
  | none => s
  | some p =>
    let new := (s.slot i).hm.score
    match (s.slot i).cs.state with
    | .online => if crossed old new p.fenceT then s.fenceEvent i p else s
    | .held => if crossed old new p.fenceT then s.fenceEvent i p else s
    | .probation =>
      if crossed old new p.probT then s.fence i .probationScore .cold (some SlotState.probation.code)
      else if e.positive then s.scoreIncrease i
      else s
    | _ => s

/-- Steps 1 and 3 to 6 of R29, after the weight has been applied. Where the probation limit exceeds the outstanding limit,
WATCHED set raises the limit in force, and TT promotes once HM has taken the event whole, after any fence it leads to (R18;
the model's choice at every other event, log 10). -/
def State.scoreChecks (s : State) (i : Slot) (e : ScoreEvent) (old : Nat) : State :=
  ((((s.noteExpiry i e).alignWatch i).alignAlert i).checkThresholds i e old).promote i

/-- HM takes a scoring event whole (R29). -/
def State.scoreEvent (s : State) (i : Slot) (e : ScoreEvent) : State :=
  (s.weigh i e).scoreChecks i e (s.slot i).hm.score

/-- A scoring event whose block raises an incident of its own ahead of HM's, carrying the score after the weight (R126,
R130). -/
def State.scoreWith (s : State) (i : Slot) (e : ScoreEvent) (f : State → State) : State :=
  (f (s.weigh i e)).scoreChecks i e (s.slot i).hm.score

/-! ## The acceptance of a policy record (R3, R36, R41, R120) -/

/-- Steps 2 and 3 of R36: the alert flag against the new fence threshold, and the fence of a slot already reported. -/
def State.alertAtAcceptance (s : State) (i : Slot) (p : Policy) : State :=
  let t := s.alignAlert i
  let r := t.slot i
  if r.hm.alert = true ∧ p.autoContain = true ∧ (r.cs.state = .online ∨ r.cs.state = .held) then
    (t.modHm i fun h => { h with alert := false }).fence i .score p.autoKind none
  else t

/-- An accepted record is taken by every block in the event of its check: the policy and CS's clamp of attempts (R41),
TT's promotion under the new limit (R3, R8), and HM's steps (R36). TT's promotion comes first and a limit that WATCHED
raises is promoted under last: the model's choice (log 11). -/
def State.acceptPolicy (s : State) (i : Slot) (p : Policy) : State :=
  let t := s.modSlot i fun r =>
    { r with policy := some p, cs := { r.cs with attempts := min p.maxAttempts r.cs.attempts } }
  (((t.promote i).alignWatch i).alertAtAcceptance i p).promote i

/-- The check of a record's bytes for a slot, against the other slots' loaded policies as they stand (R168). -/
def State.checkPolicy (s : State) (i : Slot) (b : List Byte) : Option Policy :=
  match parsePolicy b with
  | none => none
  | some p =>
    if p.valid && allSlots.all fun j =>
        decide (j = i) ||
          match (s.slot j).policy with
          | some q => p.apart q
          | none => true
    then some p
    else none

end Sys2Proof.Machine
end

