-- ==== Sys2Proof/Machine/Traffic.lean ====
section
/-! DEFINITION. Host requests at TT (R2 to R10), and card-originated traffic and host completions at CTF (chapter 7). -/

namespace Sys2Proof.Machine

open Sys2Proof

/-! ## Host requests (R2, R4) -/

/-- How TT disposes of a request by slot state (R4). -/
inductive Disposition where
  | track | forward | unsupported | aborted | drop
  deriving DecidableEq, Repr

/-- The table of R4. -/
def disposition (st : SlotState) (r : HostRequest) : Disposition :=
  match r with
  | .posted _ =>
    match st with
    | .online => .forward
    | .probation => .forward
    | _ => .drop
  | .nonPosted q =>
    match st with
    | .online => .track
    | .probation => .track
    | .held => if q.op.kind = .memoryRead then .unsupported else .track
    | .fenced => .aborted
    | _ => .unsupported

/-- The slot a request belongs to (R2). -/
def State.route (s : State) (r : HostRequest) : Option Slot :=
  allSlots.find? fun i =>
    match (s.slot i).policy with
    | some p => p.routes r
    | none => false

/-- TT acts on a request that belongs to a slot (R4). -/
def State.dispose (s : State) (i : Slot) (r : HostRequest) : State :=
  match r with
  | .nonPosted q =>
    match disposition (s.slot i).cs.state r with
    | .track =>
      let p := (s.slot i).track i q s.now
      (s.setSlot i p.1).emits p.2
    | .aborted => s.emit (.completion q.req (synthesized .aborted))
    | _ => s.emit (.completion q.req (synthesized .unsupported))
  | .posted p =>
    match disposition (s.slot i).cs.state r with
    | .forward => s.emit (.postDown i p)
    | _ => s.modSlot i SlotRec.discardOne

/-- A host request reaches TT (R2, R4). -/
def State.hostRequest (s : State) (r : HostRequest) : State :=
  match s.route r with
  | some i => s.dispose i r
  | none =>
    match r with
    | .nonPosted q => s.emit (.completion q.req (synthesized .unsupported))
    | .posted _ => s

/-! ## Card requests (R121 to R130) -/

/-- The address lies in the interrupt window, which is absent until INIT and holds nothing at size 0 (R120, R121). -/
def RiRec.inInterruptWindow (r : RiRec) (a : Addr) : Bool :=
  match r.cb with
  | some c => decide (c.intBase.toNat ≤ a.toNat) && decide (a.toNat < c.intBase.toNat + c.intSize)
  | none => false

/-- An access is inside the permit windows when one window holds every byte of it (R125). -/
def Policy.permits (p : Policy) (a : Addr) (n : Nat) : Bool := p.permitWindows.any (·.holds a n)

/-- A blocked access: +8, and DMA_BLOCKED for the first in this stay, ahead of HM's incidents (R126). `kind`: 0 read,
1 write. -/
def State.blocked (s : State) (i : Slot) (a : Addr) (kind n : Nat) : State :=
  s.scoreWith i .blocked fun t =>
    if (t.slot i).ctf.dmaReported then t
    else
      (t.raise i .dmaBlocked n kind a).modSlot i fun r => { r with ctf := { r.ctf with dmaReported := true } }

/-- A card memory write or interrupt message (R122, R127). -/
def State.cardWrite (s : State) (i : Slot) (w : CardWrite) : State :=
  match (s.slot i).ctf.cls, s.ri.inInterruptWindow w.addr with
  | .opened, _ => s.emit (.cardWriteUp i w)
  | .permit, true => s.emit (.cardWriteUp i w)
  | .permit, false =>
    if (s.pol i).permits w.addr w.data.length then s.emit (.cardWriteUp i w) else s.blocked i w.addr 1 w.data.length
  | .hold, true => s.modSlot i fun r => { r with ctf := { r.ctf with holdover := some w } }
  | .hold, false => s
  | .cut, _ => s

/-- The requester identity's bus number lies in the slot's own bus range (R121). -/
def State.ownsBus (s : State) (i : Slot) (bus : BitVec 8) : Bool :=
  match (s.slot i).policy with
  | some p => p.hasBus bus
  | none => false

/-- A card memory read (R121, R122, R124). -/
def State.cardRead (s : State) (i : Slot) (q : Requester) (a : Addr) (n : Nat) : State :=
  if s.ownsBus i q.bus then
    match (s.slot i).ctf.cls with
    | .opened => s.emit (.cardReadUp i q a n)
    | .permit =>
      if (s.pol i).permits a n then s.emit (.cardReadUp i q a n)
      else (s.emit (.refuseDown i q)).blocked i a 0 n
    | .hold => s.emit (.refuseDown i q)
    | .cut => s.emit (.refuseDown i q)
  else s.emit (.refuseDown i q)

/-- A card error message (R130). -/
def State.cardError (s : State) (i : Slot) (sev : Severity) : State :=
  match (s.slot i).ctf.cls with
  | .cut => s
  | _ =>
    match sev with
    | .correctable => s.scoreEvent i .correctable
    | .nonfatal => s.scoreEvent i .nonfatal
    | .fatal =>
      if (s.pol i).fatalFence then (s.raise i .cardFatal 1).cardFence i .cardFatal
      else s.scoreWith i .fatal fun t => t.raise i .cardFatal 0

/-- A card-originated request (R122). -/
def State.cardRequest (s : State) (i : Slot) (r : CardRequest) : State :=
  match r with
  | .write w => s.cardWrite i w
  | .read q a n => s.cardRead i q a n
  | .error sev => s.cardError i sev

/-! ## Host completions to card reads (R131) -/

/-- The slot whose loaded bus range holds the bus number (R131). -/
def State.busOwner (s : State) (bus : BitVec 8) : Option Slot := allSlots.find? fun i => s.ownsBus i bus

def State.hostCompletion (s : State) (c : HostCpl) : State :=
  match s.busOwner c.req.bus with
  | none => s
  | some i =>
    match (s.slot i).ctf.cls with
    | .opened => s.emit (.completionDown i c)
    | .permit => s.emit (.completionDown i c)
    | .hold => s
    | .cut => s

end Sys2Proof.Machine
end

