-- ==== Sys2Proof/Machine/EngineSteps.lean ====
section
/-! DEFINITION. What the Shadow Engine's host memory reads and card accesses lead to (R104 to R115), and the completions
and deadlines at TT that give it its results (R12 to R20). -/

namespace Sys2Proof.Machine

open Sys2Proof

/-! ## The ends of an operation (R106) -/

/-- AD returns the SNAPSHOT of the slot (R154). -/
def State.endSnapshot (s : State) (i : Slot) (o : ActOutcome) (result : Nat) : State :=
  if (s.slot i).ad.runs .snapshot then s.endEntry i o result else s

/-- A snapshot ends with a result, and the next operation starts (R106). -/
def State.snapshotEnds (s : State) (i : Slot) (o : ActOutcome) (result : Nat) : State :=
  (s.seClear.endSnapshot i o result).seNext

/-- A restore is refused: HELD, RESTORE_SKIPPED with the detail, and the actions that await HELD (R56, R111, R55). -/
def State.restoreUnusable (s : State) (i : Slot) (detail : Nat) : State :=
  let s1 := (s.seClear.enterHeld i).raise i .restoreSkipped 0 0 (detailOf detail 0)
  (s1.onEntry i .held (s1.slot i).cs.attempts).seNext

/-- A restore has succeeded: PROBATION (R115, R56). -/
def State.restoreDone (s : State) (i : Slot) : State := (s.seClear.enterProbation i).seNext

/-- A card access failed: the snapshot is FAILED with the dword index, or the restore fails its attempt with the cause of
R179 (R110, R114). -/
def State.accessFailed (s : State) (i : Slot) (k : OpKind) (cause : Nat) : State :=
  match k with
  | .snapshot => s.snapshotEnds i .failed s.se.cardIndex
  | .restore => (s.seClear.failAttempt i cause s.se.cardIndex).seNext

/-! ## Card accesses (R16, R104) -/

/-- SE offers the access at its position: TT sends it down on the engine tag, or refuses it at once when tag 31 is LIVE
or STALE (R16). -/
def State.offer (s : State) (i : Slot) (k : OpKind) (write : Option Dword) : State :=
  let t := (s.slot i).tt
  if (t.entry engineTag).isFree then
    let e := engineEntry write.isSome (deadlineIn s.now (s.pol i).completionDeadline)
    let u := s.modSlot i fun r => r.setTt (r.tt.setEntry engineTag e)
    { u with se := { u.se with waiting := .card } }.emit (.engineDown i s.se.bus s.se.cardIndex write)
  else s.accessFailed i k 4

/-- A result of TT for a card access (R104). -/
inductive AccessResult where
  | success (d : Dword)
  | nonSuccess
  | timeout
  deriving DecidableEq, Repr

/-- The header is written VALID, in one memory write (log 44), and the snapshot is DONE with the new generation (R109). -/
def State.snapshotDone (s : State) (i : Slot) : State :=
  let e := s.se
  let g := (e.generation + 1) % 65536
  let t := s.seWrite e.areaAddr (headerBytes .valid e.map.length g s.now (4 * totalDwords e.map))
  t.snapshotEnds i .done g

/-- A dword of the copy has been read (R108). -/
def State.copyDword (s : State) (i : Slot) (d : Dword) : State :=
  let t := s.seWrite s.se.dataAddr (toLE 4 d.toNat)
  match s.se.copyNext with
  | some e => { t with se := e }.offer i .snapshot none
  | none => t.snapshotDone i

/-- A dword of the write-back is done: the next write, or the success of the restore (R112, R115). -/
def State.nextWrite (s : State) (i : Slot) : State :=
  match s.se.restoreNext with
  | some e => { s with se := e }.offer i .restore (some e.staged)
  | none => s.restoreDone i

/-- A successful access, by operation and step (R108, R112, R113). -/
def State.accessSucceeded (s : State) (i : Slot) (k : OpKind) (d : Dword) : State :=
  match k, s.se.step with
  | .snapshot, .copy => s.copyDword i d
  | .restore, .writeBack =>
    if s.se.here.verify then { s with se := { s.se with step := .verifyRead } }.offer i .restore none
    else s.nextWrite i
  | .restore, .verifyRead => if d = s.se.staged then s.nextWrite i else s.accessFailed i .restore 5
  | _, _ => s

/-- TT hands SE a result; it is discarded when SE no longer waits for the access (R104, R116). -/
def State.accessResult (s : State) (i : Slot) (res : AccessResult) : State :=
  match s.se.current with
  | none => s
  | some op =>
    if op.slot = i ∧ s.se.waiting = .card then
      match res with
      | .success d => s.accessSucceeded i op.kind d
      | .nonSuccess => s.accessFailed i op.kind 4
      | .timeout => s.accessFailed i op.kind 3
    else s

/-! ## Host memory reads (R103, R107, R111) -/

/-- A host memory read error: MEMORY_ERROR (R107, R111). -/
def State.seReadError (s : State) (op : SeOp) : State :=
  match op.kind with
  | .snapshot => s.snapshotEnds op.slot .memoryError 0
  | .restore => s.restoreUnusable op.slot 4

/-- An invalid map: BAD_ARGUMENT, or MAP_INVALID (R107, R111). -/
def State.mapInvalid (s : State) (op : SeOp) : State :=
  match op.kind with
  | .snapshot => s.snapshotEnds op.slot .badArgument 0
  | .restore => s.restoreUnusable op.slot 2

/-- The header has been read: its generation is kept, or its state is checked; then the map head is read (R107, R111). -/
def State.headerRead (s : State) (op : SeOp) (b : List Byte) : State :=
  let next := fun (e : SeRec) => { s with se := { e with step := .readMap } }.seRead op.slot s.se.mapAddr 4 .mapHead
  match op.kind with
  | .snapshot => next { s.se with generation := leNat b 2 2 }
  | .restore =>
    if byteAt b 0 = HdrState.valid.code then next { s.se with hdrCount := byteAt b 1, hdrLength := leNat b 8 4 }
    else s.restoreUnusable op.slot 1

/-- The map head has been read (R107, R111). -/
def State.mapHeadRead (s : State) (op : SeOp) (b : List Byte) : State :=
  match mapHeadCount b with
  | some c => s.seRead op.slot (s.se.mapAddr + 4) (4 * c) (.mapEntries c)
  | none => s.mapInvalid op

/-- A snapshot begins its copy: the header is written PARTIAL and the first card read offered (R108). That the header is
written in one memory write of its 16 bytes is the model's choice (log 44). -/
def State.copyBegin (s : State) (i : Slot) : State :=
  let t := s.seWrite s.se.areaAddr (headerBytes .partialCopy s.se.map.length s.se.generation s.now 0)
  { t with se := { t.se with step := .copy, entry := 0, dword := 0, waiting := .nothing } }.offer i .snapshot none

/-- The entries of the map have been read (R107, R111). -/
def State.mapEntriesRead (s : State) (op : SeOp) (b : List Byte) (count : Nat) : State :=
  match mapEntries b count with
  | none => s.mapInvalid op
  | some m =>
    let t := { s with se := { s.se with map := m } }
    match op.kind with
    | .snapshot => t.copyBegin op.slot
    | .restore =>
      if m.length = s.se.hdrCount ∧ 4 * totalDwords m = s.se.hdrLength then
        { t with se := { t.se with step := .readData } }.seRead op.slot (s.se.areaAddr + 16) (4 * totalDwords m) .data
      else t.restoreUnusable op.slot 3

/-- The data is in the staging buffer: the write-back begins, or succeeds at once when no pass takes an entry (R111,
R112). -/
def State.writeBackBegin (s : State) (i : Slot) (b : List Byte) : State :=
  let e := { s.se with staging := dwordsOf b (totalDwords s.se.map), waiting := .nothing }
  match nextPlace e.map .first 0 with
  | some q =>
    let f := { e with step := .writeBack, pass := q.1, entry := q.2, dword := 0 }
    { s with se := f }.offer i .restore (some f.staged)
  | none => { s with se := e }.restoreDone i

/-- How many bytes SE asked for. -/
def SeRec.asked (e : SeRec) : SeRead → Nat
  | .header => 16
  | .mapHead => 4
  | .mapEntries c => 4 * c
  | .data => 4 * totalDwords e.map

/-- A host memory read of SE ends (R107, R111). -/
def State.shadowRead (s : State) (id : Nat) (res : ReadResult) : State :=
  match s.se.current, s.se.waiting with
  | some op, .read r what =>
    if r.id = id then
      match res.bytes (s.se.asked what) with
      | none => s.seReadError op
      | some b =>
        match what with
        | .header => s.headerRead op b
        | .mapHead => s.mapHeadRead op b
        | .mapEntries c => s.mapEntriesRead op b c
        | .data =>
          match op.kind with
          | .restore => s.writeBackBegin op.slot b
          | .snapshot => s
    else s
  | _, _ => s

/-- The read's deadline is reached: a host memory read error (R103). -/
def State.shadowReadLate (s : State) : State :=
  match s.se.current, s.se.waiting with
  | some op, .read r _ => if deadlineReached s.now r.deadline then s.seReadError op else s
  | _, _ => s

/-! ## Completions from the card (R12 to R16) -/

/-- A completion is malformed for a LIVE entry (R13). -/
def OrtFields.malformed (f : OrtFields) (c : CardCpl) : Bool :=
  decide (f.bytes < c.data.length)
    || (decide (f.kind = .memoryRead) && decide (c.status = .success) && decide (c.remaining ≠ 0)
        && decide (f.dwords ≤ f.parts))

/-- A MEMORY_READ completion with Success and a remaining count that is not zero: the request continues (R12). -/
def OrtFields.continues (f : OrtFields) (c : CardCpl) : Bool :=
  decide (f.kind = .memoryRead) && decide (c.status = .success) && decide (c.remaining ≠ 0)

def State.setEntry (s : State) (i : Slot) (k : Tag) (e : OrtEntry) : State :=
  s.modSlot i fun r => r.setTt (r.tt.setEntry k e)

/-- A completion on a LIVE entry of origin HOST (R12, R13; log 10). -/
def State.hostCompletes (s : State) (i : Slot) (k : Tag) (f : OrtFields) (q : Requester) (c : CardCpl) : State :=
  if f.malformed c then
    (((s.emit (abortUp q)).setEntry i k .free).promote i).scoreEvent i .malformed
  else if f.continues c then
    (s.emit (.completion q c)).setEntry i k
      (.live { f with bytes := f.bytes - c.data.length, parts := f.parts + 1 })
  else
    let t := ((s.emit (.completion q c)).setEntry i k .free).promote i
    match c.status with
    | .success => (t.scoreEvent i .success).countSuccess i
    | _ => t.scoreEvent i .badStatus

/-- A scoring event of the engine tag and the result for SE: either is taken first (R104, R116; log 9). -/
def State.engineEvent (s : State) (i : Slot) (seFirst : Bool) (e : ScoreEvent) (res : AccessResult) : State :=
  let old := (s.slot i).hm.score
  let t := s.weigh i e
  if seFirst then (t.accessResult i res).scoreChecks i e old
  else (t.scoreChecks i e old).accessResult i res

/-- The dword a Success completion carries to SE; bytes that the card did not send are free values (R104; log 13). -/
def State.engineDword (s : State) (data : List Byte) : Dword :=
  BitVec.ofNat 32 (leNat (data ++ (List.range 4).map fun k => Config.freeByte (s.free + k)) 0 4)

/-- A completion on LIVE entry 31 (R16). -/
def State.engineCompletes (s : State) (i : Slot) (k : Tag) (f : OrtFields) (c : CardCpl) (seFirst : Bool) : State :=
  let t := s.setEntry i k .free
  if f.malformed c then t.engineEvent i seFirst .malformed .nonSuccess
  else
    match c.status with
    | .success => { t with free := t.free + 4 }.accessResult i (.success (s.engineDword c.data))
    | _ => t.engineEvent i seFirst .badStatus .nonSuccess

/-- A completion on a STALE entry: the tag is FREE, it is scored, TT promotes, and the last one ends a drain (R14). HM takes
the event whole before the promotion, a probation fence of it included: the model's reading of R14's order (log 10). -/
def State.lateCompletes (s : State) (i : Slot) (k : Tag) : State :=
  let t := ((s.setEntry i k .free).scoreEvent i .late).promote i
  if (t.slot i).cs.state = .fenced ∧ (t.slot i).tt.staleCount = 0 then t.drainEnd i else t

/-- A completion from a slot port, by its tag and the entry it matches (R12 to R16). -/
def State.cardCompletion (s : State) (i : Slot) (tag : Nat) (c : CardCpl) (seFirst : Bool) : State :=
  if h : tag < 32 then
    let k : Tag := ⟨tag, h⟩
    match (s.slot i).tt.entry k with
    | .free => s.scoreEvent i .unexpected
    | .stale _ => s.lateCompletes i k
    | .live f =>
      match f.origin with
      | .host q => s.hostCompletes i k f q c
      | .engine => s.engineCompletes i k f c seFirst
  else s.scoreEvent i .unexpected

/-! ## Deadlines (R18, R20) -/

/-- The deadline of a LIVE entry is reached (R18). -/
def State.deadlineExpiry (s : State) (i : Slot) (k : Tag) (seFirst : Bool) : State :=
  match (s.slot i).tt.entry k with
  | .live f =>
    if deadlineReached s.now f.deadline then
      match f.origin with
      | .host q =>
        (((s.emit (abortUp q)).setEntry i k (.stale f)).scoreEvent i (.deadlineExpiry k f.kind)).promote i
      | .engine => (s.setEntry i k (.stale f)).engineEvent i seFirst (.deadlineExpiry k f.kind) .timeout
    else s
  | _ => s

/-- The deadline of a held request is reached: it leaves the queue and is answered Aborted (R20). -/
def State.heldExpiry (s : State) (i : Slot) (q : Requester) : State :=
  match (s.slot i).tt.hold.find? fun h => decide (h.request.req = q) with
  | some h =>
    if deadlineReached s.now h.deadline then
      (s.modSlot i fun r => r.setTt { r.tt with hold := r.tt.hold.erase h }).emit (abortUp q)
    else s
  | none => s

end Sys2Proof.Machine
end

