-- ==== Sys2Proof/Machine/Actions.lean ====
section
/-! DEFINITION. The Action Dispatcher (chapter 9): the checks of R146, what each action does, overtaking, plans, and the
ends of LOAD_POLICY and RAIL_SAMPLE. -/

namespace Sys2Proof.Machine

open Sys2Proof

/-! ## The checks (R146) -/

/-- Check 3: argument A in its range and every unused argument 0 (R144). -/
def ActCode.argsOk (c : ActCode) (a : BitVec 16) (b : BitVec 32) : Bool :=
  decide (b = 0) &&
    match c with
    | .fence => decide (a.toNat ≤ 2)
    | .recover => decide (1 ≤ a.toNat) && decide (a.toNat ≤ 2)
    | .powerOn => decide (a.toNat ≤ 1)
    | _ => decide (a = 0)

/-- Check 5: the slot state accepts the action (R148 to R157). -/
def ActCode.accepts (c : ActCode) (st : SlotState) : Bool :=
  match c with
  | .fence =>
    match st with
    | .online => true
    | .probation => true
    | .held => true
    | .isolated => true
    | _ => false
  | .recover =>
    match st with
    | .isolated => true
    | .held => true
    | .retired => true
    | _ => false
  | .powerOn => decide (st = .off)
  | .powerOff => decide (st ≠ .empty)
  | .retire => decide (st ≠ .empty)
  | .admitSlot => decide (st = .held)
  | .release => decide (st = .probation)
  | .snapshot => decide (st = .online) || decide (st = .held)
  | .loadPolicy => !st.recovery
  | .readSlot => true
  | .railSample => true

/-- The action overtakes what the record holds (R158, R159). -/
def ActCode.overtakes (c : ActCode) (a : AdRec) : Bool :=
  match c with
  | .powerOff => true
  | .retire => true
  | .fence => a.runs .snapshot
  | _ => false

/-- The checks of R146, in order: the outcome of the first that fails, or the action. `own`: the entry belongs to the
plan that occupies the record (R160). -/
def SlotRec.check (r : SlotRec) (e : ActEntry) (own : Bool) : Except ActOutcome ActCode :=
  match e.act with
  | none => .error .badCode
  | some c =>
    if r.policy.isNone && c ≠ .loadPolicy && c ≠ .readSlot then .error .noPolicy
    else if !c.argsOk e.argA e.argB then .error .badArgument
    else if !(r.ad.occupant = .none || own || c.overtakes r.ad) then .error .slotBusy
    else if !c.accepts r.cs.state then .error .refused
    else .ok c

/-! ## What each action does when it starts (R148 to R157) -/

/-- FENCE (R148). -/
def State.startFence (s : State) (i : Slot) (e : ActEntry) : State :=
  match (s.slot i).cs.state with
  | .isolated =>
    if kindOfArg e.argA = .none then s.endEntry i .done (s.slot i).cs.attempts else s.recoverAction i e.argA
  | _ => s.fence i .action (kindOfArg e.argA) none

/-- RECOVER (R149). -/
def State.startRecover (s : State) (i : Slot) (e : ActEntry) : State := s.recoverAction i e.argA

/-- POWER_ON (R150). -/
def State.startPowerOn (s : State) (i : Slot) (e : ActEntry) : State := s.bringUp i (decide (e.argA = 1))

/-- POWER_OFF (R151, R60). -/
def State.startPowerOff (s : State) (i : Slot) : State :=
  match (s.slot i).cs.state with
  | .off => s.endEntry i .done 0
  | .retired => s.endEntry i .failed 0
  | _ => s.powerDown i .off .action

/-- RETIRE (R152, R60); from OFF the slot enters RETIRED at once, with no bleed made (R52, R179), and the trigger is ACTION
before the RETIRED incident is raised: the model's choice (log 39). -/
def State.startRetire (s : State) (i : Slot) : State :=
  match (s.slot i).cs.state with
  | .off => ((s.setTrigger i .action).enterRetired i 0).endEntry i .done 0
  | .retired => s.endEntry i .done 0
  | _ => s.powerDown i .retired .action

/-- ADMIT (R153); the held interrupt message precedes the writes of its return (log 45). -/
def State.startAdmit (s : State) (i : Slot) : State := (s.enterProbation i).endEntry i .done 0

/-- RELEASE: the result is the probation count before it was cleared (R153). -/
def State.startRelease (s : State) (i : Slot) : State :=
  (s.probationEnd i).endEntry i .done (s.slot i).cs.probCount

/-- SNAPSHOT (R154). -/
def State.startSnapshot (s : State) (i : Slot) : State := s.seRequest ⟨.snapshot, i⟩

/-- Address of a slot's policy record: the table base plus 256 × the slot number (R155, R167). -/
def policyAddr (base : Addr) (i : Slot) : Addr := base + BitVec.ofNat 64 (256 * i.val)

/-- LOAD_POLICY: one read of the slot's record, with a deadline of 65535 ticks (R155). -/
def State.startLoadPolicy (s : State) (i : Slot) : State :=
  match s.ri.cb with
  | some c =>
    let t := s.setAd i { (s.slot i).ad with policyRead := some (s.readRef 65535) }
    t.issueRead (.dispatcher i) (policyAddr c.policyBase i) 256
  | none => s

/-- The packed result of READ_SLOT (R156). -/
def SlotRec.packed (r : SlotRec) : Nat :=
  r.hm.score % 1024 + 4096 * (r.cs.attempts % 8) + 65536 * r.tt.liveHost + 16777216 * min 31 r.tt.staleCount

/-- READ_SLOT (R156). -/
def State.startReadSlot (s : State) (i : Slot) : State := s.endEntry i .done (s.slot i).packed

/-- RAIL_SAMPLE (R157). -/
def State.startRailSample (s : State) (i : Slot) : State := s.placeShare i .sample

/-- An action that has passed its checks and holds the record starts (R144). -/
def State.run (s : State) (i : Slot) (e : ActEntry) (c : ActCode) : State :=
  match c with
  | .fence => s.startFence i e
  | .recover => s.startRecover i e
  | .powerOn => s.startPowerOn i e
  | .powerOff => s.startPowerOff i
  | .retire => s.startRetire i
  | .admitSlot => s.startAdmit i
  | .release => s.startRelease i
  | .snapshot => s.startSnapshot i
  | .loadPolicy => s.startLoadPolicy i
  | .readSlot => s.startReadSlot i
  | .railSample => s.startRailSample i

/-! ## Overtaking (R158, R159) -/

/-- Steps 1 and 2 of R158: the current entry ends OVERTAKEN, its work withdrawn, and the remaining entries SKIPPED. The
record is free afterwards. The cancellation of a SNAPSHOT, which starts SE's next operation, comes before the OVERTAKEN
return: the model's choice (log 41). -/
def State.overtake (s : State) (i : Slot) : State :=
  let a := (s.slot i).ad
  let t := if a.runs .snapshot then s.seDrop i else s
  let u := if a.runs .railSample then t.withdrawShare i .sample else t
  u.endEntry i .overtaken 0

/-- The long press overtakes in the same way, but for an entry whose outcome is already decided (R158). -/
def State.overtakeByPress (s : State) (i : Slot) : State :=
  let a := (s.slot i).ad
  if a.cardRemoved then (s.skipAll i a.remaining).setAd i { a with remaining := [] } else s.overtake i

/-! ## Starting entries (R146, R160) -/

/-- The next entry of a plan starts: its checks are made now, and a failed one returns it and skips the rest (R160). -/
def State.startNext (s : State) (i : Slot) : State :=
  let a := (s.slot i).ad
  match a.current, a.remaining with
  | none, e :: rest =>
    let t := s.setAd i { a with current := some e, remaining := rest }
    match (s.slot i).check e true with
    | .error o => t.endEntry i o 0
    | .ok c => t.run i e c
  | _, _ => s

/-- The entries of a plan that start in this event, at most `n` (R160). -/
def State.runPlan (i : Slot) : Nat → State → State
  | 0, s => s
  | n + 1, s => State.runPlan i n (s.startNext i)

/-- The plan of a slot goes on in the event in which an entry was returned DONE (R160). R160 does not say where in that event
the next entry starts; it starts after everything else the event does to the slot: the model's choice (log 42). -/
def State.settle (s : State) (i : Slot) : State := State.runPlan i (s.slot i).ad.remaining.length s

/-- AD takes an action, or a plan whose first entry is `e` and whose others are `rest` (R146, R158 to R160). -/
def State.passEntries (s : State) (i : Slot) (occ : Occupant) (e : ActEntry) (rest : List ActEntry) : State :=
  match (s.slot i).check e false with
  | .error o => (s.giveBack i e o 0).skipAll i rest
  | .ok c =>
    let t := if (s.slot i).ad.occupant = .none then s else s.overtake i
    let u := t.setAd i { AdRec.free with occupant := occ, current := some e, remaining := rest }
    (u.run i e c).settle i

/-! ## RI's taking of an entry (R171) -/

/-- The entries are recorded as taken now and added to the in-flight list in ring order (R171, R172). -/
def State.takeEntries (s : State) (es : List ActEntry) : State :=
  { s with ri := { s.ri with inFlight := s.ri.inFlight ++ es.map fun e => ⟨e.index, s.now⟩ } }

def RiRec.isInFlight (r : RiRec) (index : Nat) : Bool := r.inFlight.any fun f => decide (f.index = index)

/-- The entry at this index is one that a look-ahead has collected and not yet taken (R172). -/
def RiWork.collects (w : RiWork) (index : Nat) : Bool :=
  match w with
  | .lookAhead _ _ es => es.any fun e => decide (e.index = index)
  | _ => false

/-- RI can take the entry at this index: it is RUNNING, the index lies in the ring, is not in flight, and is not part of a
plan being collected (R169, R171, R172). -/
def RiRec.canTake (r : RiRec) (index : Nat) : Bool :=
  match r.cb with
  | some c =>
    decide (r.state = .running) && decide (index < c.actionSize) && !r.isInFlight index && !r.work.collects index
  | none => false

/-- An action given ALONE is taken and passed to AD (R144, R171 step 3). Where RI cannot take the entry nothing happens
(log 18). -/
def State.alone (s : State) (i : Slot) (code : BitVec 8) (a : ActionArgs) : State :=
  if s.ri.canTake a.index then
    let e : ActEntry := { index := a.index, chain := .alone, code := code, argA := a.argA, argB := a.argB }
    ((s.takeEntries [e]).passEntries i .action e []).align
  else s

/-! ## The ends of LOAD_POLICY and RAIL_SAMPLE (R155, R157, R161) -/

/-- The policy record read ends, with its bytes or with a read error (R155). -/
def State.policyReadEnds (s : State) (i : Slot) (bytes : Option (List Byte)) : State :=
  match bytes with
  | none => s.endEntry i .memoryError 0
  | some b =>
    if !ActCode.loadPolicy.accepts (s.slot i).cs.state then s.endEntry i .refused 0
    else
      match s.checkPolicy i b with
      | some p => (s.acceptPolicy i p).endEntry i .done 0
      | none => s.endEntry i .policyInvalid 0

/-- The read of a slot's LOAD_POLICY ends; an answer to another read is discarded (R155). -/
def State.loadPolicyRead (s : State) (i : Slot) (id : Nat) (res : ReadResult) : State :=
  match (s.slot i).ad.policyRead with
  | some r => if r.id = id then ((s.policyReadEnds i (res.bytes 256)).settle i).align else s
  | none => s

/-- The LOAD_POLICY read reaches its deadline (R155). -/
def State.loadPolicyLate (s : State) (i : Slot) : State :=
  match (s.slot i).ad.policyRead with
  | some r => if deadlineReached s.now r.deadline then ((s.policyReadEnds i none).settle i).align else s
  | none => s

/-- RM hands AD a reading: DONE, or the decided CARD_REMOVED, with the reading as result (R157, R161). The final slot state
of a CARD_REMOVED return is the one at the return (R147), also where presence has been gained again: the model's choice
against R161's EMPTY (log 38). -/
def State.sampleResult (s : State) (i : Slot) (mv : Nat) : State :=
  let a := (s.slot i).ad
  if a.runs .railSample then s.endEntry i (if a.cardRemoved then .cardRemoved else .done) mv else s

end Sys2Proof.Machine
end

