-- ==== Sys2Proof/Machine/Ring.lean ====
section
/-! DEFINITION. The Ring Interface (chapter 10): registers and commands, INIT, scans, the reading of ring entries, and the
lending of incident entries to IW (chapter 11). -/

namespace Sys2Proof.Machine

open Sys2Proof

def State.modRi (s : State) (f : RiRec → RiRec) : State := { s with ri := f s.ri }

/-- RI issues a host memory read, with a deadline of 65535 ticks (R169); `w` is what it is for. -/
def State.riRead (s : State) (addr : Addr) (bytes : Nat) (w : ReadRef → RiWork) : State :=
  (s.modRi fun r => { r with work := w (s.readRef 65535) }).issueRead .ringInterface addr bytes

/-! ## Scans (R170, R171, R174) -/

/-- A scan is in progress. -/
def RiWork.scanning : RiWork → Bool
  | .action _ => true
  | .lookAhead _ _ _ => true
  | .incident _ => true
  | .idle => false
  | .controlBlock _ => false
  | .policy _ _ _ => false

/-- RI examines the entry at the action pointer (R171). -/
def State.examine (s : State) : State :=
  match s.ri.cb with
  | some c => s.riRead (ringAddr c.actionBase s.ri.actionPtr) 32 .action
  | none => s

/-- A scan begins: the scan timer is reloaded and the first entry examined (R170). -/
def State.beginScan (s : State) : State :=
  match s.ri.cb with
  | some c => (s.modRi fun r => { r with scanTimer := some c.scanInterval }).examine
  | none => s

/-- A scan is asked for: it begins, or is owed once the scan in progress ends (R170). -/
def State.askScan (s : State) : State :=
  if s.ri.work.scanning then s.modRi fun r => { r with scanRequested := true } else s.beginScan

/-- A scan ends; an owed one begins in the same event (R170). -/
def State.endScan (s : State) : State :=
  let t := s.modRi fun r => { r with work := .idle }
  if t.ri.state = .running ∧ t.ri.scanRequested = true then
    (t.modRi fun r => { r with scanRequested := false }).beginScan
  else t

/-- The second part of a scan: the entry at the incident pointer is read while IW has a queued incident (R174). -/
def State.offerIncidents (s : State) : State :=
  match s.ri.cb, s.iq with
  | some c, _ :: _ => s.riRead (ringAddr c.incidentBase s.ri.incidentPtr) 32 .incident
  | _, _ => s.endScan

/-- A read error on a ring entry halts the interface (R169). -/
def State.halt (s : State) : State :=
  s.modRi fun r =>
    { r with
      work := .idle, scanRequested := false, scanTimer := none, state := .halted
      causes := { r.causes with memError := true } }

/-- The action pointer advances by `n`, wrapping (R171, R172). -/
def RiRec.advance (r : RiRec) (n : Nat) : RiRec :=
  match r.cb with
  | some c => { r with actionPtr := (r.actionPtr + n) % c.actionSize }
  | none => r

/-- RI takes one entry and returns it BAD_CHAIN at once (R171 step 5, R172). -/
def State.badChain (s : State) (i : Slot) (e : ActEntry) : State :=
  (((s.takeEntries [e]).giveBack i e .badChain 0).modRi fun r => r.advance 1).examine

/-- RI reads the entry `k` places after the action pointer, to look ahead (R172). -/
def State.lookFor (s : State) (i : Slot) (es : List ActEntry) : State :=
  match s.ri.cb with
  | some c =>
    s.riRead (ringAddr c.actionBase ((s.ri.actionPtr + es.length) % c.actionSize)) 32 fun r => .lookAhead r i es
  | none => s

/-- The entry at the action pointer has been read (R171). -/
def State.examined (s : State) (b : List Byte) : State :=
  let x := parseEntry b s.ri.actionPtr
  if !x.partOwned || s.ri.isInFlight x.entry.index then s.offerIncidents
  else
    match x.entry.chain with
    | .alone => (((s.takeEntries [x.entry]).passEntries x.slot .action x.entry []).modRi fun r => r.advance 1).examine
    | .first => s.lookFor x.slot [x.entry]
    | .middle => s.badChain x.slot x.entry
    | .last => s.badChain x.slot x.entry

/-- The plan is complete: every entry is taken now and passed to AD as one plan (R172, R160). -/
def State.takePlan (s : State) (i : Slot) (first : ActEntry) (rest : List ActEntry) : State :=
  let t := (s.takeEntries (first :: rest)).passEntries i .plan first rest
  (t.modRi fun r => r.advance (rest.length + 1)).examine

/-- An entry has been read in the look-ahead; `es` holds FIRST and the MIDDLE entries so far (R172). -/
def State.lookedAt (s : State) (i : Slot) (first : ActEntry) (mids : List ActEntry) (b : List Byte) : State :=
  let n := mids.length + 1
  match s.ri.cb with
  | none => s
  | some c =>
    let x := parseEntry b ((s.ri.actionPtr + n) % c.actionSize)
    if !x.partOwned || s.ri.isInFlight x.entry.index then s.offerIncidents
    else if x.slot ≠ i then s.badChain i first
    else
      match x.entry.chain with
      | .alone => s.badChain i first
      | .first => s.badChain i first
      | .middle => if n < 7 then s.lookFor i (first :: (mids ++ [x.entry])) else s.badChain i first
      | .last => s.takePlan i first (mids ++ [x.entry])

/-- An Action Ring entry read ends (R169, R171, R172). -/
def State.actionRead (s : State) (id : Nat) (res : ReadResult) : State :=
  match s.ri.work with
  | .action r =>
    if r.id = id then
      match res.bytes 32 with
      | none => s.halt
      | some b => s.examined b
    else s
  | .lookAhead r i (first :: mids) =>
    if r.id = id then
      match res.bytes 32 with
      | none => s.halt
      | some b => s.lookedAt i first mids b
    else s
  | _ => s

/-- IW writes its oldest queued incident into a lent entry, body first and control word last; RI advances the incident
pointer, sets INCIDENT and goes on (R174, R182). -/
def State.lend (s : State) : State :=
  match s.ri.cb, s.iq with
  | some c, x :: rest =>
    let a := ringAddr c.incidentBase s.ri.incidentPtr
    let t := { s with iq := rest }.emits [.hostWrite (a + 2) x.body, .hostWrite a (toLE 2 x.controlWord)]
    let u := t.modRi fun r =>
      { r with
        incidentPtr := (r.incidentPtr + 1) % c.incidentSize
        causes := { r.causes with incident := true } }
    u.offerIncidents
  | _, _ => s.endScan

/-- An Incident Ring entry read ends (R169, R174). -/
def State.incidentRead (s : State) (id : Nat) (res : ReadResult) : State :=
  match s.ri.work with
  | .incident r =>
    if r.id = id then
      match res.bytes 32 with
      | none => s.halt
      | some b => if incidentOwned b then s.lend else s.endScan
    else s
  | _ => s

/-! ## INIT (R166, R167) -/

/-- The address in KCBH and KCBL (R164). -/
def RiRec.cbAddr (r : RiRec) : Addr := BitVec.append r.kcbh r.kcbl

/-- INIT ends with an error (R166). -/
def State.initFails (s : State) (f : InitFault) : State :=
  s.modRi fun r =>
    { r with
      initFault := f, initValid := false, state := .stopped, work := .idle
      causes := { r.causes with initError := true } }

/-- RI reads the policy record of a slot (R167). -/
def State.readPolicy (s : State) (i : Slot) (rejected : BitVec 8) : State :=
  match s.ri.cb with
  | some c => s.riRead (policyAddr c.policyBase i) 256 fun r => .policy r i rejected
  | none => s

/-- A valid Control Block is taken by RI, TB, SSU and CTF in the event of the check (R166, R1, R134, R120). -/
def State.takeControlBlock (s : State) (c : ControlBlock) : State :=
  { s.modRi fun r => { r with cb := some c } with
    tb := { s.tb with prescale := c.prescale, divider := c.divider }
    senseInterval := c.senseInterval }

/-- INIT ends well: slot 7's record has been handled (R167). -/
def State.initDone (s : State) (rejected : BitVec 8) : State :=
  s.modRi fun r =>
    { r with
      initRejected := rejected, actionPtr := 0, incidentPtr := 0, initFault := .none, initValid := true
      state := .stopped, work := .idle, causes := { r.causes with initDone := true } }

/-- A slot's record has been handled: the next is read, or INIT is done (R167). -/
def State.nextPolicy (s : State) (i : Slot) (rejected : BitVec 8) : State :=
  if i = 7 then s.initDone rejected else s.readPolicy (i + 1) rejected

/-- A policy record is checked and accepted or rejected; a read error is a rejection (R167). An action that the acceptance
ends lets its plan go on (R160). -/
def State.initPolicy (s : State) (i : Slot) (rejected : BitVec 8) (bytes : Option (List Byte)) : State :=
  match bytes.bind (s.checkPolicy i) with
  | some p => ((s.acceptPolicy i p).settle i).nextPolicy i rejected
  | none => s.nextPolicy i (rejected ||| (1#8 <<< i.val))

/-- The Control Block read ends; for a valid block the summary is in line before the policy records are read (R166). -/
def State.controlBlockRead (s : State) (id : Nat) (res : ReadResult) : State :=
  match s.ri.work with
  | .controlBlock r =>
    if r.id = id then
      match res.bytes 64 with
      | none => s.initFails .cbRead
      | some b =>
        match checkedControlBlock b with
        | some c => (s.takeControlBlock c).align.readPolicy 0 0
        | none => s.initFails .cbInvalid
    else s
  | _ => s

/-- An INIT policy record read ends (R167). -/
def State.policyRecordRead (s : State) (id : Nat) (res : ReadResult) : State :=
  match s.ri.work with
  | .policy r i rejected => if r.id = id then s.initPolicy i rejected (res.bytes 256) else s
  | _ => s

/-- The read RI waits for. -/
def RiWork.ref : RiWork → Option ReadRef
  | .idle => none
  | .controlBlock r => some r
  | .policy r _ _ => some r
  | .action r => some r
  | .lookAhead r _ _ => some r
  | .incident r => some r

/-- A host memory read of RI reaches its deadline and ends with a read error (R166, R167, R169). -/
def State.riReadLate (s : State) : State :=
  match s.ri.work.ref with
  | none => s
  | some r =>
    if deadlineReached s.now r.deadline then
      match s.ri.work with
      | .controlBlock _ => s.initFails .cbRead
      | .policy _ i rejected => s.initPolicy i rejected none
      | .action _ => s.halt
      | .lookAhead _ _ _ => s.halt
      | .incident _ => s.halt
      | .idle => s
    else s

/-! ## Commands (R165) -/

/-- INIT begins, in STOPPED or HALTED with nothing in flight (R165, R166). -/
def State.initCommand (s : State) : State :=
  if (s.ri.state = .stopped ∨ s.ri.state = .halted) ∧ s.ri.inFlight = [] then
    (s.modRi fun r => { r with state := .initializing }).riRead s.ri.cbAddr 64 .controlBlock
  else s.badCommand

/-- START (R165). -/
def State.startCommand (s : State) : State :=
  if s.ri.state = .stopped ∧ s.ri.initValid = true then
    (s.modRi fun r => { r with state := .running }).beginScan
  else s.badCommand

/-- STOP (R165, R170). -/
def State.stopCommand (s : State) : State :=
  match s.ri.state with
  | .stopped => s
  | .initializing => s.badCommand
  | .running => s.modRi fun r => { r with state := .stopped, work := .idle }
  | .halted => s.modRi fun r => { r with state := .stopped }

/-- PROMPT (R165, R170). -/
def State.promptCommand (s : State) : State := if s.ri.state = .running then s.askScan else s

/-- The scan timer reaches 0 in RUNNING (R170). With a scan in progress the timer is stopped until the next one begins
and reloads it (log 24). -/
def State.scanTimerEnds (s : State) : State :=
  if s.ri.state = .running ∧ s.ri.scanTimer = some 0 then
    (s.modRi fun r => { r with scanTimer := none }).askScan
  else s

/-- A write to KCMD: the command its low byte names, or BAD_COMMAND (R164, R165). -/
def State.kcmdWrite (s : State) (v : Dword) : State :=
  match kcmdCommand v with
  | .init => s.initCommand
  | .start => s.startCommand
  | .stop => s.stopCommand
  | .prompt => s.promptCommand
  | _ => s.badCommand

/-- A register write (R164): bits 5 to 0 of KCBL are ignored. -/
def State.registerWrite (s : State) (reg : CbReg) (v : Dword) : State :=
  match reg with
  | .kcbl => s.modRi fun r => { r with kcbl := v &&& ~~~0x3F#32 }
  | .kcbh => s.modRi fun r => { r with kcbh := v }

end Sys2Proof.Machine
end

