-- ==== Sys2Proof/Machine/Sensing.lean ====
section
/-! DEFINITION. The Slot Sense Unit (chapter 8) and what CS and PRU do at its events: presence, attention, power-good and
the link reports. -/

namespace Sys2Proof.Machine

open Sys2Proof

def State.modSense (s : State) (i : Slot) (f : SenseRec → SenseRec) : State :=
  s.modSlot i fun r => { r with sense := f r.sense }

/-- The filter of R135: the raw level is accepted when it equals the last one seen and differs from the accepted one. -/
def accepts (raw previous accepted : Bool) : Bool := raw == previous && raw != accepted

/-! ## Presence (R136, R62, R63) -/

/-- SE writes the header state byte EMPTY, if the slot has a loaded policy (R117). -/
def State.emptyHeader (s : State) (i : Slot) : State :=
  match (s.slot i).policy with
  | some p => s.seWrite p.areaAddr (toLE 1 HdrState.empty.code)
  | none => s

/-- The presence cut in PRU's record (R87). -/
def PruRec.cut (p : PruRec) : PruRec :=
  { p with
    isoOpen := true, asserted := true, power := false, bleed := true, rail := .down, sequence := .idle, phase := .idle
    timer := none, rampDue := false, rechecks := 0 }

/-- The slot record at presence loss (R62 step 5). -/
def CsRec.lose (c : CsRec) : CsRec :=
  { c with
    kind := .none, target := .none, retryPending := false, restoreWanted := false, probCount := 0, drain := none
    trigger := .presenceOff }

/-- Presence lost, as one event in the order of R62. -/
def State.presenceLost (s : State) (i : Slot) : State :=
  if (s.slot i).cs.state = .empty then s
  else
    let s1 := ((s.presenceWork i).seDrop i).emptyHeader i
    let s2 := (s1.modPru i PruRec.cut).resetAssertion i
    let s3 := s2.withdrawShare i .bleed
    let s4 := (s3.enter i .empty).modCs i CsRec.lose
    (s4.loseCard i).raise i .presenceOff

/-- Presence gained (R63). -/
def State.presenceGained (s : State) (i : Slot) : State :=
  if (s.slot i).cs.state = .empty then
    let s1 := (s.enter i .off).modCs i fun c => { c with attempts := 0, trigger := .none }
    let s2 := (s1.modSlot i SlotRec.clearScore).modPru i fun p => { p with bleed := false }
    let s3 := s2.raise i .presenceOn
    match (s.slot i).policy with
    | some p => if p.autoPowerOn then s3.bringUp i false else s3
    | none => s3
  else s

/-- A presence sample (R135, R136). -/
def State.presenceSample (s : State) (i : Slot) (raw : Bool) : State :=
  let x := (s.slot i).sense
  let hit := accepts raw x.presPrev x.presAcc
  let t := s.modSense i fun y => { y with presPrev := raw, presAcc := if hit then raw else y.presAcc }
  if hit then (if raw then t.presenceGained i else t.presenceLost i) else t

/-! ## Attention (R137 to R139, R64, R65) -/

/-- The slot has a loaded policy with ATTENTION set. -/
def SlotRec.attentionSet (r : SlotRec) : Bool :=
  match r.policy with
  | some p => p.attention
  | none => false

/-- A short press (R64). -/
def State.shortPress (s : State) (i : Slot) (width : Nat) : State :=
  let t := s.raise i .attentionShort width
  if (s.slot i).attentionSet then
    match (s.slot i).cs.state with
    | .online => t.fence i .attention (s.pol i).autoKind none
    | .probation => t.fence i .attention (s.pol i).autoKind none
    | _ => t
  else t

/-- What a long press does to the slot, by state (R65). In OFF and RETIRED the trigger is written first, so a RAMP_FAST met
at the entry to RAMP shows ATTENTION in its RAIL_FAULT and RECOVERY_FAILED: the model's choice (log 43). -/
def State.pressActs (s : State) (i : Slot) : State :=
  match (s.slot i).cs.state with
  | .empty => s
  | .off => (s.setTrigger i .attention).bringUp i false
  | .retired => s.recoverRetired i .attention
  | .bleeding => (s.setTrigger i .attention).powerDown i .off .attention
  | _ => s.powerDown i .off .attention

/-- A long press, with the threshold in force (R65, R139, R158). -/
def State.longPress (s : State) (i : Slot) (threshold : Nat) : State :=
  let t := s.raise i .attentionLong threshold
  if (s.slot i).attentionSet then (t.overtakeByPress i).pressActs i else t

/-- The long threshold in force (R139). -/
def SlotRec.longThreshold (r : SlotRec) : Nat :=
  match r.policy with
  | some p => p.attnLong
  | none => 65535

/-- Steps 1 and 2 of R137 on a press that is accepted: the width, and whether the long press is made now. -/
def SenseRec.widen (x : SenseRec) (threshold : Nat) : SenseRec × Bool :=
  if x.longMade then (x, false)
  else
    let w := x.width + 1
    if threshold ≤ w then ({ x with width := w, longMade := true }, true) else ({ x with width := w }, false)

/-- Steps 1 and 2 of R137 at a sample of an accepted press. -/
def State.pressSample (s : State) (i : Slot) : State :=
  let threshold := (s.slot i).longThreshold
  let w := (s.slot i).sense.widen threshold
  let t := s.modSense i fun y => { y with width := w.1.width, longMade := w.1.longMade }
  if w.2 then t.longPress i threshold else t

/-- Step 3 of R137 when RELEASED is accepted: a short press unless a long one has been made. -/
def State.released (s : State) (i : Slot) : State :=
  let x := (s.slot i).sense
  let t := s.modSense i fun y => { y with attnPrev := false, attnAcc := false, width := 0, longMade := false }
  if x.longMade then t else t.shortPress i x.width

/-- An attention sample (R135, R137). -/
def State.attentionSample (s : State) (i : Slot) (raw : Bool) : State :=
  let x := (s.slot i).sense
  let hit := accepts raw x.attnPrev x.attnAcc
  if x.attnAcc then
    let t := s.pressSample i
    if hit then t.released i else t.modSense i fun y => { y with attnPrev := raw }
  else if hit then s.modSense i fun y => { y with attnPrev := raw, attnAcc := true, width := 0, longMade := false }
  else s.modSense i fun y => { y with attnPrev := raw }

/-- One slot's presence and attention samples, in the order given (R134; log 8). A plan whose entry the first of them
returns goes on before the second (R160; log 42). -/
def State.slotSamples (s : State) (pins : SensePins) (i : Slot) : State :=
  let p := pins.presence.getLsbD i.val
  let a := pins.attention.getLsbD i.val
  if pins.attentionFirst.getLsbD i.val then (((s.attentionSample i a).settle i).presenceSample i p).settle i
  else (((s.presenceSample i p).settle i).attentionSample i a).settle i

/-- The sample timer has reached 0: every slot is sampled and the timer reloaded (R134). -/
def State.senseSample (s : State) (pins : SensePins) : State :=
  if s.sampleTimer = 0 then
    { (slotOrder pins.order).foldl (fun t i => t.slotSamples pins i) s with
      sampleTimer := s.senseInterval }
  else s

/-! ## Power-good (R140, R73, R75, R61) -/

/-- What CS decides at power-good lost, by state (R61 step 4). -/
def State.powerLostOutcome (s : State) (i : Slot) : State :=
  match (s.slot i).cs.state with
  | .fenced | .resetting | .powering | .training | .restoring | .probation => s.failAttempt i 6 0
  | .online | .held => (s.modCs i fun c => { c with target := .retired, retryPending := false }).shutdown i
  | .isolated => (s.modCs i fun c => { c with target := .off, retryPending := false }).shutdown i
  | .empty | .off | .bleeding | .retired => s

/-- CTF takes a fence hand-over: class CUT at once (R132). -/
def State.cutTraffic (s : State) (i : Slot) : State :=
  s.modSlot i fun r => { r with ctf := { r.ctf with cls := .cut } }

/-- Power-good lost, in the order of R61. BLEEDING, OFF, RETIRED and EMPTY have no power-good to lose. -/
def State.powerLost (s : State) (i : Slot) : State :=
  let t := (s.raise i .powerLost).setTrigger i .powerLost
  match (s.slot i).cs.state with
  | .empty | .off | .bleeding | .retired => s
  | .online | .probation | .held => (((t.fenceWork i).cutTraffic i).cancelOp i).powerLostOutcome i
  | .fenced | .resetting | .powering | .training | .restoring | .isolated => (t.cancelOp i).powerLostOutcome i

/-- Power-good accepted present in RAMP (R75). The acceptance and the count fall at the same tick: the count is taken
first, and at the maximum the ramp is slow, or `acceptFirst` takes the acceptance at the count before this tick's step,
which the minimum alone judges (log 7). -/
def State.rampEnds (s : State) (i : Slot) (acceptFirst : Bool) : State :=
  let p := (s.slot i).pru
  if p.rampDue && !acceptFirst then s.rampFault i .rampSlow
  else
    let count := if acceptFirst then p.rampCount - 1 else p.rampCount
    let t := s.modPru i fun q => { q with rampCount := count, rampDue := false }
    if count < (s.pol i).rampMin then t.rampFault i .rampFast
    else t.modPru i fun q => q.enterSettle (s.pol i).settle

/-- PRU takes an accepted change of power-good (R73). -/
def State.powerGood (s : State) (i : Slot) (present acceptFirst : Bool) : State :=
  let p := (s.slot i).pru
  match p.rail, present with
  | .down, _ => s
  | .unproven, true =>
    if p.phase = .ramp then s.rampEnds i acceptFirst else s.modPru i fun q => { q with rail := .good }
  | .unproven, false => s
  | .good, true => s
  | .good, false => (s.modPru i fun q => { q with rail := .unproven }).powerLost i

/-- A power-good sample (R140, R135). -/
def State.powerGoodSample (s : State) (pins : TickPins) (i : Slot) : State :=
  let raw := pins.powerGood.getLsbD i.val
  let x := (s.slot i).sense
  let hit := accepts raw x.pgPrev x.pgAcc
  let t := s.modSense i fun y => { y with pgPrev := raw, pgAcc := if hit then raw else y.pgAcc }
  if hit then t.powerGood i raw (pins.acceptFirst.getLsbD i.val) else t

/-! ## Link reports (R142, R55, R79, R42) -/

/-- Link-up: in TRAINING the timer stops, and the slot enters RESTORING or HELD; elsewhere nothing (R55, R79). -/
def State.linkUp (s : State) (i : Slot) : State :=
  if (s.slot i).pru.phase = .training then
    let t := s.modPru i PruRec.rest
    if (s.slot i).cs.restoreWanted then (t.enter i .restoring).seRequest ⟨.restore, i⟩
    else
      let u := t.enterHeld i
      u.onEntry i .held (u.slot i).cs.attempts
  else s

/-- Link-down: a fence trigger (R42). -/
def State.linkDown (s : State) (i : Slot) : State := s.cardFence i .linkDown

end Sys2Proof.Machine
end

