-- ==== Sys2Proof/Machine/Timers.lean ====
section
/-! DEFINITION. The clock: what a tick steps (R1, R45, R58, R69, R74, R90, R134, R170), the events that the counters
bring due, and the tick itself. An event that is not due changes nothing (log 5). -/

namespace Sys2Proof.Machine

open Sys2Proof

/-! ## The counters (R1) -/

/-- The drain timer goes down (R45), and so does the quiet count in PROBATION (R58). -/
def CsRec.tick (c : CsRec) : CsRec :=
  { c with
    drain := c.drain.map (· - 1)
    probCount := if c.state = .probation ∧ c.probMode = .quiet then c.probCount - 1 else c.probCount }

/-- The phase timer goes down (R69); in RAMP the count goes up and is held against the ramp maximum (R74, R75). -/
def PruRec.tick (p : PruRec) (rampMax : Nat) : PruRec :=
  if p.phase = .ramp then
    let n := min 65535 (p.rampCount + 1)
    { p with timer := p.timer.map (· - 1), rampCount := n, rampDue := p.rampDue || decide (rampMax ≤ n) }
  else { p with timer := p.timer.map (· - 1) }

def SlotRec.tick (r : SlotRec) : SlotRec := { r with cs := r.cs.tick, pru := r.pru.tick r.pol.rampMax }

/-- The scan timer goes down in RUNNING (R170). -/
def RiRec.tick (r : RiRec) : RiRec :=
  { r with scanTimer := if r.state = .running then r.scanTimer.map (· - 1) else r.scanTimer }

/-- Every counter steps once (R1, R90, R134). -/
def State.count (s : State) : State :=
  { s with
    tb := { s.tb with counter := s.tb.counter + 1 }
    slots := mapVec SlotRec.tick s.slots
    rm := { s.rm with timer := s.rm.timer - 1 }
    sampleTimer := s.sampleTimer - 1
    ri := s.ri.tick }

/-- Periods of the reference clock in a tick (R1). -/
def Timebase.periods (t : Timebase) : Nat := t.prescale * (t.divider + 1)

/-! ## Drain and probation (R45, R58) -/

def State.drainTimer (s : State) (i : Slot) : State :=
  if (s.slot i).cs.state = .fenced ∧ (s.slot i).cs.drain = some 0 then s.drainEnd i else s

def State.quietCount (s : State) (i : Slot) : State :=
  let c := (s.slot i).cs
  if c.state = .probation ∧ c.probMode = .quiet ∧ c.probCount = 0 then s.probationEnd i else s

/-! ## Phase ends (R69) -/

/-- The slot's phase timer stands at 0 in this phase. -/
def PruRec.ends (p : PruRec) (f : Phase) : Bool := decide (p.phase = f) && decide (p.timer = some 0)

/-- ISOLATE ends (R71). -/
def State.isolateTimer (s : State) (i : Slot) : State :=
  if (s.slot i).pru.ends .isolate then s.assertReset i else s

/-- ASSERT ends (R72). -/
def State.assertTimer (s : State) (i : Slot) : State :=
  if (s.slot i).pru.ends .assert then s.assertDone i else s

/-- The ramp count was found at or above the ramp maximum (R75). -/
def State.rampCheck (s : State) (i : Slot) : State :=
  let p := (s.slot i).pru
  if p.phase = .ramp ∧ p.rampDue = true then s.rampFault i .rampSlow else s

/-- SETTLE ends (R77). -/
def State.settleTimer (s : State) (i : Slot) : State :=
  if (s.slot i).pru.ends .settle then s.reconnect i else s

/-- RECONNECT ends (R78). -/
def State.reconnectTimer (s : State) (i : Slot) : State :=
  if (s.slot i).pru.ends .reconnect then s.releaseReset i else s

/-- The training timeout (R79, R51). -/
def State.trainingTimer (s : State) (i : Slot) : State :=
  if (s.slot i).pru.ends .training then (s.modPru i PruRec.rest).failAttempt i 2 0 else s

/-- The bleed wait or a bleed recheck ends: BLEED_CHECK, and a bleed share is placed (R81). -/
def State.bleedTimer (s : State) (i : Slot) : State :=
  if (s.slot i).pru.ends .bleedWait then
    (s.modPru i fun p => { p with phase := .bleedCheck, timer := none }).placeShare i .bleed
  else s

/-! ## Conversions (R81 to R83, R90, R93) -/

/-- The bleed load goes OFF, and the sequence and phase IDLE (R81, R83). -/
def PruRec.endBleed (p : PruRec) : PruRec := { p.rest with bleed := false }

/-- PRU takes the result of a bleed check (R81, R82, R83). -/
def State.bleedResult (s : State) (i : Slot) (mv : Nat) : State :=
  let p := s.pol i
  let t := s.modPru i fun q => { q with lastReading := mv }
  let used := (s.slot i).pru.rechecks
  if mv < p.offT then (t.modPru i PruRec.endBleed).bleedEnd i
  else if used < p.bleedExt then
    t.modPru i fun q => { q with rechecks := used + 1, timer := some p.bleedRecheck, phase := .bleedWait }
  else
    let u := t.modPru i PruRec.endBleed
    (u.raise i .railFault (used + 1) mv (detailOf RailFault.bleedStuck.code 0)).retireFromBleed i

/-- A settling conversion ends (R90, R94). -/
def State.settlingEnds (s : State) : State :=
  match s.rm.inService with
  | some i => if s.rm.activity = .settling ∧ s.rm.timer = 0 then s.setRm (s.rm.endSettling i) else s
  | none => s

/-- The result of a measuring conversion goes to every share present on the request of its slot (R93). R93 leaves open
which of PRU and AD has it first; PRU has it first, so a RAIL_SAMPLE is returned with the slot state that the bleed check
left: the model's choice (log 37). -/
def State.handReading (s : State) (i : Slot) (mv : Nat) : State :=
  let q := s.rm.req i
  let t := if q.bleed then s.bleedResult i mv else s
  if q.sample then t.sampleResult i mv else t

/-- The service of a slot ends (R93). -/
def State.serviceEnds (s : State) (i : Slot) : State := s.setRm (s.rm.endService i)

/-- A measuring conversion ends: the result is handed on, the service ends, and then a plan goes on (R93, R160;
log 42). -/
def State.measuringEnds (s : State) (rail : Int) : State :=
  match s.rm.inService with
  | some i =>
    if s.rm.activity = .measuring ∧ s.rm.timer = 0 then
      ((s.handReading i (reading rail)).serviceEnds i).settle i
    else s
  | none => s

/-! ## The end of an event -/

/-- An event in which an action of the slot may have been returned: its plan goes on, and the summary is brought into
line (R160, R175). The next entry of a plan starts after the whole event of a state entry, so a READ_SLOT that follows a
FENCE returned at ONLINE reads attempts 0 and score 0, though the FENCE's own result is the attempts before R59 clears them:
the model's choice, since R160 says only that it starts in the same event (log 42). -/
def State.close (s : State) (i : Slot) : State := (s.settle i).align

/-- A read result or an engine access ends for the slot of SE's current operation. -/
def State.closeEngine (s : State) (op : Option SeOp) : State :=
  match op with
  | some op => s.close op.slot
  | none => s

/-! ## The tick (R1, R140) -/

/-- An event that is taken between the step of the counters and the power-good samples of a tick (log 7). -/
def State.due (s : State) (e : DueEvent) : State :=
  match e with
  | .deadline i k f => (s.deadlineExpiry i k f).close i
  | .held i q => s.heldExpiry i q
  | .drain i => (s.drainTimer i).close i
  | .quiet i => (s.quietCount i).close i
  | .isolate i => (s.isolateTimer i).close i
  | .assert i => (s.assertTimer i).close i
  | .rampSlow i => (s.rampCheck i).close i
  | .settle i => s.settleTimer i
  | .reconnect i => s.reconnectTimer i
  | .training i => (s.trainingTimer i).close i
  | .bleedWait i => s.bleedTimer i
  | .settling => s.settlingEnds
  | .measuring v => (s.measuringEnds v).align
  | .sense p => (s.senseSample p).align
  | .shadowRead => s.shadowReadLate.closeEngine s.se.current
  | .loadPolicyRead i => s.loadPolicyLate i
  | .riRead => s.riReadLate.align
  | .scanTimer => s.scanTimerEnds

/-- TICK: the counters step, the events taken ahead of the samples are taken, and SSU samples power-good (R1, R140). -/
def State.tick (s : State) (pins : TickPins) (early : List DueEvent) : State :=
  let t := early.foldl State.due s.count
  ((slotOrder pins.order).foldl (fun u i => u.powerGoodSample pins i) t).align

end Sys2Proof.Machine
end

