-- ==== Sys2Proof/Machine/Resets.lean ====
section
/-! DEFINITION. The two resets: power-on (R177 and the chapters' tables of values) and host-port (R24, R38, R66, R86, R96,
R118, R129, R162, R176). -/

namespace Sys2Proof.Machine

open Sys2Proof

/-- The changes of the outputs to their values after power-on reset (R67, R68; log 36). -/
def State.resetSignals (s : State) : List SignalChange :=
  allSlots.flatMap fun i => signalChanges i (s.slot i).pru SlotRec.reset.pru

/-- Power-on reset: every record at its reset value. What was handed to the ports before it has left (log 3), a read
identity is never used twice (log 4), and no free value is drawn twice (log 13). -/
def State.powerOnReset (s : State) : State :=
  { State.reset with
    out := s.out, signals := s.signals ++ s.resetSignals, readId := s.readId, free := s.free, pending := s.pending }

/-- The states that a host-port reset moves to ISOLATED (R66). -/
def SlotState.movedByReset : SlotState → Bool
  | .online | .probation | .held | .fenced | .resetting | .powering | .training | .restoring => true
  | .empty | .off | .bleeding | .isolated | .retired => false

/-- TT (R24: no completion is sent), HM (R38), CS's attempts (R66), CTF's holdover (R129) and AD's record (R162) in every
slot at a host-port reset. -/
def SlotRec.hostReset (r : SlotRec) : SlotRec :=
  { r.clearScore with
    tt := r.tt.cutOff, cs := { r.cs with attempts := 0 }, ctf := { r.ctf with holdover := none }, ad := AdRec.free }

/-- Host-port isolation in PRU's record (R86). -/
def PruRec.hostIsolate (p : PruRec) : PruRec := { p.rest with isoOpen := true, asserted := true }

/-- A slot that the reset moves (R66, R86). -/
def State.moveIsolated (s : State) (i : Slot) : State :=
  let s1 := (s.modPru i PruRec.hostIsolate).resetAssertion i
  let s2 := (s1.enter i .isolated).modCs i fun c =>
    { c.isolate with trigger := .hostPortReset, drain := none }
  s2.raise i .isolated (s2.slot i).tt.discard

/-- CS by state at a host-port reset (R66). -/
def State.resetSlot (s : State) (i : Slot) : State :=
  let st := (s.slot i).cs.state
  if st.movedByReset then s.moveIsolated i
  else if st = .bleeding then s.modCs i fun c => { c with target := .off, retryPending := false }
  else s

/-- RM withdraws the sample share of every slot (R96). -/
def RmRec.hostReset (m : RmRec) : RmRec := allSlots.foldl (fun m i => m.withdraw i .sample) m

/-- SE at a host-port reset: the queue is emptied and the current operation absent (R118, R119). -/
def SeRec.hostReset (e : SeRec) : SeRec :=
  { e with queue := [], current := none, step := .idle, waiting := .nothing }

/-- RI at a host-port reset (R176). -/
def RiRec.hostReset (r : RiRec) : RiRec :=
  { r with
    state := .stopped, work := .idle, inFlight := [], initValid := false, causes := Causes.clear
    scanRequested := false, scanTimer := none, summary := false }

/-- The blocks other than CS and PRU at a host-port reset. -/
def State.resetBlocks (s : State) : State :=
  { s with
    slots := mapVec SlotRec.hostReset s.slots, rm := s.rm.hostReset, se := s.se.hostReset, ri := s.ri.hostReset }

/-- HOST_PORT_RESET, with the slots taken in the order given (log 8, log 22). -/
def State.hostPort (s : State) (order : List Slot) : State :=
  (slotOrder order).foldl State.resetSlot s.resetBlocks

end Sys2Proof.Machine
end

