-- ==== Sys2Proof/Machine/ActionRows.lean ====
section
/-! DEFINITION. The meanings of the actions and of the ends of the LOAD_POLICY read. -/

namespace Sys2Proof.Machine

open Sys2Proof

/-- FENCE (R148). -/
def execFence (i : Slot) (a : ActionArgs) (s : State) : Answer := .next (s.alone i ActCode.fence.code a)

/-- RECOVER (R149). -/
def execRecover (i : Slot) (a : ActionArgs) (s : State) : Answer := .next (s.alone i ActCode.recover.code a)

/-- POWER_ON (R150). -/
def execPowerOn (i : Slot) (a : ActionArgs) (s : State) : Answer := .next (s.alone i ActCode.powerOn.code a)

/-- POWER_OFF (R151). -/
def execPowerOff (i : Slot) (a : ActionArgs) (s : State) : Answer := .next (s.alone i ActCode.powerOff.code a)

/-- RETIRE (R152). -/
def execRetire (i : Slot) (a : ActionArgs) (s : State) : Answer := .next (s.alone i ActCode.retire.code a)

/-- ADMIT (R153). -/
def execAdmit (i : Slot) (a : ActionArgs) (s : State) : Answer := .next (s.alone i ActCode.admitSlot.code a)

/-- RELEASE (R153). -/
def execRelease (i : Slot) (a : ActionArgs) (s : State) : Answer := .next (s.alone i ActCode.release.code a)

/-- SNAPSHOT (R154). -/
def execSnapshot (i : Slot) (a : ActionArgs) (s : State) : Answer := .next (s.alone i ActCode.snapshot.code a)

/-- LOAD_POLICY (R155). -/
def execLoadPolicy (i : Slot) (a : ActionArgs) (s : State) : Answer := .next (s.alone i ActCode.loadPolicy.code a)

/-- READ_SLOT (R156). -/
def execReadSlot (i : Slot) (a : ActionArgs) (s : State) : Answer := .next (s.alone i ActCode.readSlot.code a)

/-- RAIL_SAMPLE (R157). -/
def execRailSample (i : Slot) (a : ActionArgs) (s : State) : Answer := .next (s.alone i ActCode.railSample.code a)

/-- UNKNOWN_ACTION_CODE (R146). -/
def execUnknownActionCode (i : Slot) (code : BitVec 8) (a : ActionArgs) (s : State) : Answer := .next (s.alone i code a)

/-- LOAD_POLICY_READ_DONE (R155). -/
def execLoadPolicyReadDone (i : Slot) (id : Nat) (res : ReadResult) (s : State) : Answer :=
  .next (s.loadPolicyRead i id res)

/-- LOAD_POLICY_READ_DEADLINE (R155). -/
def execLoadPolicyReadDeadline (i : Slot) (s : State) : Answer := .next (s.loadPolicyLate i)

end Sys2Proof.Machine
end

