-- ==== Sys2Proof/Machine/Clock.lean ====
section
/-! DEFINITION. The meanings of the resets, the tick, and the events of timers and conversions. -/

namespace Sys2Proof.Machine

open Sys2Proof

/-- POWER_ON_RESET (R177). -/
def execPowerOnReset (s : State) : Answer := .next s.powerOnReset

/-- HOST_PORT_RESET (R66). -/
def execHostPortReset (order : List Slot) (s : State) : Answer := .next (s.hostPort order)

/-- TICK (R1). -/
def execTick (pins : TickPins) (early : List DueEvent) (s : State) : Answer := .next (s.tick pins early)

/-- DRAIN_TIMER_EXPIRY (R45). -/
def execDrainTimerExpiry (i : Slot) (s : State) : Answer := .next ((s.drainTimer i).close i)

/-- PROBATION_QUIET_EXPIRY (R58). -/
def execProbationQuietExpiry (i : Slot) (s : State) : Answer := .next ((s.quietCount i).close i)

/-- ISOLATE_END (R71). -/
def execIsolateEnd (i : Slot) (s : State) : Answer := .next ((s.isolateTimer i).close i)

/-- ASSERT_END (R72). -/
def execAssertEnd (i : Slot) (s : State) : Answer := .next ((s.assertTimer i).close i)

/-- RAMP_SLOW (R75). -/
def execRampSlow (i : Slot) (s : State) : Answer := .next ((s.rampCheck i).close i)

/-- SETTLE_END (R77). -/
def execSettleEnd (i : Slot) (s : State) : Answer := .next (s.settleTimer i)

/-- RECONNECT_END (R78). -/
def execReconnectEnd (i : Slot) (s : State) : Answer := .next (s.reconnectTimer i)

/-- TRAINING_TIMEOUT (R79). -/
def execTrainingTimeout (i : Slot) (s : State) : Answer := .next ((s.trainingTimer i).close i)

/-- BLEED_WAIT_END (R81). -/
def execBleedWaitEnd (i : Slot) (s : State) : Answer := .next (s.bleedTimer i)

/-- SETTLING_CONVERSION_END (R90). -/
def execSettlingConversionEnd (s : State) : Answer := .next s.settlingEnds

/-- MEASURING_CONVERSION_END (R93). -/
def execMeasuringConversionEnd (rail : Int) (s : State) : Answer := .next (s.measuringEnds rail).align

/-- SENSE_SAMPLE (R134). -/
def execSenseSample (pins : SensePins) (s : State) : Answer := .next (s.senseSample pins).align

end Sys2Proof.Machine
end

