-- ==== Sys2Proof/Machine/Interface.lean ====
section
/-! DEFINITION. The meanings of the commands and register writes, and of the ends of the Ring Interface's reads and timer. -/

namespace Sys2Proof.Machine

open Sys2Proof

/-- INIT (R166). -/
def execInit (s : State) : Answer := .next s.initCommand.align

/-- START (R165). -/
def execStart (s : State) : Answer := .next s.startCommand.align

/-- STOP (R165). -/
def execStop (s : State) : Answer := .next s.stopCommand.align

/-- PROMPT (R170). -/
def execPrompt (s : State) : Answer := .next s.promptCommand.align

/-- UNKNOWN_COMMAND (R164): the write of a value to KCMD. -/
def execUnknownCommand (value : Dword) (s : State) : Answer := .next (s.kcmdWrite value).align

/-- KSTAT_WRITE (R164). -/
def execKstatWrite (value : Dword) (s : State) : Answer := .next (s.setCauses fun c => c.clearBits value).align

/-- REGISTER_WRITE (R164). -/
def execRegisterWrite (reg : CbReg) (value : Dword) (s : State) : Answer := .next (s.registerWrite reg value)

/-- CONTROL_BLOCK_READ_DONE (R166). -/
def execControlBlockReadDone (id : Nat) (res : ReadResult) (s : State) : Answer :=
  .next (s.controlBlockRead id res).align

/-- POLICY_RECORD_READ_DONE (R167). -/
def execPolicyRecordReadDone (id : Nat) (res : ReadResult) (s : State) : Answer :=
  .next (s.policyRecordRead id res).align

/-- RI_READ_DEADLINE (R169). -/
def execRiReadDeadline (s : State) : Answer := .next s.riReadLate.align

/-- SCAN_TIMER_EXPIRY (R170). -/
def execScanTimerExpiry (s : State) : Answer := .next s.scanTimerEnds

/-- ACTION_ENTRY_READ_DONE (R171). -/
def execActionEntryReadDone (id : Nat) (res : ReadResult) (s : State) : Answer := .next (s.actionRead id res).align

/-- INCIDENT_ENTRY_READ_DONE (R174). -/
def execIncidentEntryReadDone (id : Nat) (res : ReadResult) (s : State) : Answer := .next (s.incidentRead id res).align

end Sys2Proof.Machine
end

