-- ==== Sys2Proof/Machine/Links.lean ====
section
/-! DEFINITION. The meanings of what the links bring: host requests and completions, card completions and requests, deadlines, link
reports, and the results of SE's host memory reads. -/

namespace Sys2Proof.Machine

open Sys2Proof

/-- HOST_REQUEST (R4). -/
def execHostRequest (r : HostRequest) (s : State) : Answer := .next (s.hostRequest r)

/-- CARD_COMPLETION (R12). -/
def execCardCompletion (i : Slot) (tag : Nat) (c : CardCpl) (seFirst : Bool) (s : State) : Answer :=
  .next ((s.cardCompletion i tag c seFirst).close i)

/-- DEADLINE_EXPIRY (R18). -/
def execDeadlineExpiry (i : Slot) (tag : Tag) (seFirst : Bool) (s : State) : Answer :=
  .next ((s.deadlineExpiry i tag seFirst).close i)

/-- HELD_REQUEST_EXPIRY (R20). -/
def execHeldRequestExpiry (i : Slot) (req : Requester) (s : State) : Answer := .next (s.heldExpiry i req)

/-- LINK_UP (R55). -/
def execLinkUp (i : Slot) (s : State) : Answer := .next ((s.linkUp i).close i)

/-- LINK_DOWN (R42). -/
def execLinkDown (i : Slot) (s : State) : Answer := .next ((s.linkDown i).close i)

/-- CARD_REQUEST (R122). -/
def execCardRequest (i : Slot) (r : CardRequest) (s : State) : Answer := .next ((s.cardRequest i r).close i)

/-- HOST_COMPLETION (R131). -/
def execHostCompletion (c : HostCpl) (s : State) : Answer := .next (s.hostCompletion c)

/-- SHADOW_READ_DONE (R107). -/
def execShadowReadDone (id : Nat) (res : ReadResult) (s : State) : Answer :=
  .next ((s.shadowRead id res).closeEngine s.se.current)

/-- SHADOW_READ_DEADLINE (R103). -/
def execShadowReadDeadline (s : State) : Answer := .next (s.shadowReadLate.closeEngine s.se.current)

end Sys2Proof.Machine
end

