-- ==== Sys2Proof/Machine/Dispatch.lean ====
section
/-! DEFINITION. One arm per command. -/

namespace Sys2Proof.Machine

open Sys2Proof

/-- The effect of a command on everything but the queue. -/
def exec (i : Instr) (s : State) : Host.Outcome State Fault Refusal :=
  match i with
  | .powerOnReset => Sys2Proof.Machine.execPowerOnReset s
  | .hostPortReset order => Sys2Proof.Machine.execHostPortReset order s
  | .tick pins early => Sys2Proof.Machine.execTick pins early s
  | .hostRequest r => Sys2Proof.Machine.execHostRequest r s
  | .cardCompletion slot tag c seFirst => Sys2Proof.Machine.execCardCompletion slot tag c seFirst s
  | .deadlineExpiry slot tag seFirst => Sys2Proof.Machine.execDeadlineExpiry slot tag seFirst s
  | .heldRequestExpiry slot req => Sys2Proof.Machine.execHeldRequestExpiry slot req s
  | .drainTimerExpiry slot => Sys2Proof.Machine.execDrainTimerExpiry slot s
  | .probationQuietExpiry slot => Sys2Proof.Machine.execProbationQuietExpiry slot s
  | .isolateEnd slot => Sys2Proof.Machine.execIsolateEnd slot s
  | .assertEnd slot => Sys2Proof.Machine.execAssertEnd slot s
  | .rampSlow slot => Sys2Proof.Machine.execRampSlow slot s
  | .settleEnd slot => Sys2Proof.Machine.execSettleEnd slot s
  | .reconnectEnd slot => Sys2Proof.Machine.execReconnectEnd slot s
  | .trainingTimeout slot => Sys2Proof.Machine.execTrainingTimeout slot s
  | .bleedWaitEnd slot => Sys2Proof.Machine.execBleedWaitEnd slot s
  | .settlingConversionEnd => Sys2Proof.Machine.execSettlingConversionEnd s
  | .measuringConversionEnd rail => Sys2Proof.Machine.execMeasuringConversionEnd rail s
  | .senseSample pins => Sys2Proof.Machine.execSenseSample pins s
  | .linkUp slot => Sys2Proof.Machine.execLinkUp slot s
  | .linkDown slot => Sys2Proof.Machine.execLinkDown slot s
  | .cardRequest slot r => Sys2Proof.Machine.execCardRequest slot r s
  | .hostCompletion c => Sys2Proof.Machine.execHostCompletion c s
  | .shadowReadDone id res => Sys2Proof.Machine.execShadowReadDone id res s
  | .shadowReadDeadline => Sys2Proof.Machine.execShadowReadDeadline s
  | .fence slot a => Sys2Proof.Machine.execFence slot a s
  | .recover slot a => Sys2Proof.Machine.execRecover slot a s
  | .powerOn slot a => Sys2Proof.Machine.execPowerOn slot a s
  | .powerOff slot a => Sys2Proof.Machine.execPowerOff slot a s
  | .retire slot a => Sys2Proof.Machine.execRetire slot a s
  | .admitSlot slot a => Sys2Proof.Machine.execAdmit slot a s
  | .release slot a => Sys2Proof.Machine.execRelease slot a s
  | .snapshot slot a => Sys2Proof.Machine.execSnapshot slot a s
  | .loadPolicy slot a => Sys2Proof.Machine.execLoadPolicy slot a s
  | .loadPolicyReadDone slot id res => Sys2Proof.Machine.execLoadPolicyReadDone slot id res s
  | .loadPolicyReadDeadline slot => Sys2Proof.Machine.execLoadPolicyReadDeadline slot s
  | .readSlot slot a => Sys2Proof.Machine.execReadSlot slot a s
  | .railSample slot a => Sys2Proof.Machine.execRailSample slot a s
  | .unknownActionCode slot code a => Sys2Proof.Machine.execUnknownActionCode slot code a s
  | .init => Sys2Proof.Machine.execInit s
  | .start => Sys2Proof.Machine.execStart s
  | .stop => Sys2Proof.Machine.execStop s
  | .prompt => Sys2Proof.Machine.execPrompt s
  | .unknownCommand value => Sys2Proof.Machine.execUnknownCommand value s
  | .kstatWrite value => Sys2Proof.Machine.execKstatWrite value s
  | .registerWrite reg value => Sys2Proof.Machine.execRegisterWrite reg value s
  | .controlBlockReadDone id res => Sys2Proof.Machine.execControlBlockReadDone id res s
  | .policyRecordReadDone id res => Sys2Proof.Machine.execPolicyRecordReadDone id res s
  | .riReadDeadline => Sys2Proof.Machine.execRiReadDeadline s
  | .scanTimerExpiry => Sys2Proof.Machine.execScanTimerExpiry s
  | .actionEntryReadDone id res => Sys2Proof.Machine.execActionEntryReadDone id res s
  | .incidentEntryReadDone id res => Sys2Proof.Machine.execIncidentEntryReadDone id res s

end Sys2Proof.Machine
end

