-- ==== Sys2Proof/Safety.lean ====
section
/-! DEFINITION. What the model's statements are about: the laws of the part as predicates of a state, and the conditions
under which a command finds its event due. No command faults or is refused, so a run ends only with its queue. -/

namespace Sys2Proof.Machine

open Sys2Proof

/-! ## The part's laws -/

/-- At most 4 incidents of a slot are queued, and at most 32 in all (R180). -/
def State.incidentsBounded (s : State) : Prop := (∀ i, queuedFor i s.iq ≤ 4) ∧ s.iq.length ≤ 32

/-- Every fault score is at most 1023 (R27). -/
def State.scoresBounded (s : State) : Prop := ∀ i, (s.slot i).hm.score ≤ 1023

/-- WATCHED is set while the score is at or above the watch threshold, and clear without a policy (R27, R31). -/
def State.watchFollows (s : State) : Prop :=
  ∀ i, match (s.slot i).policy with
    | some p => (s.slot i).hm.watched = decide (p.watchT ≤ (s.slot i).hm.score)
    | none => (s.slot i).hm.watched = false

/-- A slot's disposition class is the one of its state (R122, R132). -/
def State.classesFollow (s : State) : Prop := ∀ i, (s.slot i).ctf.cls = (s.slot i).cs.state.cls

/-- Tags 0 to 30 carry host requests and tag 31 engine accesses (R7). -/
def OrtEntry.belongs (e : OrtEntry) (k : Tag) : Prop :=
  match e with
  | .free => True
  | .live f => f.origin = .engine ↔ k = engineTag
  | .stale f => f.origin = .engine ↔ k = engineTag

def State.tagsBelong (s : State) : Prop := ∀ i k, ((s.slot i).tt.entry k).belongs k

/-- Attempts are within the policy's maximum, which is at least 1; without a policy there are none (R46, R168). -/
def SlotRec.attemptsOk (r : SlotRec) : Prop :=
  match r.policy with
  | some p => r.cs.attempts ≤ p.maxAttempts ∧ 1 ≤ p.maxAttempts
  | none => r.cs.attempts = 0

def State.attemptsBounded (s : State) : Prop := ∀ i, (s.slot i).attemptsOk

/-! ## The checks of R166, R168 and R99, restated from the manual's tables -/

/-- A window in use: base and size multiples of 4 KiB, 4 KiB to 4 GiB, and its end within the address space (R168). -/
def Window.sound (w : Window) : Prop :=
  w.base.toNat % 4096 = 0 ∧ w.size % 4096 = 0 ∧ 4096 ≤ w.size ∧ w.size ≤ 2 ^ 32 ∧ w.base.toNat + w.size ≤ 2 ^ 64

/-- Two windows share no byte. -/
def Window.disjoint (v w : Window) : Prop :=
  v.base.toNat + v.size ≤ w.base.toNat ∨ w.base.toNat + w.size ≤ v.base.toNat

/-- The requirements of R168 on one policy. -/
def Policy.sound (p : Policy) : Prop :=
  (1 ≤ p.maxAttempts ∧ p.maxAttempts ≤ 7) ∧ p.busFirst.toNat ≤ p.busLast.toNat
    ∧ p.memWindows.length ≤ 2 ∧ p.permitWindows.length ≤ 4
    ∧ (∀ w ∈ p.memWindows, w.sound) ∧ (∀ w ∈ p.permitWindows, w.sound)
    ∧ (∀ v w, p.memWindows = [v, w] → v.disjoint w)
    ∧ p.mapAddr.toNat % 4 = 0 ∧ p.areaAddr.toNat % 16 = 0
    ∧ (1 ≤ p.outLimit ∧ p.outLimit ≤ 31) ∧ (1 ≤ p.probLimit ∧ p.probLimit ≤ 31) ∧ p.bleedExt ≤ 7
    ∧ (1 ≤ p.watchT ∧ p.watchT ≤ 1023) ∧ (1 ≤ p.fenceT ∧ p.fenceT ≤ 1023) ∧ (1 ≤ p.probT ∧ p.probT ≤ 1023)
    ∧ p.watchT < p.fenceT ∧ (1 ≤ p.offT ∧ p.offT ≤ 14000)
    ∧ (∀ n ∈ [p.completionDeadline, p.resetHold, p.bleedWait, p.bleedRecheck, p.rampMin, p.rampMax, p.settle,
        p.trainTimeout, p.probQuiet, p.probTraffic, p.attnLong], 1 ≤ n ∧ n ≤ 65535)
    ∧ ∀ n ∈ [p.drain, p.isoLead, p.releaseLag], n ≤ 65535

/-- Bus ranges and memory windows of two slots' policies are disjoint (R168, "other slots"). -/
def Policy.disjoint (p q : Policy) : Prop :=
  (p.busLast.toNat < q.busFirst.toNat ∨ q.busLast.toNat < p.busFirst.toNat)
    ∧ ∀ v ∈ p.memWindows, ∀ w ∈ q.memWindows, v.disjoint w

/-- The `count` windows at offset `k`, of the `places` there: those in use as the fields say, the others all zero. -/
def windowsSay (b : List Byte) (k places : Nat) (ws : List Window) : Prop :=
  ∀ n, n < places →
    match ws[n]? with
    | some w => w.base.toNat = leNat b (k + 12 * n) 8 ∧ w.size = leNat b (k + 12 * n + 8) 4 + 1
    | none => leNat b (k + 12 * n) 12 = 0

/-- The 256 bytes are a record with VALID set, every reserved byte and bit zero, and the fields of `p` (section 10.10). -/
def Policy.says (p : Policy) (b : List Byte) : Prop :=
  let flags := leNat b 0 2
  flags.testBit 0 = true ∧ flags < 2 ^ 8
    ∧ p.autoContain = flags.testBit 1 ∧ p.escalate = flags.testBit 2 ∧ p.autoPowerOn = flags.testBit 3
    ∧ p.restore = flags.testBit 4 ∧ p.fatalFence = flags.testBit 5 ∧ p.attention = flags.testBit 6
    ∧ p.probationTraffic = flags.testBit 7
    ∧ p.autoKind.code = leNat b 2 1 ∧ p.maxAttempts = leNat b 3 1
    ∧ p.busFirst.toNat = leNat b 4 1 ∧ p.busLast.toNat = leNat b 5 1
    ∧ p.memWindows.length = leNat b 6 1 ∧ p.permitWindows.length = leNat b 7 1
    ∧ windowsSay b 8 2 p.memWindows ∧ windowsSay b 32 4 p.permitWindows
    ∧ p.mapAddr.toNat = leNat b 80 8 ∧ p.areaAddr.toNat = leNat b 88 8
    ∧ p.outLimit = leNat b 96 1 ∧ p.probLimit = leNat b 97 1 ∧ p.bleedExt = leNat b 98 1 ∧ leNat b 99 1 = 0
    ∧ p.watchT = leNat b 100 2 ∧ p.fenceT = leNat b 102 2 ∧ p.probT = leNat b 104 2 ∧ p.offT = leNat b 106 2
    ∧ [p.completionDeadline, p.drain, p.isoLead, p.resetHold, p.releaseLag, p.bleedWait, p.bleedRecheck, p.rampMin,
        p.rampMax, p.settle, p.trainTimeout, p.probQuiet, p.probTraffic, p.attnLong]
        = (List.range 14).map (fun n => leNat b (108 + 2 * n) 2)
    ∧ leNat b 136 120 = 0

/-- R168 accepts the bytes as the policy `p` of slot `i`. -/
def State.acceptable (s : State) (i : Slot) (b : List Byte) (p : Policy) : Prop :=
  p.says b ∧ p.sound ∧ ∀ j q, j ≠ i → (s.slot j).policy = some q → p.disjoint q

/-- The fields of the 64 bytes of a Control Block (section 10.10). -/
def ControlBlock.says (c : ControlBlock) (b : List Byte) : Prop :=
  c.actionBase.toNat = leNat b 0 8 ∧ c.actionExp = leNat b 8 1 ∧ c.incidentExp = leNat b 9 1
    ∧ c.prescaleSel = leNat b 10 1 ∧ c.divider = leNat b 11 1 ∧ c.scanInterval = leNat b 12 2
    ∧ c.senseInterval = leNat b 14 2 ∧ c.incidentBase.toNat = leNat b 16 8 ∧ c.policyBase.toNat = leNat b 24 8
    ∧ c.intBase.toNat = leNat b 32 8 ∧ c.intSize = leNat b 40 4 ∧ c.enables.toNat = leNat b 44 4

/-- The requirements of R166 on a Control Block and on the bytes 48 to 63 it was read with. -/
def ControlBlock.sound (c : ControlBlock) (b : List Byte) : Prop :=
  let a := c.actionBase.toNat
  let i := c.incidentBase.toNat
  let p := c.policyBase.toNat
  (3 ≤ c.actionExp ∧ c.actionExp ≤ 8) ∧ (3 ≤ c.incidentExp ∧ c.incidentExp ≤ 8)
    ∧ c.prescaleSel ≤ 3 ∧ c.divider ≤ 31 ∧ (1 ≤ c.scanInterval ∧ c.scanInterval ≤ 65535)
    ∧ (1 ≤ c.senseInterval ∧ c.senseInterval ≤ 65535)
    ∧ a % 32 = 0 ∧ i % 32 = 0 ∧ p % 256 = 0
    ∧ a + 32 * 2 ^ c.actionExp ≤ 2 ^ 64 ∧ i + 32 * 2 ^ c.incidentExp ≤ 2 ^ 64 ∧ p + 2048 ≤ 2 ^ 64
    ∧ (a + 32 * 2 ^ c.actionExp ≤ i ∨ i + 32 * 2 ^ c.incidentExp ≤ a)
    ∧ (a + 32 * 2 ^ c.actionExp ≤ p ∨ p + 2048 ≤ a) ∧ (i + 32 * 2 ^ c.incidentExp ≤ p ∨ p + 2048 ≤ i)
    ∧ c.intBase.toNat % 4 = 0 ∧ c.intBase.toNat + c.intSize ≤ 2 ^ 64
    ∧ (∀ n, c.enables.getLsbD n = true → 8 ≤ n ∧ n ≤ 13)
    ∧ leNat b 48 16 = 0

/-- The bytes hold a valid map of these entries (R99, section 10.10). -/
def mapSays (b : List Byte) (m : List MapEntry) : Prop :=
  ∀ n, n < m.length → let w := BitVec.ofNat 32 (leNat b (4 * n) 4)
    ∃ e, m[n]? = some e ∧ e.index = (w.extractLsb' 0 10).toNat ∧ e.count = (w.extractLsb' 16 5).toNat
      ∧ e.skip = w.getLsbD 24 ∧ e.last = w.getLsbD 25 ∧ e.verify = w.getLsbD 26
      ∧ 1 ≤ e.count ∧ e.count ≤ 16 ∧ e.index + e.count ≤ 1024
      ∧ ∀ k, 10 ≤ k ∧ k ≤ 15 ∨ 21 ≤ k ∧ k ≤ 23 ∨ 27 ≤ k → w.getLsbD k = false

/-- Every loaded policy keeps R168, and those of two slots are apart in bus numbers and memory windows. -/
def State.policiesSound (s : State) : Prop :=
  (∀ i p, (s.slot i).policy = some p → p.sound)
    ∧ ∀ i j p q, i ≠ j → (s.slot i).policy = some p → (s.slot j).policy = some q → p.disjoint q

/-- The summary is the OR over the causes of cause AND enable (R175). -/
def State.summaryInLine (s : State) : Prop := s.ri.summary = s.ri.summaryNow

/-! ## Outputs, phases and states (R68, R70) -/

/-- Power OFF, reset ASSERTED, isolation OPEN. -/
def PruRec.dark (p : PruRec) : Prop := p.power = false ∧ p.asserted = true ∧ p.isoOpen = true

/-- Power ON, reset RELEASED, isolation CLOSED, bleed load OFF. -/
def PruRec.up (p : PruRec) : Prop :=
  p.power = true ∧ p.asserted = false ∧ p.isoOpen = false ∧ p.bleed = false

/-- The outputs and the phase that go with a slot state: section 3.1 and section 4.4, "PRU's phase and CS's state
therefore agree at every moment". -/
def SlotRec.phaseAgrees (r : SlotRec) : Prop :=
  let p := r.pru
  match r.cs.state with
  | .empty => p.dark ∧ p.phase = .idle
  | .off => p.dark ∧ p.bleed = false ∧ p.phase = .idle
  | .retired => p.dark ∧ p.bleed = false ∧ p.phase = .idle
  | .bleeding => p.dark ∧ p.bleed = true ∧ (p.phase = .bleedWait ∨ p.phase = .bleedCheck)
  | .powering =>
    p.power = true ∧ p.asserted = true ∧ p.bleed = false
      ∧ (p.isoOpen = true ∧ (p.phase = .ramp ∨ p.phase = .settle) ∨ p.isoOpen = false ∧ p.phase = .reconnect)
  | .training => p.up ∧ p.phase = .training
  | .resetting =>
    p.power = true ∧ p.bleed = false
      ∧ (p.isoOpen = true ∧ p.phase = .isolate ∨ p.isoOpen = true ∧ p.asserted = true ∧ p.phase = .assert
        ∨ p.isoOpen = false ∧ p.asserted = true ∧ p.phase = .reconnect)
  | .isolated => p.power = true ∧ p.asserted = true ∧ p.isoOpen = true ∧ p.bleed = false ∧ p.phase = .idle
  | .restoring => p.up ∧ p.phase = .idle
  | .held => p.up ∧ p.phase = .idle
  | .probation => p.up ∧ p.phase = .idle
  | .online => p.up ∧ p.phase = .idle
  | .fenced => p.up ∧ p.phase = .idle

/-- The operations in SE, the running one first. -/
def SeRec.ops (e : SeRec) : List SeOp := e.current.toList ++ e.queue

/-- Outputs, phases and states agree in every slot; a bleed share waits only for a slot in BLEED_CHECK (R81, R95), and SE
has at most one RESTORE of a slot, and only of one in RESTORING (R105, R116). -/
def State.sequencesSound (s : State) : Prop :=
  (∀ i, (s.slot i).phaseAgrees)
    ∧ (∀ i, (s.rm.req i).bleed = true → (s.slot i).pru.phase = .bleedCheck)
    ∧ ∀ i, s.se.ops.count ⟨.restore, i⟩ ≤ 1
      ∧ (⟨.restore, i⟩ ∈ s.se.ops → (s.slot i).cs.state = .restoring)

/-- Power OFF means reset ASSERTED and isolation OPEN (R68). -/
def State.powerLaw (s : State) : Prop := ∀ i, (s.slot i).pru.power = false → (s.slot i).pru.dark

/-- The level of an output after power-on reset: isolation OPEN, reset ASSERTED, power and bleed load OFF (R67). -/
def Signal.atReset : Signal → Bool
  | .isolation | .reset => true
  | .power | .bleed => false

/-- The level of an output after a list of changes. -/
def levelAfter (l : List SignalChange) (i : Slot) (g : Signal) : Bool :=
  l.foldl (fun v c => if c.slot = i ∧ c.signal = g then c.level else v) g.atReset

/-- The changes made so far, one at a time, lead to the outputs as they stand, and after each of them power OFF means reset
ASSERTED and isolation OPEN: PRU's order keeps the law inside an event too (R68; the list is the model's own, log 36). -/
def State.signalLaw (s : State) : Prop :=
  (∀ i, levelAfter s.signals i .isolation = (s.slot i).pru.isoOpen
    ∧ levelAfter s.signals i .reset = (s.slot i).pru.asserted ∧ levelAfter s.signals i .power = (s.slot i).pru.power
    ∧ levelAfter s.signals i .bleed = (s.slot i).pru.bleed)
    ∧ ∀ l, l <+: s.signals → ∀ i, levelAfter l i .power = false →
      levelAfter l i .reset = true ∧ levelAfter l i .isolation = true

/-- The changes of a power-off from outputs that are up, in the order of R68. -/
def powerOffSignals (i : Slot) : List SignalChange :=
  [⟨i, .isolation, true⟩, ⟨i, .reset, true⟩, ⟨i, .power, false⟩, ⟨i, .bleed, true⟩]

/-- The states in which TT tracks host requests (R4). -/
def SlotState.tracks : SlotState → Bool
  | .online | .probation | .held => true
  | .empty | .off | .powering | .training | .restoring | .fenced | .resetting | .bleeding | .isolated | .retired => false

/-- LIVE host entries and held requests exist only where TT tracks requests (R4, R18). -/
def State.trafficSound (s : State) : Prop :=
  ∀ i, (s.slot i).cs.state.tracks = false →
    (∀ k, k ≠ engineTag → ((s.slot i).tt.entry k).isLive = false) ∧ (s.slot i).tt.hold = []

/-- While requests are held, no tag can be taken for them: promotion has run to its end (R11). -/
def State.heldRequestsWait (s : State) : Prop := ∀ i, (s.slot i).tt.hold ≠ [] → (s.slot i).takeable = none

/-! ## Actions -/

/-- The entry of an action given ALONE. -/
def entryOf (a : ActionArgs) (code : BitVec 8) : ActEntry :=
  { index := a.index, chain := .alone, code := code, argA := a.argA, argB := a.argB }

/-- The slot, the action and the arguments of an action row. -/
def actionOf : Instr → Option (Slot × ActCode × ActionArgs)
  | .fence i a => some (i, .fence, a)
  | .recover i a => some (i, .recover, a)
  | .powerOn i a => some (i, .powerOn, a)
  | .powerOff i a => some (i, .powerOff, a)
  | .retire i a => some (i, .retire, a)
  | .admitSlot i a => some (i, .admitSlot, a)
  | .release i a => some (i, .release, a)
  | .snapshot i a => some (i, .snapshot, a)
  | .loadPolicy i a => some (i, .loadPolicy, a)
  | .readSlot i a => some (i, .readSlot, a)
  | .railSample i a => some (i, .railSample, a)
  | _ => none

/-- RI takes the entry at the index of `a`: RUNNING, a valid Control Block, the index in the ring, not in flight, and not in
a plan that is being collected (R171, R172). -/
def State.takes (s : State) (a : ActionArgs) (cb : ControlBlock) : Prop :=
  s.ri.cb = some cb ∧ s.ri.state = .running ∧ a.index < cb.actionSize ∧ (∀ f ∈ s.ri.inFlight, f.index ≠ a.index)
    ∧ s.ri.work.collects a.index = false

/-- The two writes by which RI returns an entry taken in this event (R173). -/
def returnWrites (base : Addr) (i : Slot) (e : ActEntry) (o : ActOutcome) (st : SlotState) (result : Nat)
    (now : Tick) : List Output :=
  [.hostWrite (ringAddr base e.index + 16) (returnBody o st result now now),
    .hostWrite (ringAddr base e.index) (toLE 2 (e.controlWord i))]

/-- The slot's action record holds entry `e`, taken as `f` says, as the last of what it holds; `cb` is the Control Block. -/
def State.holdsEntry (s : State) (i : Slot) (e : ActEntry) (f : InFlight) (cb : ControlBlock) : Prop :=
  (s.slot i).ad.current = some e ∧ (s.slot i).ad.remaining = [] ∧ s.ri.cb = some cb
    ∧ s.ri.inFlight.find? (fun g => decide (g.index = e.index)) = some f

/-- From `s` to `t` entry `e` has been returned, after the outputs `pre`: its two writes, body first, the index out of the
in-flight list, ACTION_DONE set, and the record free (R147, R173). -/
def State.returned (s t : State) (pre : List Output) (i : Slot) (e : ActEntry) (f : InFlight) (cb : ControlBlock)
    (o : ActOutcome) (st : SlotState) (result : Nat) : Prop :=
  s.out ++ pre
      ++ [.hostWrite (ringAddr cb.actionBase e.index + 16) (returnBody o st result f.taken s.tb.counter),
        .hostWrite (ringAddr cb.actionBase e.index) (toLE 2 (e.controlWord i))] <+: t.out
    ∧ t.ri.inFlight = s.ri.inFlight.filter (fun g => !decide (g.index = e.index))
    ∧ t.ri.causes = { s.ri.causes with actionDone := true }
    ∧ (t.slot i).ad = { occupant := .none, current := none, cardRemoved := false, remaining := [], policyRead := none }

/-- The state entries that return an action in progress, with the outcome: the tables of R148 (RECOVER has the same, R149),
R150, R151 and R152. -/
def entryReturns : List (ActCode × SlotState × ActOutcome) :=
  [(.fence, .online, .done), (.fence, .held, .done), (.fence, .isolated, .done), (.fence, .retired, .failed),
    (.recover, .online, .done), (.recover, .held, .done), (.recover, .isolated, .done), (.recover, .retired, .failed),
    (.powerOn, .held, .done), (.powerOn, .probation, .done), (.powerOn, .retired, .failed),
    (.powerOff, .off, .done), (.powerOff, .retired, .failed), (.retire, .retired, .done)]

/-- From `s` to `t` the slot has entered `st`, and the outputs `pre` come first. An action in progress that the entry
returns is returned with `st` and with the attempts, or, for POWER_OFF and RETIRE, the last bleed reading; any other stays
in the record and in flight (R145, R148 to R152). -/
def State.arrived (s t : State) (pre : List Output) (i : Slot) (st : SlotState) (attempts reading : Nat) : Prop :=
  ∀ (e : ActEntry) (f : InFlight) (cb : ControlBlock) (k : ActCode), s.holdsEntry i e f cb → e.act = some k →
    (∀ o, (k, st, o) ∈ entryReturns →
      s.returned t pre i e f cb o st (if k = .powerOff ∨ k = .retire then reading else attempts))
    ∧ ((∀ o, (k, st, o) ∉ entryReturns) → (t.slot i).ad = (s.slot i).ad ∧ t.ri.inFlight = s.ri.inFlight)

/-- The slot's record holds entry `e` with `rest` remaining, and every one of them is in flight, at an index of its own;
`cb` is the Control Block. -/
def State.holdsPlan (s : State) (i : Slot) (e : ActEntry) (rest : List ActEntry) (cb : ControlBlock) : Prop :=
  (s.slot i).ad.current = some e ∧ (s.slot i).ad.remaining = rest ∧ s.ri.cb = some cb
    ∧ (e :: rest).Pairwise (fun x y => x.index ≠ y.index)
    ∧ ∀ x ∈ e :: rest, ∃ g ∈ s.ri.inFlight, g.index = x.index

/-- The two writes that return an entry in flight in `s`, with the tick it was taken at (R173). -/
def State.returnOf (s : State) (cb : ControlBlock) (i : Slot) (e : ActEntry) (o : ActOutcome) (st : SlotState)
    (result : Nat) : List Output :=
  ((s.ri.inFlight.find? fun g => decide (g.index = e.index)).toList).flatMap fun f =>
    [.hostWrite (ringAddr cb.actionBase e.index + 16) (returnBody o st result f.taken s.tb.counter),
      .hostWrite (ringAddr cb.actionBase e.index) (toLE 2 (e.controlWord i))]

/-- The in-flight list of `s` without these entries. -/
def State.inFlightBut (s : State) (es : List ActEntry) : List InFlight :=
  s.ri.inFlight.filter fun g => es.all fun e => decide (g.index ≠ e.index)

/-- From `s` to `t` entry `e` has been returned, after the outputs `pre`, and every remaining entry SKIPPED with result 0, in
ring order, and the record is free (R160, R173). With `rest` empty it is the return of the last entry. -/
def State.planEnded (s t : State) (pre : List Output) (i : Slot) (e : ActEntry) (rest : List ActEntry)
    (cb : ControlBlock) (o : ActOutcome) (st : SlotState) (result : Nat) : Prop :=
  s.out ++ pre ++ s.returnOf cb i e o st result ++ rest.flatMap (fun x => s.returnOf cb i x .skipped st 0) <+: t.out
    ∧ t.ri.inFlight = s.inFlightBut (e :: rest)
    ∧ t.ri.causes = { s.ri.causes with actionDone := true }
    ∧ (t.slot i).ad = { occupant := .none, current := none, cardRemoved := false, remaining := [], policyRead := none }

/-- From `s` to `t` the current operation of the engine has ended, and the outputs `pre` come first. The operation at the
head of the queue has taken its place with the values of its slot and asked for its header; with none waiting the engine
is idle (R103, R106). -/
def State.operationEnded (s t : State) (pre : List Output) : Prop :=
  (s.se.queue = [] →
    t.se.current = none ∧ t.se.queue = [] ∧ t.se.step = .idle ∧ t.se.waiting = .nothing)
    ∧ ∀ (op : SeOp) (rest : List SeOp), s.se.queue = op :: rest →
      let p := (s.slot op.slot).pol
      t.se.current = some op ∧ t.se.queue = rest ∧ t.se.step = .readHeader ∧ t.se.mapAddr = p.mapAddr
        ∧ t.se.areaAddr = p.areaAddr ∧ t.se.bus = p.busFirst
        ∧ t.se.waiting = .read ⟨s.readId, s.tb.counter + BitVec.ofNat 32 p.completionDeadline⟩ .header
        ∧ s.out ++ pre ++ [.hostRead .shadowEngine s.readId p.areaAddr 16] <+: t.out

/-- Entry 31 carries an access of the engine that no completion has ended (R16). -/
def SlotRec.engineWaits (r : SlotRec) (kind : ReqKind) : Prop :=
  ∃ d, r.tt.entry engineTag =
    .live { origin := .engine, kind := kind, dwords := 1, bytes := if kind = .configRead then 4 else 0, deadline := d, parts := 0 }

/-- From `s` to `t` the ALONE entry of `a` has been taken and returned in one event, by its two writes, with `st` the
slot's state at the return (R171, R173). -/
def State.answered (s t : State) (i : Slot) (code : BitVec 8) (a : ActionArgs) (cb : ControlBlock) (o : ActOutcome)
    (st : SlotState) (result : Nat) : Prop :=
  s.out ++ returnWrites cb.actionBase i (entryOf a code) o st result s.tb.counter <+: t.out
    ∧ t.ri.inFlight = s.ri.inFlight ∧ t.ri.causes = { s.ri.causes with actionDone := true }

/-- From `s` to `t` the ALONE entry of `a` has been taken now and occupies the slot's record (R145, R171). -/
def State.started (s t : State) (i : Slot) (code : BitVec 8) (a : ActionArgs) : Prop :=
  t.ri.inFlight = s.ri.inFlight ++ [⟨a.index, s.tb.counter⟩] ∧ (t.slot i).ad.occupant = .action
    ∧ (t.slot i).ad.current = some (entryOf a code) ∧ (t.slot i).ad.remaining = [] ∧ (t.slot i).ad.cardRemoved = false

/-- The slot a command is for; none for a command of the whole part. -/
def slotOf : Instr → Option Slot
  | .cardCompletion i _ _ _ => some i
  | .deadlineExpiry i _ _ => some i
  | .heldRequestExpiry i _ => some i
  | .drainTimerExpiry i => some i
  | .probationQuietExpiry i => some i
  | .isolateEnd i => some i
  | .assertEnd i => some i
  | .rampSlow i => some i
  | .settleEnd i => some i
  | .reconnectEnd i => some i
  | .trainingTimeout i => some i
  | .bleedWaitEnd i => some i
  | .linkUp i => some i
  | .linkDown i => some i
  | .cardRequest i _ => some i
  | .fence i _ => some i
  | .recover i _ => some i
  | .powerOn i _ => some i
  | .powerOff i _ => some i
  | .retire i _ => some i
  | .admitSlot i _ => some i
  | .release i _ => some i
  | .snapshot i _ => some i
  | .loadPolicy i _ => some i
  | .loadPolicyReadDone i _ _ => some i
  | .loadPolicyReadDeadline i => some i
  | .readSlot i _ => some i
  | .railSample i _ => some i
  | .unknownActionCode i _ _ => some i
  | _ => none

/-- A plan has no entries left to start. -/
def SlotRec.planDone (r : SlotRec) : Prop := r.ad.remaining = []

/-- A plan is never left between two entries at the end of an event (R160). -/
def SlotRec.planSettled (r : SlotRec) : Prop := r.ad.current = none → r.ad.remaining = []

def State.plansSettled (s : State) : Prop := ∀ i, (s.slot i).planSettled

/-- The score stays below the thresholds of the slot's policy after a rise of `n`: no threshold event is made (R29). -/
def SlotRec.calm (r : SlotRec) (n : Nat) : Prop :=
  ∃ p, r.policy = some p ∧ r.hm.score + n < p.watchT ∧ r.hm.score + n < p.fenceT ∧ r.hm.score + n < p.probT
    ∧ r.hm.score + n ≤ 1023 ∧ r.hm.watched = false

/-- The record after a scoring event of positive weight `n` that crosses no threshold (R29). In PROBATION the increase is
reported, and QUIET mode reloads its count (R34, R58). -/
def SlotRec.scored (r : SlotRec) (n : Nat) : SlotRec :=
  { r with
    hm := { r.hm with score := r.hm.score + n, alert := false }
    cs := { r.cs with
      probCount := if r.cs.state = .probation ∧ r.cs.probMode = .quiet then r.pol.probQuiet else r.cs.probCount } }

/-- What the end of the drain makes of a slot fenced with record `r`, with an isolation lead that is not 0: the NONE path,
the next attempt, or the way to RETIRED (R46). -/
def SlotRec.drained (r q : SlotRec) : Prop :=
  let next := r.cs.kind ≠ .none ∧ r.cs.attempts < r.pol.maxAttempts
  let kind := if r.pol.escalate = true ∧ 1 < r.cs.attempts + 1 then RecKind.cold else r.cs.kind
  (next →
    q.cs =
      { r.cs with
        state := .resetting, drain := none, attempts := r.cs.attempts + 1, kind := kind
        restoreWanted := r.pol.restore }
      ∧ q.pru.sequence = if kind = .warm then .warm else .coldDown)
    ∧ (r.cs.kind ≠ .none → r.pol.maxAttempts ≤ r.cs.attempts →
      q.cs = { r.cs with state := .resetting, drain := none, target := .retired } ∧ q.pru.sequence = .coldDown)
    ∧ (r.cs.kind = .none →
      q.cs = { r.cs with state := .resetting, drain := none } ∧ q.pru.sequence = .isolate)
    ∧ q.pru =
      { r.pru with isoOpen := true, phase := .isolate, timer := some r.pol.isoLead, sequence := q.pru.sequence }

/-- What the end of the drain makes of a slot fenced with record `r`, with an isolation lead of 0: ISOLATE ends in the same
event (R69, R71), and so does ASSERT where it has no hold (R72). The warm path stands in ASSERT, the cold path and the way to
RETIRED in BLEEDING, and the NONE path has entered ISOLATED, where a plan in the record may go on (R160). -/
def SlotRec.drainedNow (r q : SlotRec) : Prop :=
  let next := r.cs.kind ≠ .none ∧ r.cs.attempts < r.pol.maxAttempts
  let kind := if r.pol.escalate = true ∧ 1 < r.cs.attempts + 1 then RecKind.cold else r.cs.kind
  let off :=
    { r.pru with
      isoOpen := true, asserted := true, power := false, bleed := true, rail := .down, rechecks := 0, lastReading := 0
      timer := some r.pol.bleedWait, phase := .bleedWait, rampDue := false, sequence := .coldDown }
  (r.cs.kind = .none → r.planDone) →
    (∀ k, q.tt.entry k = .free) ∧ q.tt.hold = [] ∧ q.ctf = { r.ctf with holdover := none, cls := .cut }
      ∧ (next → kind = .warm → r.pol.resetHold ≠ 0 →
        q.cs =
          { r.cs with
            state := .resetting, drain := none, attempts := r.cs.attempts + 1, kind := .warm
            restoreWanted := r.pol.restore }
          ∧ q.pru =
            { r.pru with
              isoOpen := true, asserted := true, timer := some r.pol.resetHold, phase := .assert, sequence := .warm })
      ∧ (next → kind = .cold →
        q.cs =
          { r.cs with
            state := .bleeding, drain := none, attempts := r.cs.attempts + 1, kind := .cold
            restoreWanted := r.pol.restore }
          ∧ q.pru = off)
      ∧ (r.cs.kind ≠ .none → r.pol.maxAttempts ≤ r.cs.attempts →
        q.cs = { r.cs with state := .bleeding, drain := none, target := .retired } ∧ q.pru = off)
      ∧ (r.cs.kind = .none →
        q.cs =
          { r.cs with
            state := .isolated, drain := none, kind := .none, target := .none, retryPending := false
            restoreWanted := false }
          ∧ q.pru =
            { r.pru with
              isoOpen := true, asserted := true, timer := none, sequence := .idle, phase := .idle, rampDue := false })

/-! ## The order of a write-back (R112) -/

/-- The pass takes the entry: SKIP_ON_RESTORE clear, and RESTORE_LAST clear in FIRST and set in LAST. -/
def Pass.wants (p : Pass) (m : MapEntry) : Prop := m.skip = false ∧ (m.last = true ↔ p = .last)

/-- No entry from `k` on is taken by pass `p`. -/
def passEnds (m : List MapEntry) (p : Pass) (k : Nat) : Prop := ∀ n e, k ≤ n → m[n]? = some e → ¬ p.wants e

/-- The entry `e` at place `n` of pass `q` is the next one taken from place `k` of pass `p` on. -/
def follows (m : List MapEntry) (p : Pass) (k : Nat) (q : Pass) (n : Nat) (e : MapEntry) : Prop :=
  m[n]? = some e ∧ q.wants e
    ∧ (p = q ∧ k ≤ n ∧ (∀ j d, k ≤ j → j < n → m[j]? = some d → ¬ p.wants d)
      ∨ p = .first ∧ q = .last ∧ passEnds m .first k ∧ ∀ j d, j < n → m[j]? = some d → ¬ q.wants d)

/-- Neither pass takes an entry from place `k` of pass `p` on. -/
def nothingFollows (m : List MapEntry) (p : Pass) (k : Nat) : Prop :=
  passEnds m p k ∧ (p = .first → passEnds m .last 0)

/-! ## Rows -/

/-- The row of the table that an event taken ahead of a tick's samples is. -/
def rowOf : DueEvent → Instr
  | .deadline i k f => .deadlineExpiry i k f
  | .held i q => .heldRequestExpiry i q
  | .drain i => .drainTimerExpiry i
  | .quiet i => .probationQuietExpiry i
  | .isolate i => .isolateEnd i
  | .assert i => .assertEnd i
  | .rampSlow i => .rampSlow i
  | .settle i => .settleEnd i
  | .reconnect i => .reconnectEnd i
  | .training i => .trainingTimeout i
  | .bleedWait i => .bleedWaitEnd i
  | .settling => .settlingConversionEnd
  | .measuring v => .measuringConversionEnd v
  | .sense p => .senseSample p
  | .shadowRead => .shadowReadDeadline
  | .loadPolicyRead i => .loadPolicyReadDeadline i
  | .riRead => .riReadDeadline
  | .scanTimer => .scanTimerExpiry

/-- The row of the action that a code names (R144); a code that names none is UNKNOWN_ACTION_CODE (R146). -/
def actionRow (i : Slot) (code : BitVec 8) (a : ActionArgs) : Instr :=
  match code.toNat with
  | 1 => .fence i a
  | 2 => .recover i a
  | 3 => .powerOn i a
  | 4 => .powerOff i a
  | 5 => .retire i a
  | 6 => .admitSlot i a
  | 7 => .release i a
  | 8 => .snapshot i a
  | 9 => .loadPolicy i a
  | 10 => .readSlot i a
  | 11 => .railSample i a
  | _ => .unknownActionCode i code a

end Sys2Proof.Machine
end

