-- ==== Sys2Proof/Certificates/Slice0/Obligations.lean ====
section
/-! DEFINITION. The statements for the provers. -/

open Sys2Proof Sys2Proof.Machine

/-! ## Every command -/

/-- The front command acts on the state with the queue's rest; with an empty queue the part idles (log 25, the model's
choice). -/
def Obligations.StepRunsTheFrontCommand : Prop :=
  (∀ (c : Instr) (s : State) (rest : List Instr),
      step { s with pending := c :: rest } = exec c { s with pending := rest })
    ∧ ∀ s : State, s.pending = [] → step s = .next s

/-- Every command has a next state in every state; it leaves the queue alone, and what has been handed over stays
handed over (log 3). The log of outputs, the log of output changes and the read identities are the model's own (logs 3,
4, 36); that a command not due has no effect is log 5. -/
def Obligations.EveryCommandAnswersNext : Prop :=
  ∀ (c : Instr) (s : State), ∃ t, exec c s = .next t ∧ t.pending = s.pending ∧ s.out <+: t.out ∧ s.signals <+: t.signals
    ∧ s.readId ≤ t.readId

/-- The frame of the commands for one slot: the other slots, the timebase, the sample timer and, of the interface, all
but the in-flight list, the causes and the summary are unchanged, and every output that changes is the slot's (log 36).
-/
def Obligations.SlotCommandsActOnTheirSlotAlone : Prop :=
  ∀ (c : Instr) (i : Slot) (s t : State), slotOf c = some i → exec c s = .next t →
    (∀ j, j ≠ i → t.slot j = s.slot j) ∧ t.tb = s.tb ∧ t.sampleTimer = s.sampleTimer
      ∧ t.senseInterval = s.senseInterval
      ∧ (∃ cs, t.signals = s.signals ++ cs ∧ ∀ x ∈ cs, x.slot = i)
      ∧ { t.ri with inFlight := s.ri.inFlight, causes := s.ri.causes, summary := s.ri.summary } = s.ri

/-! ## Resets and the tick -/

/-- The values after power-on reset. rampDue (log 5) and the idle work of the interface are the model's own fields; the
engine's fields without a meaning (log 16) are not stated. -/
def Obligations.PowerOnResetValues : Prop :=
  ∀ s : State, ∃ t, exec .powerOnReset s = .next t
    ∧ (∀ i, (t.slot i).policy = none
      ∧ (∀ k, (t.slot i).tt.entry k = .free) ∧ (t.slot i).tt.hold = [] ∧ (t.slot i).tt.discard = 0
      ∧ (t.slot i).hm = { score := 0, watched := false, alert := false, firstExpiry := false }
      ∧ (t.slot i).cs =
        { state := .empty, attempts := 0, kind := .none, target := .none, retryPending := false
          restoreWanted := false, probMode := .quiet, probCount := 0, trigger := .none, drain := none }
      ∧ (t.slot i).pru =
        { isoOpen := true, asserted := true, power := false, bleed := false, sequence := .idle, phase := .idle
          timer := none, rampCount := 0, rampDue := false, rechecks := 0, lastReading := 0, rail := .down }
      ∧ (t.slot i).ctf = { holdover := none, dmaReported := false, cls := .cut }
      ∧ (t.slot i).sense =
        { presAcc := false, presPrev := false, attnAcc := false, attnPrev := false, width := 0, longMade := false
          pgAcc := false, pgPrev := false }
      ∧ (t.slot i).ad =
        { occupant := .none, current := none, cardRemoved := false, remaining := [], policyRead := none }
      ∧ t.rm.req i = { state := .none, bleed := false, sample := false })
    ∧ t.tb = { prescale := 64, divider := 31, counter := 0 } ∧ t.sampleTimer = 49 ∧ t.senseInterval = 49
    ∧ t.rm.activity = .idle ∧ t.rm.inService = none ∧ t.rm.timer = 0 ∧ t.rm.channel = none ∧ t.rm.lastServed = 7
    ∧ t.se.queue = [] ∧ t.se.current = none ∧ t.se.step = .idle ∧ t.se.waiting = .nothing
    ∧ t.ri =
      { state := .stopped, initValid := false, initFault := .none, initRejected := 0, cb := none, actionPtr := 0
        incidentPtr := 0, inFlight := [], scanTimer := none, scanRequested := false
        causes :=
          { actionDone := false, incident := false, initDone := false, initError := false, memError := false
            badCommand := false }
        summary := false, kcbl := 0, kcbh := 0, work := .idle }
    ∧ t.iq = []

/-- A host-port reset, whatever the order of the slots: each slot it moves goes to ISOLATED, isolation OPEN before reset
ASSERTED, and ISOLATED is raised for it with trigger HOST_PORT_RESET. The order of the slots is free (log 8), that the
incident carries attempts 0 is log 22, and the list of output changes is the model's own (log 36). -/
def Obligations.HostPortResetBySlotState : Prop :=
  ∀ (o : List Slot) (s : State), ∃ t, exec (.hostPortReset o) s = .next t
    ∧ (∀ i, (t.slot i).cs.attempts = 0 ∧ (t.slot i).hm.score = 0 ∧ (t.slot i).hm.watched = false
      ∧ (t.slot i).hm.alert = false ∧ (t.slot i).hm.firstExpiry = (s.slot i).hm.firstExpiry
      ∧ (t.slot i).tt.hold = [] ∧ (t.slot i).tt.discard = (s.slot i).tt.discard
      ∧ (t.slot i).ctf.holdover = none ∧ (t.slot i).ctf.dmaReported = (s.slot i).ctf.dmaReported
      ∧ (t.slot i).policy = (s.slot i).policy ∧ (t.slot i).sense = (s.slot i).sense
      ∧ (t.slot i).cs.probMode = (s.slot i).cs.probMode
      ∧ (t.slot i).ad.current = none ∧ (t.slot i).ad.remaining = [] ∧ (t.slot i).ad.occupant = .none
      ∧ (t.slot i).pru.power = (s.slot i).pru.power ∧ (t.slot i).pru.bleed = (s.slot i).pru.bleed
      ∧ (t.slot i).pru.rail = (s.slot i).pru.rail ∧ (t.rm.req i).sample = false
      ∧ ((s.slot i).cs.state.movedByReset = true →
        (t.slot i).cs.state = .isolated ∧ (t.slot i).cs.trigger = .hostPortReset ∧ (t.slot i).cs.kind = .none
          ∧ (t.slot i).cs.target = .none ∧ (t.slot i).cs.retryPending = false
          ∧ (t.slot i).cs.restoreWanted = false ∧ (t.slot i).cs.drain = none
          ∧ (t.slot i).pru.isoOpen = true ∧ (t.slot i).pru.asserted = true ∧ (t.slot i).pru.sequence = .idle
          ∧ (t.slot i).pru.phase = .idle ∧ (t.slot i).pru.timer = none ∧ (t.slot i).ctf.cls = .cut
          ∧ (∀ k, (t.slot i).tt.entry k = .free)
          ∧ (queuedFor i s.iq ≤ 3 →
            ∃ x ∈ t.iq, x.slot = i ∧ x.kind = .isolated ∧ x.trigger = .hostPortReset ∧ x.state = .isolated
              ∧ x.attempts = 0 ∧ x.countA = (s.slot i).tt.discard))
      ∧ ((s.slot i).cs.state.movedByReset = false →
        (t.slot i).cs.state = (s.slot i).cs.state ∧ (t.slot i).cs.trigger = (s.slot i).cs.trigger
          ∧ (t.slot i).pru = (s.slot i).pru ∧ ∀ k, (t.slot i).tt.entry k = ((s.slot i).tt.entry k).toStale)
      ∧ ((s.slot i).cs.state = .bleeding → (t.slot i).cs.target = .off ∧ (t.slot i).cs.retryPending = false))
    ∧ (∃ cs, t.signals = s.signals ++ cs
      ∧ ∀ i, (s.slot i).cs.state.movedByReset = true → (s.slot i).pru.up →
        cs.filter (fun x => decide (x.slot = i)) = [⟨i, .isolation, true⟩, ⟨i, .reset, true⟩])
    ∧ t.out = s.out ∧ t.tb = s.tb ∧ t.sampleTimer = s.sampleTimer ∧ t.senseInterval = s.senseInterval
    ∧ t.rm.activity = s.rm.activity ∧ t.rm.inService = s.rm.inService ∧ t.rm.timer = s.rm.timer
    ∧ t.rm.channel = s.rm.channel ∧ t.rm.lastServed = s.rm.lastServed
    ∧ t.se.queue = [] ∧ t.se.current = none ∧ t.se.step = .idle ∧ t.se.waiting = .nothing
    ∧ t.ri =
      { s.ri with
        state := .stopped, work := .idle, inFlight := [], initValid := false, scanRequested := false
        scanTimer := none, summary := false
        causes :=
          { actionDone := false, incident := false, initDone := false, initError := false, memError := false
            badCommand := false } }
    ∧ ((∀ i, queuedFor i s.iq < 4) → s.iq <+: t.iq)

/-- A tick at which no power-good level is accepted and no event is taken ahead of the samples: every running timer and
count steps by one, a ramp count at the ramp maximum is found there, and nothing else changes but the previous
power-good levels. An event taken ahead of the samples of a tick that brings no new level acts as its own command does
after the tick (log 7). The tick steps the counters and each expiry is a command of its own, and `rampDue` is the
model's own field for the ramp maximum found reached (log 5). -/
def Obligations.TickStepsTheCounters : Prop :=
  (∀ (p : TickPins) (s : State), s.summaryInLine →
    (∀ i : Slot, accepts (p.powerGood.getLsbD i.val) (s.slot i).sense.pgPrev (s.slot i).sense.pgAcc = false) →
    ∃ t, exec (.tick p []) s = .next t
      ∧ t.tb = { s.tb with counter := s.tb.counter + 1 } ∧ t.sampleTimer = s.sampleTimer - 1
      ∧ t.rm = { s.rm with timer := s.rm.timer - 1 } ∧ t.se = s.se ∧ t.iq = s.iq ∧ t.out = s.out
      ∧ t.senseInterval = s.senseInterval ∧ t.signals = s.signals
      ∧ t.ri =
        { s.ri with
          scanTimer := if s.ri.state = .running then s.ri.scanTimer.map fun n => n - 1 else s.ri.scanTimer }
      ∧ ∀ i, (t.slot i).policy = (s.slot i).policy ∧ (t.slot i).tt = (s.slot i).tt ∧ (t.slot i).hm = (s.slot i).hm
        ∧ (t.slot i).ctf = (s.slot i).ctf ∧ (t.slot i).ad = (s.slot i).ad
        ∧ (t.slot i).sense = { (s.slot i).sense with pgPrev := p.powerGood.getLsbD i.val }
        ∧ (t.slot i).cs =
          { (s.slot i).cs with
            drain := (s.slot i).cs.drain.map fun n => n - 1
            probCount :=
              if (s.slot i).cs.state = .probation ∧ (s.slot i).cs.probMode = .quiet then (s.slot i).cs.probCount - 1
              else (s.slot i).cs.probCount }
        ∧ (t.slot i).pru =
          { (s.slot i).pru with
            rampDue :=
              (s.slot i).pru.rampDue
                || decide ((s.slot i).pru.phase = .ramp
                  ∧ (s.slot i).pol.rampMax ≤ min 65535 ((s.slot i).pru.rampCount + 1))
            timer := (s.slot i).pru.timer.map fun n => n - 1
            rampCount :=
              if (s.slot i).pru.phase = .ramp then min 65535 ((s.slot i).pru.rampCount + 1)
              else (s.slot i).pru.rampCount })
    ∧ ∀ (p : TickPins) (early : List DueEvent) (e : DueEvent) (s : State), s.summaryInLine →
      (∀ i : Slot, p.powerGood.getLsbD i.val = (s.slot i).sense.pgPrev
        ∧ accepts (p.powerGood.getLsbD i.val) (s.slot i).sense.pgPrev (s.slot i).sense.pgAcc = false) →
      ∃ u t, exec (.tick p early) s = .next u ∧ exec (rowOf e) u = .next t ∧ exec (.tick p (early ++ [e])) s = .next t

/-- Power-good is accepted present in RAMP, at a tick with no event ahead of the samples. The count is taken before the
acceptance or after it, as `acceptFirst` says (log 7): at the ramp maximum the count taken first is RAMP_SLOW; otherwise
the ramp minimum judges the count as it then stands, SETTLE at or above it and RAMP_FAST below. A ramp fault raises
RAIL_FAULT with its kind and the count, and fails the attempt. -/
def Obligations.AcceptedPowerGoodEndsTheRamp : Prop :=
  ∀ (p : TickPins) (s : State) (i : Slot), let r := s.slot i; let n := r.pru.rampCount + 1
    let first := p.acceptFirst.getLsbD i.val
    let judged := if first then r.pru.rampCount else n
    r.pru.phase = .ramp → r.pru.rail = .unproven → r.pru.rampDue = false → n ≤ 65535 →
    p.powerGood.getLsbD i.val = true → r.sense.pgPrev = true → r.sense.pgAcc = false →
    ∃ t, exec (.tick p []) s = .next t ∧ (t.slot i).sense.pgAcc = true ∧ (t.slot i).pru.rampCount = judged
      ∧ (first = true ∨ n < r.pol.rampMax → r.pol.rampMin ≤ judged →
        (t.slot i).cs.state = r.cs.state ∧ (t.slot i).pru.rail = .good ∧ (t.slot i).pru.phase = .settle
          ∧ (t.slot i).pru.timer = some r.pol.settle ∧ (t.slot i).pru.power = r.pru.power
          ∧ (t.slot i).pru.asserted = r.pru.asserted ∧ (t.slot i).pru.isoOpen = r.pru.isoOpen)
      ∧ ∀ f : RailFault,
        (f = .rampFast ∧ (first = true ∨ n < r.pol.rampMax) ∧ judged < r.pol.rampMin
          ∨ f = .rampSlow ∧ first = false ∧ r.pol.rampMax ≤ n) →
        (t.slot i).cs.state = .bleeding ∧ (t.slot i).cs.kind = .cold ∧ (t.slot i).pru.dark
          ∧ (t.slot i).pru.bleed = true ∧ (t.slot i).pru.rail = .down
          ∧ (if r.pol.maxAttempts ≤ r.cs.attempts then (t.slot i).cs.target = .retired
            else (t.slot i).cs.target = .none ∧ (t.slot i).cs.retryPending = true)
          ∧ (queuedFor i s.iq ≤ 2 →
            (∃ x ∈ t.iq, x.slot = i ∧ x.kind = .railFault ∧ x.countA = judged ∧ x.countB = 0
                ∧ x.detail = if f = .rampFast then 1 else 2)
              ∧ ∃ x ∈ t.iq, x.slot = i ∧ x.kind = .recoveryFailed ∧ x.countB = r.cs.state.code)

/-- Power-good lost from a GOOD rail, by slot state: POWER_LOST, and power off with isolation OPEN before reset ASSERTED
before power OFF before bleed ON (the list of output changes is the model's own, log 36). -/
def Obligations.PowerGoodLostByState : Prop :=
  ∀ (p : TickPins) (s : State) (i : Slot), let r := s.slot i
    r.pru.rail = .good → r.pru.phase ≠ .ramp →
    p.powerGood.getLsbD i.val = false → r.sense.pgPrev = false → r.sense.pgAcc = true →
    ∃ t, exec (.tick p []) s = .next t ∧ (t.slot i).sense.pgAcc = false
      ∧ (r.cs.state ≠ .empty → r.cs.state ≠ .off → r.cs.state ≠ .bleeding → r.cs.state ≠ .retired →
        (t.slot i).cs.state = .bleeding ∧ (t.slot i).cs.trigger = .powerLost ∧ (t.slot i).pru.dark
          ∧ (t.slot i).pru.bleed = true ∧ (t.slot i).pru.phase = .bleedWait
          ∧ (t.slot i).pru.timer = some r.pol.bleedWait ∧ (t.slot i).ctf.cls = .cut
          ∧ (∀ k, (t.slot i).tt.entry k = .free) ∧ (t.slot i).tt.hold = []
          ∧ (t.slot i).cs.attempts = r.cs.attempts
          ∧ (r.pru.up → ∃ pre, s.signals ++ pre ++ powerOffSignals i <+: t.signals)
          ∧ (queuedFor i s.iq ≤ 2 → ∃ x ∈ t.iq, x.slot = i ∧ x.kind = .powerLost ∧ x.state = r.cs.state))
      ∧ (r.cs.state = .online ∨ r.cs.state = .held →
        (t.slot i).cs.target = .retired ∧ (t.slot i).cs.retryPending = false ∧ (t.slot i).tt.discard = 0)
      ∧ (r.cs.state = .isolated → (t.slot i).cs.target = .off ∧ (t.slot i).cs.retryPending = false)
      ∧ (r.cs.state.recovery = true ∧ r.cs.state ≠ .bleeding ∨ r.cs.state = .probation →
        (t.slot i).cs.kind = .cold ∧ (t.slot i).cs.drain = none
          ∧ if r.pol.maxAttempts ≤ r.cs.attempts then (t.slot i).cs.target = .retired
            else (t.slot i).cs.target = .none ∧ (t.slot i).cs.retryPending = true)
      ∧ (r.cs.state = .empty ∨ r.cs.state = .off ∨ r.cs.state = .bleeding ∨ r.cs.state = .retired →
        (t.slot i).cs.state = r.cs.state)

/-! ## Host requests -/

/-- Routing finds a slot exactly when that slot's loaded policy routes the request: no request belongs to two slots. -/
def Obligations.RequestBelongsToAtMostOneSlot : Prop :=
  ∀ (s : State) (r : HostRequest) (i : Slot), s.policiesSound → r.wf = true →
    (s.route r = some i ↔ ∃ p, (s.slot i).policy = some p ∧ p.routes r = true)

/-- A request that is tracked takes the lowest-numbered FREE host tag, while LIVE host entries are fewer than the limit
in force and nothing is held. Otherwise it waits at the tail of the Hold Queue, and with 8 requests there it is
answered Unsupported. The request is kept with what it is sent down as (log 2). -/
def Obligations.TrackedRequestTakesATagOrWaits : Prop :=
  (∀ (s : State) (q : Tracked) (i : Slot) (k : Tag), let r := s.slot i
      s.route (.nonPosted q) = some i →
      (r.cs.state = .online ∨ r.cs.state = .probation ∨ r.cs.state = .held ∧ q.op.kind ≠ .memoryRead) →
      r.tt.hold = [] →
      r.tt.liveHost < (if r.cs.state = .probation ∨ r.hm.watched = true then r.pol.probLimit else r.pol.outLimit) →
      k ≠ engineTag → r.tt.entry k = .free → (∀ l, l < k → r.tt.entry l ≠ .free) →
      exec (.hostRequest (.nonPosted q)) s = .next
        { s.setSlot i
            { r with
              tt := r.tt.setEntry k
                (.live
                  { origin := .host q.req, kind := q.op.kind, dwords := q.op.dwords, bytes := q.op.bytes
                    deadline := s.tb.counter + BitVec.ofNat 32 r.pol.completionDeadline, parts := 0 }) } with
          out := s.out ++ [.sendDown i k q.op] })
    ∧ ∀ (s : State) (q : Tracked) (i : Slot), let r := s.slot i
      s.route (.nonPosted q) = some i →
      (r.cs.state = .online ∨ r.cs.state = .probation ∨ r.cs.state = .held ∧ q.op.kind ≠ .memoryRead) →
      (r.tt.hold ≠ []
        ∨ (if r.cs.state = .probation ∨ r.hm.watched = true then r.pol.probLimit else r.pol.outLimit) ≤ r.tt.liveHost
        ∨ ∀ k, k ≠ engineTag → r.tt.entry k ≠ .free) →
      (r.tt.hold.length < 8 →
        exec (.hostRequest (.nonPosted q)) s = .next
          (s.setSlot i
            { r with
              tt := { r.tt with
                hold := r.tt.hold ++ [⟨q, s.tb.counter + BitVec.ofNat 32 r.pol.completionDeadline⟩] } }))
      ∧ (8 ≤ r.tt.hold.length →
        exec (.hostRequest (.nonPosted q)) s = .next
          { s with out := s.out ++ [.completion q.req { status := .unsupported, data := [], remaining := 0 }] })

/-- Requests that are answered, forwarded, dropped or belong to no slot, by slot state. -/
def Obligations.RequestsAnsweredByState : Prop :=
  ∀ (s : State),
    (∀ (q : Tracked) (i : Slot), s.route (.nonPosted q) = some i →
      ((s.slot i).cs.state = .fenced →
        exec (.hostRequest (.nonPosted q)) s = .next
          { s with out := s.out ++ [.completion q.req { status := .aborted, data := [], remaining := 0 }] })
      ∧ ((s.slot i).cs.state.tracks = false ∧ (s.slot i).cs.state ≠ .fenced
          ∨ (s.slot i).cs.state = .held ∧ q.op.kind = .memoryRead →
        exec (.hostRequest (.nonPosted q)) s = .next
          { s with out := s.out ++ [.completion q.req { status := .unsupported, data := [], remaining := 0 }] }))
    ∧ (∀ (p : Posted) (i : Slot), s.route (.posted p) = some i →
      ((s.slot i).cs.state = .online ∨ (s.slot i).cs.state = .probation →
        exec (.hostRequest (.posted p)) s = .next { s with out := s.out ++ [.postDown i p] })
      ∧ ((s.slot i).cs.state ≠ .online → (s.slot i).cs.state ≠ .probation →
        exec (.hostRequest (.posted p)) s = .next
          (s.setSlot i
            { s.slot i with
              tt := { (s.slot i).tt with discard := min 65535 ((s.slot i).tt.discard + 1) } })))
    ∧ (∀ q : Tracked, s.route (.nonPosted q) = none →
      exec (.hostRequest (.nonPosted q)) s = .next
        { s with out := s.out ++ [.completion q.req { status := .unsupported, data := [], remaining := 0 }] })
    ∧ ∀ p : Posted, s.route (.posted p) = none → exec (.hostRequest (.posted p)) s = .next s

/-! ## Completions from the card -/

/-- A part of a memory read that does not end it goes up unchanged, and the entry stays LIVE. The final completion goes
up unchanged and frees the tag; Success lowers the score by 1, another status raises it by 1. In PROBATION a Success
counts in TRAFFIC mode and ends probation at the target, and another status reloads the QUIET count. -/
def Obligations.CompletionsOfALiveRequestGoUp : Prop :=
  (∀ (s : State) (i : Slot) (k : Tag) (f : OrtFields) (q : Requester) (c : CardCpl) (b : Bool), let r := s.slot i
      s.summaryInLine → r.planSettled → r.tt.entry k = .live f → f.origin = .host q → f.kind = .memoryRead →
      c.status = .success → c.remaining ≠ 0 → c.data.length ≤ f.bytes → f.parts < f.dwords →
      exec (.cardCompletion i k.val c b) s = .next
        { s.setSlot i
            { r with
              tt := r.tt.setEntry k (.live { f with bytes := f.bytes - c.data.length, parts := f.parts + 1 }) } with
          out := s.out ++ [.completion q c] })
    ∧ ∀ (s : State) (i : Slot) (k : Tag) (f : OrtFields) (q : Requester) (c : CardCpl) (b : Bool) (p : Policy),
      let r := s.slot i
      let calmed : HmRec :=
        { r.hm with
          score := r.hm.score - 1, watched := decide (p.watchT ≤ r.hm.score - 1)
          alert := r.hm.alert && decide (p.fenceT ≤ r.hm.score - 1) }
      let counted := min 65535 (r.cs.probCount + 1)
      s.summaryInLine → s.watchFollows → r.planSettled → r.tt.hold = [] →
      r.policy = some p → r.tt.entry k = .live f → f.origin = .host q → c.data.length ≤ f.bytes →
      (f.kind = .memoryRead → c.status = .success → c.remaining = 0) →
      (c.status = .success → r.cs.state ≠ .probation ∨ r.cs.probMode = .quiet →
        exec (.cardCompletion i k.val c b) s = .next
          { s.setSlot i { r with tt := r.tt.setEntry k .free, hm := calmed } with out := s.out ++ [.completion q c] })
      ∧ (c.status = .success → r.cs.state = .probation → r.cs.probMode = .traffic → counted < p.probTraffic →
        exec (.cardCompletion i k.val c b) s = .next
          { s.setSlot i
              { r with tt := r.tt.setEntry k .free, hm := calmed, cs := { r.cs with probCount := counted } } with
            out := s.out ++ [.completion q c] })
      ∧ (c.status = .success → r.cs.state = .probation → r.cs.probMode = .traffic → p.probTraffic ≤ counted →
        r.planDone →
        ∃ t, exec (.cardCompletion i k.val c b) s = .next t
          ∧ (t.slot i).cs = { r.cs with state := .online, attempts := 0, kind := .none, probCount := 0 }
          ∧ (t.slot i).hm = { score := 0, watched := false, alert := false, firstExpiry := false }
          ∧ (t.slot i).ctf = { r.ctf with cls := .opened } ∧ (t.slot i).tt = r.tt.setEntry k .free
          ∧ (t.slot i).pru = r.pru ∧ s.out ++ [.completion q c] <+: t.out
          ∧ (queuedFor i s.iq ≤ 3 →
            ∃ x ∈ t.iq, x.slot = i ∧ x.kind = .recovered ∧ x.state = .online ∧ x.score = 0
              ∧ x.attempts = r.cs.attempts ∧ x.trigger = r.cs.trigger ∧ x.countA = r.tt.discard))
      ∧ (c.status ≠ .success → r.calm 1 →
        exec (.cardCompletion i k.val c b) s = .next
          { s.setSlot i ({ r with tt := r.tt.setEntry k .free }.scored 1) with out := s.out ++ [.completion q c] })

/-- A malformed completion is discarded: the host gets one Aborted completion, the tag is FREE, and the score rises by
8. A late one frees its STALE tag and an unexpected one changes no tag; each is discarded and raises the score by 1, and
the late one that frees the last STALE tag of a FENCED slot ends its drain, and with an isolation lead of 0 ISOLATE too.
The queue is empty, so the order of promotion and score is not seen (log 10). -/
def Obligations.MalformedLateAndUnexpectedCompletionsAreDiscarded : Prop :=
  (∀ (s : State) (i : Slot) (k : Tag) (f : OrtFields) (q : Requester) (c : CardCpl) (b : Bool), let r := s.slot i
      s.summaryInLine → r.planSettled → r.tt.hold = [] → r.calm 8 →
      r.tt.entry k = .live f → f.origin = .host q →
      (f.bytes < c.data.length
        ∨ f.kind = .memoryRead ∧ c.status = .success ∧ c.remaining ≠ 0 ∧ f.dwords ≤ f.parts) →
      exec (.cardCompletion i k.val c b) s = .next
        { s.setSlot i ({ r with tt := r.tt.setEntry k .free }.scored 8) with
          out := s.out ++ [.completion q { status := .aborted, data := [], remaining := 0 }] })
    ∧ ∀ (s : State) (i : Slot) (c : CardCpl) (b : Bool), let r := s.slot i
      s.summaryInLine → r.planSettled → r.tt.hold = [] → r.calm 1 →
      (∀ (k : Tag) (f : OrtFields), r.tt.entry k = .stale f → r.cs.state ≠ .fenced →
        exec (.cardCompletion i k.val c b) s = .next
          (s.setSlot i ({ r with tt := r.tt.setEntry k .free }.scored 1)))
      ∧ (∀ (k l : Tag) (f g : OrtFields), r.tt.entry k = .stale f → r.tt.entry l = .stale g → k ≠ l →
        r.cs.state = .fenced →
        exec (.cardCompletion i k.val c b) s = .next
          (s.setSlot i ({ r with tt := r.tt.setEntry k .free }.scored 1)))
      ∧ (∀ (k : Tag) (f : OrtFields), r.tt.entry k = .stale f → (∀ l, l ≠ k → (r.tt.entry l).isStale = false) →
        r.cs.state = .fenced → r.pol.isoLead ≠ 0 →
        ∃ t, exec (.cardCompletion i k.val c b) s = .next t ∧ r.drained (t.slot i)
          ∧ (t.slot i).tt = r.tt.setEntry k .free ∧ (t.slot i).hm = (r.scored 1).hm
          ∧ (t.slot i).ctf = { r.ctf with cls := .cut } ∧ t.out = s.out ∧ t.iq = s.iq)
      ∧ (∀ (k : Tag) (f : OrtFields), r.tt.entry k = .stale f → (∀ l, l ≠ k → (r.tt.entry l).isStale = false) →
        r.cs.state = .fenced → r.pol.isoLead = 0 →
        ∃ t, exec (.cardCompletion i k.val c b) s = .next t ∧ r.drainedNow (t.slot i)
          ∧ (t.slot i).hm = (r.scored 1).hm ∧ s.out ++ r.tt.abortLive <+: t.out)
      ∧ (∀ k : Tag, r.tt.entry k = .free →
        exec (.cardCompletion i k.val c b) s = .next (s.setSlot i (r.scored 1)))
      ∧ ∀ k : Nat, 32 ≤ k → exec (.cardCompletion i k c b) s = .next (s.setSlot i (r.scored 1))

/-! ## Deadlines -/

/-- A LIVE host entry whose deadline is reached: one Aborted completion, the entry STALE on its tag, the score up by 8,
and DEADLINE_EXPIRED for the first expiry of the stay; in PROBATION the QUIET count is reloaded. That a deadline is
reached when the counter took its value less than 2^31 ticks ago is the model's reading (log 6). -/
def Obligations.DeadlineExpiryMakesTheTagStale : Prop :=
  ∀ (s : State) (i : Slot) (k : Tag) (f : OrtFields) (q : Requester) (b : Bool), let r := s.slot i
    s.summaryInLine → r.planSettled → r.tt.hold = [] → r.calm 8 →
    r.tt.entry k = .live f → f.origin = .host q → (s.tb.counter - f.deadline).toNat < 2 ^ 31 →
    exec (.deadlineExpiry i k b) s = .next
      { s.setSlot i
          { r.scored 8 with
            tt := r.tt.setEntry k (.stale f)
            hm := { r.hm with score := r.hm.score + 8, alert := false, firstExpiry := true } } with
        out := s.out ++ [.completion q { status := .aborted, data := [], remaining := 0 }]
        iq :=
          if r.hm.firstExpiry then s.iq
          else
            iwTake
              { slot := i, kind := .deadlineExpired, state := r.cs.state, timestamp := s.tb.counter
                score := r.hm.score + 8, attempts := r.cs.attempts, trigger := r.cs.trigger, mergedCount := 0
                merged := 0, countA := k.val, countB := f.kind.code, detail := 0 }
              s.iq }

/-- A held request whose deadline is reached leaves the Hold Queue and is answered Aborted; the others keep their order
and nothing is scored. That a deadline is reached when the counter took its value less than 2^31 ticks ago is the
model's reading (log 6). -/
def Obligations.HeldRequestExpiryAnswersAborted : Prop :=
  ∀ (s : State) (i : Slot) (h : Held) (before after : List Held), let r := s.slot i
    r.tt.hold = before ++ h :: after → (∀ g ∈ before, g.request.req ≠ h.request.req) →
    (s.tb.counter - h.deadline).toNat < 2 ^ 31 →
    exec (.heldRequestExpiry i h.request.req) s = .next
      { s.setSlot i { r with tt := { r.tt with hold := before ++ after } } with
        out := s.out ++ [.completion h.request.req { status := .aborted, data := [], remaining := 0 }] }

/-! ## Health -/

/-- A card error message scores by its severity outside CUT; a fatal one raises CARD_FATAL ahead of its score, and with
FATAL_FENCE set it is not scored and fences the slot in ONLINE, HELD and PROBATION. In CUT it has no effect. -/
def Obligations.CardErrorsAreScoredBySeverity : Prop :=
  ∀ (s : State) (i : Slot), let r := s.slot i
    s.summaryInLine → r.planSettled → r.tt.hold = [] →
    (r.ctf.cls = .cut → ∀ v, exec (.cardRequest i (.error v)) s = .next s)
    ∧ (r.ctf.cls ≠ .cut →
      (r.calm 1 → exec (.cardRequest i (.error .correctable)) s = .next (s.setSlot i (r.scored 1)))
      ∧ (r.calm 8 → exec (.cardRequest i (.error .nonfatal)) s = .next (s.setSlot i (r.scored 8)))
      ∧ (r.calm 8 → r.pol.fatalFence = false →
        exec (.cardRequest i (.error .fatal)) s = .next
          { s.setSlot i (r.scored 8) with
            iq := iwTake
              { slot := i, kind := .cardFatal, state := r.cs.state, timestamp := s.tb.counter
                score := r.hm.score + 8, attempts := r.cs.attempts, trigger := r.cs.trigger, mergedCount := 0
                merged := 0, countA := 0, countB := 0, detail := 0 }
              s.iq })
      ∧ (r.pol.fatalFence = true → r.cs.state = .training ∨ r.cs.state = .restoring →
        exec (.cardRequest i (.error .fatal)) s = .next
          { s with
            iq := iwTake
              { slot := i, kind := .cardFatal, state := r.cs.state, timestamp := s.tb.counter, score := r.hm.score
                attempts := r.cs.attempts, trigger := r.cs.trigger, mergedCount := 0, merged := 0, countA := 1
                countB := 0, detail := 0 }
              s.iq })
      ∧ (r.pol.fatalFence = true → r.cs.state = .online ∨ r.cs.state = .held ∨ r.cs.state = .probation →
        r.pol.drain ≠ 0 → (∃ k, r.tt.entry k ≠ .free) →
        ∃ t, exec (.cardRequest i (.error .fatal)) s = .next t
          ∧ (t.slot i).cs =
            { r.cs with
              state := .fenced, trigger := .cardFatal, target := .none, retryPending := false
              drain := some r.pol.drain, kind := if r.cs.state = .probation then .cold else r.pol.autoKind }
          ∧ (t.slot i).hm = r.hm ∧ (t.slot i).ctf = { r.ctf with cls := .cut } ∧ (t.slot i).tt.discard = 0
          ∧ (∀ k, (t.slot i).tt.entry k = (r.tt.entry k).toStale)
          ∧ (queuedFor i s.iq ≤ 1 →
            (∃ x ∈ t.iq, x.slot = i ∧ x.kind = .cardFatal ∧ x.state = r.cs.state ∧ x.score = r.hm.score ∧ x.countA = 1)
              ∧ (∃ x ∈ t.iq, x.slot = i ∧ x.kind = .contained ∧ x.trigger = .cardFatal)
              ∧ (r.cs.state = .probation →
                ∃ x ∈ t.iq, x.slot = i ∧ x.kind = .recoveryFailed ∧ x.countB = 6 ∧ x.detail = 7)))
      ∧ (r.pol.fatalFence = true → r.cs.state = .online ∨ r.cs.state = .held ∨ r.cs.state = .probation →
        r.pol.drain = 0 ∨ (∀ k, r.tt.entry k = .free) →
        let f : SlotRec := { r with
          cs := { r.cs with
            trigger := .cardFatal, target := .none, retryPending := false
            kind := if r.cs.state = .probation then .cold else r.pol.autoKind } }
        ∃ t, exec (.cardRequest i (.error .fatal)) s = .next t ∧ (t.slot i).hm = r.hm
          ∧ (r.pol.isoLead ≠ 0 → f.drained (t.slot i)) ∧ (r.pol.isoLead = 0 → f.drainedNow (t.slot i))))

/-- A score that crosses the fence threshold in ONLINE or HELD: a fence with trigger SCORE when AUTO_CONTAIN is set,
SCORE_FENCE and the alert flag when it is clear. One that crosses the probation threshold in PROBATION fences the slot
with a failed attempt. A drain of 0, or no STALE tag after the fence, ends the drain in the fence event, and with it
ISOLATE where the isolation lead is 0. One that crosses the watch threshold sets WATCHED and raises SCORE_WATCH with
that threshold, in every state in which the card is heard, and below the other thresholds nothing else changes but the
score, the alert flag and the quiet count of probation. -/
def Obligations.ThresholdCrossedByState : Prop :=
  (∀ (s : State) (i : Slot) (p : Policy), let r := s.slot i
      s.summaryInLine → r.planSettled → r.policy = some p → r.cs.state = .online ∨ r.cs.state = .held →
      r.ctf.cls ≠ .cut → r.hm.score < p.fenceT → p.fenceT ≤ r.hm.score + 8 → r.hm.score + 8 ≤ 1023 →
      ∃ t, exec (.cardRequest i (.error .nonfatal)) s = .next t ∧ (t.slot i).hm.score = r.hm.score + 8
        ∧ (r.hm.watched = false → p.watchT ≤ r.hm.score + 8 → queuedFor i s.iq ≤ 3 →
          ∃ x ∈ t.iq, x.slot = i ∧ x.kind = .scoreWatch ∧ x.state = r.cs.state ∧ x.score = r.hm.score + 8
            ∧ x.countA = p.watchT)
        ∧ (p.autoContain = false →
          (t.slot i).cs = r.cs ∧ (t.slot i).hm.alert = true
            ∧ (queuedFor i s.iq ≤ 2 →
              ∃ x ∈ t.iq, x.slot = i ∧ x.kind = .scoreFence ∧ x.score = r.hm.score + 8 ∧ x.countA = p.fenceT))
        ∧ (p.autoContain = true → p.drain ≠ 0 → (∃ k, r.tt.entry k ≠ .free) →
          (t.slot i).cs =
            { r.cs with
              state := .fenced, trigger := .score, kind := p.autoKind, target := .none, retryPending := false
              drain := some p.drain }
            ∧ (t.slot i).ctf.cls = .cut ∧ (t.slot i).tt.hold = [] ∧ (∀ k, ((t.slot i).tt.entry k).isLive = false)
            ∧ (r.hm.alert = false → (t.slot i).hm.alert = false))
        ∧ (s.watchFollows → p.autoContain = true → p.drain = 0 ∨ (∀ k, r.tt.entry k = .free) →
          let f : SlotRec := { r with
            cs := { r.cs with trigger := .score, kind := p.autoKind, target := .none, retryPending := false } }
          (p.isoLead ≠ 0 → f.drained (t.slot i)) ∧ (p.isoLead = 0 → f.drainedNow (t.slot i))))
    ∧ (∀ (s : State) (i : Slot) (p : Policy), let r := s.slot i
      s.summaryInLine → r.planSettled → r.policy = some p → r.cs.state = .probation → r.ctf.cls ≠ .cut →
      r.hm.score < p.probT → p.probT ≤ r.hm.score + 8 → r.hm.score + 8 ≤ 1023 →
      ∃ t, exec (.cardRequest i (.error .nonfatal)) s = .next t ∧ (t.slot i).hm.score = r.hm.score + 8
        ∧ (p.drain ≠ 0 → (∃ k, r.tt.entry k ≠ .free) →
          (t.slot i).cs =
            { r.cs with
              state := .fenced, trigger := .probationScore, kind := .cold, target := .none, retryPending := false
              drain := some p.drain })
        ∧ (s.watchFollows → p.drain = 0 ∨ (∀ k, r.tt.entry k = .free) →
          let f : SlotRec := { r with
            cs := { r.cs with trigger := .probationScore, kind := .cold, target := .none, retryPending := false } }
          (p.isoLead ≠ 0 → f.drained (t.slot i)) ∧ (p.isoLead = 0 → f.drainedNow (t.slot i)))
        ∧ (t.slot i).ctf.cls = .cut ∧ (t.slot i).tt.hold = [] ∧ (t.slot i).tt.discard = 0
        ∧ (r.hm.watched = false → p.watchT ≤ r.hm.score + 8 → queuedFor i s.iq ≤ 3 →
          ∃ x ∈ t.iq, x.slot = i ∧ x.kind = .scoreWatch ∧ x.score = r.hm.score + 8 ∧ x.countA = p.watchT)
        ∧ (queuedFor i s.iq ≤ 1 → ∃ x ∈ t.iq, x.slot = i ∧ x.kind = .recoveryFailed ∧ x.countB = 6))
    ∧ ∀ (s : State) (i : Slot) (p : Policy), let r := s.slot i
      s.summaryInLine → r.planSettled → r.policy = some p → r.ctf.cls ≠ .cut → r.tt.hold = [] →
      r.hm.watched = false → r.hm.score < p.watchT → p.watchT ≤ r.hm.score + 8 → r.hm.score + 8 < p.fenceT →
      (r.cs.state = .probation → r.hm.score + 8 < p.probT) → r.hm.score + 8 ≤ 1023 →
      exec (.cardRequest i (.error .nonfatal)) s = .next
        { s.setSlot i { r.scored 8 with hm := { r.hm with score := r.hm.score + 8, watched := true, alert := false } } with
          iq := iwTake
            { slot := i, kind := .scoreWatch, state := r.cs.state, timestamp := s.tb.counter
              score := r.hm.score + 8, attempts := r.cs.attempts, trigger := r.cs.trigger, mergedCount := 0
              merged := 0, countA := p.watchT, countB := 0, detail := 0 }
            s.iq }

/-! ## Card-originated traffic -/

/-- A card memory write or interrupt message by the disposition class of its slot. -/
def Obligations.CardWritesByClass : Prop :=
  ∀ (s : State) (i : Slot) (w : CardWrite), let r := s.slot i
    let interrupt := ∃ c, s.ri.cb = some c ∧ c.intBase.toNat ≤ w.addr.toNat ∧ w.addr.toNat < c.intBase.toNat + c.intSize
    let inside := ∃ v ∈ r.pol.permitWindows, v.base.toNat ≤ w.addr.toNat
      ∧ w.addr.toNat + 4 * w.data.length ≤ v.base.toNat + v.size
    s.summaryInLine → r.planSettled →
    (r.ctf.cls = .opened ∨ r.ctf.cls = .permit ∧ (interrupt ∨ inside) →
      exec (.cardRequest i (.write w)) s = .next { s with out := s.out ++ [.cardWriteUp i w] })
    ∧ (r.ctf.cls = .hold → interrupt →
      exec (.cardRequest i (.write w)) s = .next (s.setSlot i { r with ctf := { r.ctf with holdover := some w } }))
    ∧ (r.ctf.cls = .hold ∧ ¬ interrupt ∨ r.ctf.cls = .cut → exec (.cardRequest i (.write w)) s = .next s)
    ∧ (r.ctf.cls = .permit → ¬ interrupt → ¬ inside → r.cs.state = .probation → r.tt.hold = [] → r.calm 8 →
      exec (.cardRequest i (.write w)) s = .next
        { s.setSlot i
            { r.scored 8 with
              ctf := { r.ctf with dmaReported := true }
              cs := { r.cs with
                probCount := if r.cs.probMode = .quiet then r.pol.probQuiet else r.cs.probCount } } with
          iq :=
            if r.ctf.dmaReported then s.iq
            else
              iwTake
                { slot := i, kind := .dmaBlocked, state := .probation, timestamp := s.tb.counter
                  score := r.hm.score + 8, attempts := r.cs.attempts, trigger := r.cs.trigger, mergedCount := 0
                  merged := 0, countA := w.data.length, countB := 1, detail := w.addr }
                s.iq })

/-- A card memory read by its requester's bus number and the disposition class of its slot. -/
def Obligations.CardReadsByClass : Prop :=
  ∀ (s : State) (i : Slot) (q : Requester) (a : Addr) (n : Nat), let r := s.slot i
    let owns := ∃ p, r.policy = some p ∧ p.busFirst.toNat ≤ q.bus.toNat ∧ q.bus.toNat ≤ p.busLast.toNat
    let inside := ∃ v ∈ r.pol.permitWindows, v.base.toNat ≤ a.toNat ∧ a.toNat + 4 * n ≤ v.base.toNat + v.size
    s.summaryInLine → r.planSettled →
    (owns → r.ctf.cls = .opened ∨ r.ctf.cls = .permit ∧ inside →
      exec (.cardRequest i (.read q a n)) s = .next { s with out := s.out ++ [.cardReadUp i q a n] })
    ∧ (¬ owns ∨ r.ctf.cls = .hold ∨ r.ctf.cls = .cut →
      exec (.cardRequest i (.read q a n)) s = .next { s with out := s.out ++ [.refuseDown i q] })
    ∧ (owns → r.ctf.cls = .permit → ¬ inside → r.cs.state = .probation → r.tt.hold = [] → r.calm 8 →
      exec (.cardRequest i (.read q a n)) s = .next
        { s.setSlot i
            { r.scored 8 with
              ctf := { r.ctf with dmaReported := true }
              cs := { r.cs with
                probCount := if r.cs.probMode = .quiet then r.pol.probQuiet else r.cs.probCount } } with
          out := s.out ++ [.refuseDown i q]
          iq :=
            if r.ctf.dmaReported then s.iq
            else
              iwTake
                { slot := i, kind := .dmaBlocked, state := .probation, timestamp := s.tb.counter
                  score := r.hm.score + 8, attempts := r.cs.attempts, trigger := r.cs.trigger, mergedCount := 0
                  merged := 0, countA := n, countB := 0, detail := a }
                s.iq })

/-- Completions of the host to card reads, by the slot whose loaded bus range holds the bus number. -/
def Obligations.HostCompletionsByClass : Prop :=
  ∀ (s : State) (c : HostCpl),
    ((∀ i p, (s.slot i).policy = some p → ¬ (p.busFirst.toNat ≤ c.req.bus.toNat ∧ c.req.bus.toNat ≤ p.busLast.toNat)) →
      exec (.hostCompletion c) s = .next s)
    ∧ ∀ (i : Slot) (p : Policy), s.policiesSound → (s.slot i).policy = some p →
      p.busFirst.toNat ≤ c.req.bus.toNat → c.req.bus.toNat ≤ p.busLast.toNat →
      ((s.slot i).ctf.cls = .opened ∨ (s.slot i).ctf.cls = .permit →
        exec (.hostCompletion c) s = .next { s with out := s.out ++ [.completionDown i c] })
      ∧ ((s.slot i).ctf.cls = .hold ∨ (s.slot i).ctf.cls = .cut → exec (.hostCompletion c) s = .next s)

/-! ## Fences and drains -/

/-- A link-down fences a slot in ONLINE and HELD with the auto recovery kind, and in PROBATION and RESTORING with a
failed attempt, RECOVERY_FAILED and kind COLD; elsewhere it changes nothing. A SNAPSHOT of the slot is overtaken by the
fence. A drain of 0, or no STALE tag after the fence, ends the drain in the fence event. -/
def Obligations.LinkDownFencesByState : Prop :=
  ∀ (s : State) (i : Slot), let r := s.slot i
    let kind := if r.cs.state = .online ∨ r.cs.state = .held then r.pol.autoKind else RecKind.cold
    s.summaryInLine → r.planSettled →
    (r.cs.state ≠ .online → r.cs.state ≠ .held → r.cs.state ≠ .probation → r.cs.state ≠ .restoring →
      exec (.linkDown i) s = .next s)
    ∧ (r.cs.state = .online ∨ r.cs.state = .held ∨ r.cs.state = .probation ∨ r.cs.state = .restoring →
      r.pol.drain ≠ 0 → (∃ k, r.tt.entry k ≠ .free) →
      ∃ t, exec (.linkDown i) s = .next t
        ∧ (t.slot i).cs =
          { r.cs with
            state := .fenced, trigger := .linkDown, target := .none, retryPending := false
            drain := some r.pol.drain, kind := kind }
        ∧ (t.slot i).tt.hold = [] ∧ (t.slot i).tt.discard = 0
        ∧ (∀ k, (t.slot i).tt.entry k = (r.tt.entry k).toStale)
        ∧ s.out ++ r.tt.abortLive ++ r.tt.abortHeld <+: t.out
        ∧ (t.slot i).ctf = { r.ctf with cls := .cut } ∧ (t.slot i).hm = r.hm ∧ (t.slot i).pru = r.pru
        ∧ (∀ op ∈ t.se.ops, op.slot ≠ i)
        ∧ (∀ e f cb, s.holdsEntry i e f cb → e.act = some .snapshot →
          ∃ pre, s.returned t (r.tt.abortLive ++ r.tt.abortHeld ++ pre) i e f cb .overtaken .fenced 0)
        ∧ (queuedFor i s.iq ≤ 2 →
          ∃ x ∈ t.iq, x.slot = i ∧ x.kind = .contained ∧ x.trigger = .linkDown
            ∧ x.countA = r.tt.abortLive.length + r.tt.abortHeld.length)
        ∧ (r.cs.state = .probation ∨ r.cs.state = .restoring → queuedFor i s.iq ≤ 1 →
          ∃ x ∈ t.iq, x.slot = i ∧ x.kind = .recoveryFailed ∧ x.attempts = r.cs.attempts ∧ x.trigger = .linkDown
            ∧ x.countA = 0 ∧ x.countB = r.cs.state.code ∧ x.detail = 7))
    ∧ (r.cs.state = .online ∨ r.cs.state = .held ∨ r.cs.state = .probation ∨ r.cs.state = .restoring →
      r.pol.drain = 0 ∨ (∀ k, r.tt.entry k = .free) → r.pol.isoLead ≠ 0 →
      ∃ t, exec (.linkDown i) s = .next t
        ∧ { r with
            cs := { r.cs with trigger := .linkDown, target := .none, retryPending := false, kind := kind } }.drained
          (t.slot i)
        ∧ (t.slot i).tt.hold = [] ∧ (t.slot i).tt.discard = 0
        ∧ (∀ k, (t.slot i).tt.entry k = (r.tt.entry k).toStale) ∧ (t.slot i).ctf = { r.ctf with cls := .cut }
        ∧ (t.slot i).hm = r.hm ∧ s.out ++ r.tt.abortLive ++ r.tt.abortHeld <+: t.out)
    ∧ (r.cs.state = .online ∨ r.cs.state = .held ∨ r.cs.state = .probation ∨ r.cs.state = .restoring →
      r.pol.drain = 0 ∨ (∀ k, r.tt.entry k = .free) → r.pol.isoLead = 0 →
      ∃ t, exec (.linkDown i) s = .next t
        ∧ { r with
            cs := { r.cs with trigger := .linkDown, target := .none, retryPending := false, kind := kind } }.drainedNow
          (t.slot i)
        ∧ (t.slot i).tt.discard = 0 ∧ (t.slot i).hm = r.hm ∧ s.out ++ r.tt.abortLive ++ r.tt.abortHeld <+: t.out)

/-- The end of the drain: the NONE path counts no attempt; with WARM or COLD the slot retires when its attempts are used
up, and begins the next attempt otherwise, COLD by escalation. With an isolation lead of 0 ISOLATE ends in the same event:
the assertion answers the held requests before the LIVE host entries, and the NONE path enters ISOLATED, which raises the
incident and returns a FENCE or RECOVER in progress. -/
def Obligations.DrainEndChoosesThePath : Prop :=
  ∀ (s : State) (i : Slot), let r := s.slot i
    let kind := if r.pol.escalate = true ∧ 1 < r.cs.attempts + 1 then RecKind.cold else r.cs.kind
    s.summaryInLine → r.planSettled → r.cs.state = .fenced → r.cs.drain = some 0 →
    (r.pol.isoLead ≠ 0 →
      ∃ t, exec (.drainTimerExpiry i) s = .next t ∧ t.iq = s.iq ∧ t.out = s.out ∧ (t.slot i).tt = r.tt
        ∧ (t.slot i).hm = r.hm ∧ (t.slot i).ctf = { r.ctf with cls := .cut } ∧ (t.slot i).ad = r.ad
        ∧ (t.slot i).cs =
          { r.cs with
            state := .resetting, drain := none
            target := if r.cs.kind ≠ .none ∧ r.pol.maxAttempts ≤ r.cs.attempts then .retired else r.cs.target
            attempts :=
              if r.cs.kind ≠ .none ∧ r.cs.attempts < r.pol.maxAttempts then r.cs.attempts + 1 else r.cs.attempts
            kind := if r.cs.kind ≠ .none ∧ r.cs.attempts < r.pol.maxAttempts then kind else r.cs.kind
            restoreWanted :=
              if r.cs.kind ≠ .none ∧ r.cs.attempts < r.pol.maxAttempts then r.pol.restore else r.cs.restoreWanted }
        ∧ (t.slot i).pru =
          { r.pru with
            isoOpen := true, phase := .isolate, timer := some r.pol.isoLead
            sequence :=
              if r.cs.kind = .none then .isolate
              else if r.cs.attempts < r.pol.maxAttempts ∧ kind = .warm then .warm
              else .coldDown })
    ∧ (r.pol.isoLead = 0 →
      ∃ t, exec (.drainTimerExpiry i) s = .next t ∧ r.drainedNow (t.slot i) ∧ (t.slot i).hm = r.hm
        ∧ (t.slot i).tt.discard = r.tt.discard ∧ s.out ++ r.tt.abortHeld ++ r.tt.abortLive <+: t.out
        ∧ (r.cs.kind ≠ .none → t.iq = s.iq ∧ (t.slot i).ad = r.ad ∧ t.out = s.out ++ r.tt.abortHeld ++ r.tt.abortLive)
        ∧ (r.cs.kind = .none →
          s.arrived t (r.tt.abortHeld ++ r.tt.abortLive) i .isolated r.cs.attempts 0
            ∧ (queuedFor i s.iq ≤ 3 →
              ∃ x ∈ t.iq, x.slot = i ∧ x.kind = .isolated ∧ x.trigger = r.cs.trigger ∧ x.countA = r.tt.discard)))

/-! ## Phases -/

/-- The timer of ISOLATE asserts and reports reset, which answers every held request before every LIVE host entry; the
phase that the sequence gives follows, and where it is power-off, power goes OFF before the bleed load ON. The timer of
ASSERT ends it by sequence. A FENCE or RECOVER in progress is returned DONE at the entry to ISOLATED, with the attempts.
The list of output changes is the model's own (log 36). -/
def Obligations.IsolateAndAssertEndBySequence : Prop :=
  (∀ (s : State) (i : Slot), let r := s.slot i
      s.summaryInLine → r.planDone → r.pru.phase = .isolate → r.pru.timer = some 0 → r.pol.resetHold ≠ 0 →
      ∃ t, exec (.isolateEnd i) s = .next t ∧ (t.slot i).pru.asserted = true
        ∧ (∀ k, (t.slot i).tt.entry k = .free) ∧ (t.slot i).tt.hold = [] ∧ (t.slot i).tt.discard = r.tt.discard
        ∧ (t.slot i).ctf.holdover = none ∧ s.out ++ r.tt.abortHeld ++ r.tt.abortLive <+: t.out
        ∧ (r.pru.sequence = .warm →
          (t.slot i).cs = r.cs
            ∧ (t.slot i).pru = { r.pru with asserted := true, timer := some r.pol.resetHold, phase := .assert })
        ∧ (r.pru.sequence = .isolate →
          (t.slot i).cs =
            { r.cs with state := .isolated, kind := .none, target := .none, retryPending := false, restoreWanted := false }
            ∧ (t.slot i).pru =
              { r.pru with
                asserted := true, timer := none, sequence := .idle, phase := .idle, rampDue := false }
            ∧ s.arrived t (r.tt.abortHeld ++ r.tt.abortLive) i .isolated r.cs.attempts 0
            ∧ (queuedFor i s.iq ≤ 3 →
              ∃ x ∈ t.iq, x.slot = i ∧ x.kind = .isolated ∧ x.trigger = r.cs.trigger ∧ x.countA = r.tt.discard))
        ∧ (r.pru.sequence = .coldDown →
          (t.slot i).cs = { r.cs with state := .bleeding } ∧ (t.slot i).pru.dark ∧ (t.slot i).pru.bleed = true
            ∧ (t.slot i).pru.rail = .down ∧ (t.slot i).pru.rechecks = 0 ∧ (t.slot i).pru.lastReading = 0
            ∧ (t.slot i).pru.phase = .bleedWait ∧ (t.slot i).pru.timer = some r.pol.bleedWait
            ∧ (r.pru.isoOpen = true → r.pru.asserted = false → r.pru.power = true → r.pru.bleed = false →
              t.signals = s.signals ++ [⟨i, .reset, true⟩, ⟨i, .power, false⟩, ⟨i, .bleed, true⟩])))
    ∧ ∀ (s : State) (i : Slot), let r := s.slot i
      s.summaryInLine → r.planDone → r.pru.phase = .assert → r.pru.timer = some 0 →
      ∃ t, exec (.assertEnd i) s = .next t
        ∧ (r.pru.sequence = .warm → r.pol.releaseLag ≠ 0 →
          t =
            { s.setSlot i
                { r with pru := { r.pru with isoOpen := false, timer := some r.pol.releaseLag, phase := .reconnect } } with
              signals := s.signals ++ if r.pru.isoOpen then [⟨i, .isolation, false⟩] else [] })
        ∧ (r.pru.sequence = .isolate →
          (t.slot i).cs.state = .isolated ∧ (t.slot i).cs.kind = .none ∧ (t.slot i).cs.attempts = r.cs.attempts
            ∧ (t.slot i).pru.power = r.pru.power ∧ (t.slot i).pru.phase = .idle ∧ (t.slot i).pru.sequence = .idle
            ∧ (t.slot i).pru.timer = none ∧ s.arrived t [] i .isolated r.cs.attempts 0)
        ∧ (r.pru.sequence = .coldDown →
          (t.slot i).cs.state = .bleeding ∧ (t.slot i).pru.dark ∧ (t.slot i).pru.bleed = true
            ∧ (t.slot i).pru.phase = .bleedWait ∧ (t.slot i).pru.timer = some r.pol.bleedWait)

/-- The timer of SETTLE closes isolation and starts the release lag, and a lag of 0 releases reset in the same event.
The timer of RECONNECT releases reset, starts the training timeout and puts the slot in TRAINING. The list of output
changes is the model's own (log 36). -/
def Obligations.SettleAndReconnectEnd : Prop :=
  (∀ (s : State) (i : Slot), let r := s.slot i
      r.pru.phase = .settle → r.pru.timer = some 0 →
      (r.pol.releaseLag ≠ 0 →
        exec (.settleEnd i) s = .next
          { s.setSlot i
              { r with pru := { r.pru with isoOpen := false, timer := some r.pol.releaseLag, phase := .reconnect } } with
            signals := s.signals ++ if r.pru.isoOpen then [⟨i, .isolation, false⟩] else [] })
      ∧ (r.pol.releaseLag = 0 →
        exec (.settleEnd i) s = .next
          { s.setSlot i
              { r with
                pru := { r.pru with
                  isoOpen := false, asserted := false, timer := some r.pol.trainTimeout, phase := .training }
                cs := { r.cs with state := .training }
                ctf := { r.ctf with cls := .hold } } with
            signals := s.signals ++ (if r.pru.isoOpen then [⟨i, .isolation, false⟩] else [])
              ++ if r.pru.asserted then [⟨i, .reset, false⟩] else [] }))
    ∧ ∀ (s : State) (i : Slot), let r := s.slot i
      r.pru.phase = .reconnect → r.pru.timer = some 0 →
      exec (.reconnectEnd i) s = .next
        { s.setSlot i
            { r with
              pru := { r.pru with asserted := false, timer := some r.pol.trainTimeout, phase := .training }
              cs := { r.cs with state := .training }
              ctf := { r.ctf with cls := .hold } } with
          signals := s.signals ++ if r.pru.asserted then [⟨i, .reset, false⟩] else [] }

/-- A ramp at its maximum and a training timeout fail the attempt: RECOVERY_FAILED, kind COLD, the attempt check, and
power off with the bleed load on. RAMP_SLOW is a command taken once the count stands at the maximum (log 5); that
retry pending keeps its value where the target becomes RETIRED is the model's choice (log 28). -/
def Obligations.RampSlowAndTrainingTimeoutFailTheAttempt : Prop :=
  ∀ (s : State) (i : Slot) (c : Instr), let r := s.slot i
    s.summaryInLine → r.planSettled →
    (c = .rampSlow i ∧ r.pru.phase = .ramp ∧ r.pru.rampDue = true
      ∨ c = .trainingTimeout i ∧ r.pru.phase = .training ∧ r.pru.timer = some 0) →
    ∃ t, exec c s = .next t
      ∧ (t.slot i).cs =
        { r.cs with
          state := .bleeding, kind := .cold, drain := none
          target := if r.pol.maxAttempts ≤ r.cs.attempts then .retired else .none
          retryPending := if r.pol.maxAttempts ≤ r.cs.attempts then r.cs.retryPending else true }
      ∧ (t.slot i).pru =
        { r.pru with
          isoOpen := true, asserted := true, power := false, bleed := true, rail := .down, rechecks := 0
          lastReading := 0, timer := some r.pol.bleedWait, phase := .bleedWait, sequence := .shutdown
          rampDue := false }
      ∧ (r.pru.up → t.signals = s.signals ++ powerOffSignals i)
      ∧ (t.slot i).ctf.cls = .cut ∧ (t.slot i).hm = r.hm
      ∧ (queuedFor i s.iq ≤ 2 →
        ∃ x ∈ t.iq, x.slot = i ∧ x.kind = .recoveryFailed ∧ x.attempts = r.cs.attempts ∧ x.trigger = r.cs.trigger
          ∧ x.countA = r.tt.discard ∧ x.countB = r.cs.state.code)
      ∧ (c = .rampSlow i → queuedFor i s.iq ≤ 2 →
        ∃ x ∈ t.iq, x.slot = i ∧ x.kind = .railFault ∧ x.countA = r.pru.rampCount ∧ x.countB = 0)

/-- Link-up in TRAINING: RESTORING with a restore asked of the engine, or HELD; in every other phase it changes
nothing. A FENCE, RECOVER or POWER_ON in progress is returned DONE at the entry to HELD, with the attempts, and at the
entry to RESTORING nothing is returned. That the header is one read is the model's choice (log 15). -/
def Obligations.LinkUpEndsTraining : Prop :=
  ∀ (s : State) (i : Slot), let r := s.slot i
    s.summaryInLine → r.planDone → (s.se.current = none → s.se.queue = []) →
    (r.pru.phase ≠ .training → exec (.linkUp i) s = .next s)
    ∧ (r.pru.phase = .training →
      ∃ t, exec (.linkUp i) s = .next t ∧ (t.slot i).pru.phase = .idle ∧ (t.slot i).pru.sequence = .idle
        ∧ (t.slot i).pru.timer = none ∧ (t.slot i).ctf = { r.ctf with cls := .hold } ∧ (t.slot i).tt = r.tt
        ∧ t.iq = s.iq
        ∧ (r.cs.restoreWanted = true →
          (t.slot i).cs = { r.cs with state := .restoring } ∧ (t.slot i).hm = r.hm
            ∧ t.se.ops = s.se.ops ++ [⟨.restore, i⟩] ∧ (t.slot i).ad = r.ad
            ∧ (s.se.current = none →
              t.out = s.out ++ [.hostRead .shadowEngine s.readId r.pol.areaAddr 16]))
        ∧ (r.cs.restoreWanted = false →
          (t.slot i).cs = { r.cs with state := .held } ∧ (t.slot i).hm = { r.hm with firstExpiry := false }
            ∧ t.se = s.se ∧ s.arrived t [] i .held r.cs.attempts 0))

/-- The end of probation, by the quiet count at 0: ONLINE, the score and the attempts cleared, RECOVERED raised with the
attempts used. A FENCE or RECOVER in progress is returned DONE with the same attempts used, after the held requests that
the new limit promotes. -/
def Obligations.QuietExpiryEndsProbation : Prop :=
  ∀ (s : State) (i : Slot), let r := s.slot i
    s.summaryInLine → r.planDone → r.cs.state = .probation → r.cs.probMode = .quiet → r.cs.probCount = 0 →
    ∃ t, exec (.probationQuietExpiry i) s = .next t
      ∧ (t.slot i).cs = { r.cs with state := .online, attempts := 0, kind := .none, probCount := 0 }
      ∧ (t.slot i).hm = { score := 0, watched := false, alert := false, firstExpiry := false }
      ∧ (t.slot i).ctf = { r.ctf with cls := .opened } ∧ (t.slot i).pru = r.pru
      ∧ (r.tt.hold = [] → (t.slot i).tt = r.tt)
      ∧ (∃ pre, (r.tt.hold = [] → pre = []) ∧ s.arrived t pre i .online r.cs.attempts 0)
      ∧ (queuedFor i s.iq ≤ 3 →
        ∃ x ∈ t.iq, x.slot = i ∧ x.kind = .recovered ∧ x.state = .online ∧ x.score = 0 ∧ x.attempts = r.cs.attempts
          ∧ x.trigger = r.cs.trigger ∧ x.countA = r.tt.discard)

/-! ## The bleed and the converter -/

/-- The timer of BLEED_WAIT places a bleed share: it joins the slot's request, and an IDLE converter with nothing
pending takes the slot at once. -/
def Obligations.BleedWaitEndPlacesABleedShare : Prop :=
  ∀ (s : State) (i : Slot), let r := s.slot i
    r.pru.phase = .bleedWait → r.pru.timer = some 0 →
    ∃ t, exec (.bleedWaitEnd i) s = .next t
      ∧ t.slot i = { r with pru := { r.pru with phase := .bleedCheck, timer := none } }
      ∧ (t.rm.req i).bleed = true ∧ (t.rm.req i).sample = (s.rm.req i).sample
      ∧ (∀ j, j ≠ i → (t.rm.req j).bleed = (s.rm.req j).bleed ∧ (t.rm.req j).sample = (s.rm.req j).sample)
      ∧ ((s.rm.req i).state ≠ .none ∨ s.rm.activity ≠ .idle →
        t.rm.activity = s.rm.activity ∧ t.rm.timer = s.rm.timer ∧ t.rm.channel = s.rm.channel
          ∧ t.rm.inService = s.rm.inService ∧ t.rm.lastServed = s.rm.lastServed)
      ∧ (s.rm.activity = .idle → (∀ j, (s.rm.req j).state = .none) →
        t.rm.inService = some i ∧ t.rm.lastServed = i ∧ t.rm.channel = some i ∧ t.rm.timer = 2
          ∧ (t.rm.req i).state = .inService
          ∧ t.rm.activity = if s.rm.channel = some i then .measuring else .settling)

/-- A settling conversion ends in the measuring one on the same channel while a share is present. When a service ends,
the converter goes to the first slot with a PENDING request after the last one served, wrapping from 7 to 0. -/
def Obligations.ConverterServesTheSlotsInOrder : Prop :=
  (∀ (s : State) (i : Slot), s.rm.activity = .settling → s.rm.timer = 0 → s.rm.inService = some i →
      ((s.rm.req i).bleed = true ∨ (s.rm.req i).sample = true →
        exec .settlingConversionEnd s = .next { s with rm := { s.rm with activity := .measuring, timer := 2 } })
      ∧ ((s.rm.req i).bleed = false → (s.rm.req i).sample = false →
        ∃ t, exec .settlingConversionEnd s = .next t ∧ t.slots = s.slots ∧ t.out = s.out ∧ t.iq = s.iq
          ∧ (t.rm.req i).state = .none
          ∧ ((∀ j, j ≠ i → (s.rm.req j).state ≠ .pending) → t.rm.activity = .idle ∧ t.rm.inService = none)))
    ∧ ∀ (s : State) (rail : Int) (i k : Slot), s.rm.activity = .measuring → s.rm.timer = 0 → s.rm.inService = some i →
      s.rm.lastServed = i → (s.rm.req i).state = .inService → (s.slot i).planDone →
      k ≠ i → (s.rm.req k).state = .pending →
      (∀ j, j ≠ i → (s.rm.req j).state = .pending → (k - i).val ≤ (j - i).val) →
      ∃ t, exec (.measuringConversionEnd rail) s = .next t ∧ t.rm.inService = some k ∧ t.rm.lastServed = k
        ∧ t.rm.channel = some k ∧ t.rm.timer = 2 ∧ (t.rm.req k).state = .inService ∧ (t.rm.req i).state = .none
        ∧ (t.rm.req i).bleed = false ∧ (t.rm.req i).sample = false
        ∧ t.rm.activity = (if s.rm.channel = some k then .measuring else .settling)
        ∧ ∀ j, j ≠ i → j ≠ k → t.rm.req j = s.rm.req j

/-- A reading, held to 0 to 14000 mV. For a bleed share: below the off threshold the bleed ends by the shutdown target;
otherwise it is checked again while extensions remain, and the slot retires with BLEED_STUCK when none does. A POWER_OFF
in progress is returned DONE at OFF; at RETIRED a RETIRE is returned DONE and a POWER_OFF FAILED, each with the reading as
its result, and a FENCE, RECOVER or POWER_ON FAILED with the attempts. A retry's
attempts rise within the maximum (R51; log 23). For a sample share the RAIL_SAMPLE is returned with it, CARD_REMOVED
when the card has gone. With both shares PRU takes it first, which is the model's choice (log 37), so the return shows
the state that the bleed check left. The state of a CARD_REMOVED return is the one at the return, also after presence
gained (log 38). -/
def Obligations.ReadingGoesToTheSharePresent : Prop :=
  (∀ (s : State) (i : Slot) (rail : Int), let r := s.slot i
      let mv := (max 0 (min 14000 rail)).toNat
      s.rm.activity = .measuring → s.rm.timer = 0 → s.rm.inService = some i →
      (s.rm.req i).bleed = true → (s.rm.req i).sample = false → r.planDone → s.summaryInLine →
      ∃ t, exec (.measuringConversionEnd rail) s = .next t
        ∧ (mv < r.pol.offT → r.cs.target = .off →
          (t.slot i).cs.state = .off ∧ (t.slot i).cs.retryPending = false ∧ (t.slot i).pru.bleed = false
            ∧ (t.slot i).pru.phase = .idle ∧ (t.slot i).pru.sequence = .idle ∧ (t.slot i).pru.lastReading = mv
            ∧ t.iq = s.iq ∧ s.arrived t [] i .off r.cs.attempts mv)
        ∧ (mv < r.pol.offT → r.cs.target = .retired →
          (t.slot i).cs.state = .retired ∧ (t.slot i).cs.kind = .none ∧ (t.slot i).cs.target = .none
            ∧ (t.slot i).cs.retryPending = false ∧ (t.slot i).cs.attempts = r.cs.attempts
            ∧ (t.slot i).pru.bleed = false ∧ (t.slot i).pru.phase = .idle ∧ s.arrived t [] i .retired r.cs.attempts mv
            ∧ (queuedFor i s.iq ≤ 3 → ∃ x ∈ t.iq, x.slot = i ∧ x.kind = .retired ∧ x.countB = mv))
        ∧ (mv < r.pol.offT → r.cs.target = .none → r.sense.pgAcc = false →
          (t.slot i).cs.state = .powering ∧ (t.slot i).cs.retryPending = false
            ∧ (t.slot i).cs.attempts =
              (if r.cs.retryPending then min r.pol.maxAttempts (r.cs.attempts + 1) else r.cs.attempts)
            ∧ (t.slot i).pru.bleed = false ∧ (t.slot i).pru.power = true ∧ (t.slot i).pru.rail = .unproven
            ∧ (t.slot i).pru.rampCount = 0 ∧ (t.slot i).pru.phase = .ramp ∧ (t.slot i).ad = r.ad)
        ∧ (r.pol.offT ≤ mv → r.pru.rechecks < r.pol.bleedExt →
          t.slot i =
            { r with
              pru := { r.pru with
                lastReading := mv, rechecks := r.pru.rechecks + 1, timer := some r.pol.bleedRecheck
                phase := .bleedWait } }
            ∧ t.iq = s.iq)
        ∧ (r.pol.offT ≤ mv → r.pol.bleedExt ≤ r.pru.rechecks →
          (t.slot i).cs.state = .retired ∧ (t.slot i).pru.bleed = false ∧ (t.slot i).pru.phase = .idle
            ∧ s.arrived t [] i .retired r.cs.attempts mv
            ∧ (queuedFor i s.iq ≤ 2 →
              ∃ x ∈ t.iq, x.slot = i ∧ x.kind = .railFault ∧ x.countA = r.pru.rechecks + 1 ∧ x.countB = mv)))
    ∧ (∀ (s : State) (i : Slot) (rail : Int) (e : ActEntry) (f : InFlight) (cb : ControlBlock), let r := s.slot i
      s.rm.activity = .measuring → s.rm.timer = 0 → s.rm.inService = some i →
      (s.rm.req i).sample = true → (s.rm.req i).bleed = false → s.holdsEntry i e f cb → e.act = some .railSample →
      ∃ t, exec (.measuringConversionEnd rail) s = .next t
        ∧ s.returned t [] i e f cb (if r.ad.cardRemoved then .cardRemoved else .done) r.cs.state
          ((max 0 (min 14000 rail)).toNat)
        ∧ (t.slot i).cs = r.cs ∧ (t.slot i).pru = r.pru ∧ (t.rm.req i).sample = false)
    ∧ ∀ (s : State) (i : Slot) (rail : Int) (e : ActEntry) (f : InFlight) (cb : ControlBlock), let r := s.slot i
      let mv := (max 0 (min 14000 rail)).toNat
      let o := if r.ad.cardRemoved then ActOutcome.cardRemoved else .done
      s.rm.activity = .measuring → s.rm.timer = 0 → s.rm.inService = some i →
      (s.rm.req i).sample = true → (s.rm.req i).bleed = true → s.holdsEntry i e f cb → e.act = some .railSample →
      ∃ t, exec (.measuringConversionEnd rail) s = .next t
        ∧ (mv < r.pol.offT → r.cs.target = .off →
          (t.slot i).cs.state = .off ∧ s.returned t [] i e f cb o .off mv)
        ∧ (mv < r.pol.offT ∧ r.cs.target = .retired ∨ r.pol.offT ≤ mv ∧ r.pol.bleedExt ≤ r.pru.rechecks →
          (t.slot i).cs.state = .retired ∧ s.returned t [] i e f cb o .retired mv)
        ∧ (r.pol.offT ≤ mv → r.pru.rechecks < r.pol.bleedExt →
          (t.slot i).cs = r.cs ∧ (t.slot i).pru.phase = .bleedWait ∧ (t.slot i).pru.lastReading = mv
            ∧ s.returned t [] i e f cb o r.cs.state mv)

/-! ## Presence and attention -/

/-- The presence samples of a slot whose button is at rest: the second ABSENT in a row takes any slot to EMPTY, and the
second PRESENT takes an EMPTY one to OFF, or to POWERING with AUTO_POWER_ON. At the loss of a slot with a policy the
header state byte EMPTY is written, and the outputs are cut in the order isolation, reset, power, bleed (the list of
their changes is the model's own, log 36). The current action is returned CARD_REMOVED with result 0 and the remaining
entries of its plan SKIPPED, all with the state EMPTY; a RAIL_SAMPLE stays in the record to its reading, with that outcome
decided. -/
def Obligations.PresenceIsAcceptedAtTheSecondSample : Prop :=
  ∀ (s : State) (pins : SensePins) (i : Slot), let r := s.slot i; let raw := pins.presence.getLsbD i.val
    s.sampleTimer = 0 → r.planSettled →
    pins.attention.getLsbD i.val = false → r.sense.attnPrev = false → r.sense.attnAcc = false →
    ∃ t, exec (.senseSample pins) s = .next t ∧ t.sampleTimer = s.senseInterval ∧ t.senseInterval = s.senseInterval
      ∧ t.tb = s.tb ∧ (t.slot i).policy = r.policy
      ∧ (raw ≠ r.sense.presPrev ∨ raw = r.sense.presAcc →
        t.slot i = { r with sense := { r.sense with presPrev := raw } })
      ∧ (raw = false → r.sense.presPrev = false → r.sense.presAcc = true → r.cs.state ≠ .empty →
        (t.slot i).sense = { r.sense with presAcc := false }
          ∧ (t.slot i).cs =
            { r.cs with
              state := .empty, kind := .none, target := .none, retryPending := false, restoreWanted := false
              probCount := 0, drain := none, trigger := .presenceOff }
          ∧ (t.slot i).pru =
            { r.pru with
              isoOpen := true, asserted := true, power := false, bleed := true, rail := .down, sequence := .idle
              phase := .idle, timer := none, rampDue := false, rechecks := 0 }
          ∧ (∀ k, (t.slot i).tt.entry k = .free) ∧ (t.slot i).tt.hold = [] ∧ (t.slot i).tt.discard = r.tt.discard
          ∧ (t.slot i).ctf = { r.ctf with holdover := none, cls := .cut } ∧ (t.slot i).hm = r.hm
          ∧ (∀ op ∈ t.se.ops, op.slot ≠ i)
          ∧ (r.ad.runs .railSample = false → r.ad.current ≠ none →
            (t.slot i).ad.occupant = .none ∧ (t.slot i).ad.current = none)
          ∧ (∀ (e : ActEntry) (rest : List ActEntry) (cb : ControlBlock), s.holdsPlan i e rest cb →
            (∀ j, j ≠ i → ∀ y ∈ (s.slot j).ad.current.toList ++ (s.slot j).ad.remaining,
              ∀ x ∈ e :: rest, y.index ≠ x.index) →
            let skips := rest.flatMap fun x => s.returnOf cb i x .skipped .empty 0
            (e.act ≠ some .railSample →
              (∃ pre, s.out ++ pre ++ (s.returnOf cb i e .cardRemoved .empty 0 ++ skips) <+: t.out)
                ∧ (t.slot i).ad =
                  { occupant := .none, current := none, cardRemoved := false, remaining := [], policyRead := none }
                ∧ ∀ x ∈ e :: rest, ∀ g ∈ t.ri.inFlight, g.index ≠ x.index)
            ∧ (e.act = some .railSample →
              (∃ pre, s.out ++ pre ++ skips <+: t.out)
                ∧ (t.slot i).ad = { r.ad with cardRemoved := true, remaining := [] }
                ∧ (∃ g ∈ t.ri.inFlight, g.index = e.index)
                ∧ ∀ x ∈ rest, ∀ g ∈ t.ri.inFlight, g.index ≠ x.index))
          ∧ (∀ p, r.policy = some p →
            ∃ pre mid,
              s.out ++ pre ++ r.tt.abortLive ++ r.tt.abortHeld ++ mid ++ [.hostWrite p.areaAddr [0]] <+: t.out)
          ∧ (r.pru.up → ∃ pre, s.signals ++ pre ++ powerOffSignals i <+: t.signals)
          ∧ (queuedFor i s.iq ≤ 3 → ∃ x ∈ t.iq, x.slot = i ∧ x.kind = .presenceOff))
      ∧ (raw = true → r.sense.presPrev = true → r.sense.presAcc = false → r.cs.state = .empty →
        (t.slot i).sense = { r.sense with presAcc := true }
          ∧ (t.slot i).hm = { r.hm with score := 0, watched := false, alert := false }
          ∧ (queuedFor i s.iq ≤ 1 → ∃ x ∈ t.iq, x.slot = i ∧ x.kind = .presenceOn)
          ∧ (r.pol.autoPowerOn = false →
            (t.slot i).cs = { r.cs with state := .off, attempts := 0, trigger := .none }
              ∧ (t.slot i).pru = { r.pru with bleed := false })
          ∧ (r.pol.autoPowerOn = true → r.sense.pgAcc = false →
            (t.slot i).cs =
              { r.cs with
                state := .powering, attempts := 0, trigger := .none, kind := .cold, target := .none
                retryPending := false, restoreWanted := false }
              ∧ (t.slot i).pru.power = true ∧ (t.slot i).pru.bleed = false ∧ (t.slot i).pru.phase = .ramp))

/-- A release accepted after a press shorter than the long threshold: ATTENTION_SHORT with the width in samples, and
with ATTENTION set a fence of a slot in ONLINE or PROBATION. A press held to the threshold: ATTENTION_LONG, and with
ATTENTION set the power control that the slot state gives. The trigger kept for a press in BLEEDING is written
ATTENTION (log 21), and it leaves retry pending clear (log 28). A drain of 0, or no STALE tag after the fence, ends the
drain in the fence event, and with it ISOLATE where the isolation lead is 0. With ATTENTION set the long press overtakes
what the record holds: the current entry is returned OVERTAKEN, its SNAPSHOT or sample share withdrawn, and the remaining
ones SKIPPED; an entry decided CARD_REMOVED stays to its reading. A press in OFF or RETIRED that finds power-good accepted
fails at once, and both records of it show the trigger ATTENTION, which is the model's choice (log 43). -/
def Obligations.PressesActByLength : Prop :=
  (∀ (s : State) (pins : SensePins) (i : Slot), let r := s.slot i
      s.sampleTimer = 0 → r.planSettled → pins.presence.getLsbD i.val = r.sense.presAcc →
      pins.attention.getLsbD i.val = false → r.sense.attnPrev = false → r.sense.attnAcc = true →
      r.sense.longMade = false → r.sense.width + 1 < (match r.policy with | some p => p.attnLong | none => 65535) →
      ∃ t, exec (.senseSample pins) s = .next t
        ∧ (t.slot i).sense =
          { r.sense with
            presPrev := r.sense.presAcc, attnPrev := false, attnAcc := false, width := 0, longMade := false }
        ∧ (queuedFor i s.iq ≤ 2 → ∃ x ∈ t.iq, x.slot = i ∧ x.kind = .attentionShort ∧ x.countA = r.sense.width + 1)
        ∧ (r.pol.attention = false ∨ r.cs.state ≠ .online ∧ r.cs.state ≠ .probation → (t.slot i).cs = r.cs)
        ∧ (r.policy ≠ none → r.pol.attention = true → r.cs.state = .online ∨ r.cs.state = .probation →
          r.pol.drain ≠ 0 → (∃ k, r.tt.entry k ≠ .free) →
          (t.slot i).cs =
            { r.cs with
              state := .fenced, trigger := .attention, kind := r.pol.autoKind, target := .none, retryPending := false
              drain := some r.pol.drain })
        ∧ (r.policy ≠ none → r.pol.attention = true → r.cs.state = .online ∨ r.cs.state = .probation →
          r.pol.drain = 0 ∨ (∀ k, r.tt.entry k = .free) →
          let f : SlotRec := { r with
            cs := { r.cs with trigger := .attention, kind := r.pol.autoKind, target := .none, retryPending := false } }
          (r.pol.isoLead ≠ 0 → f.drained (t.slot i)) ∧ (r.pol.isoLead = 0 → f.drainedNow (t.slot i))))
    ∧ ∀ (s : State) (pins : SensePins) (i : Slot) (p : Policy), let r := s.slot i
      s.sampleTimer = 0 → r.planSettled → pins.presence.getLsbD i.val = r.sense.presAcc →
      pins.attention.getLsbD i.val = true → r.sense.attnAcc = true → r.sense.longMade = false →
      r.policy = some p → p.attnLong ≤ r.sense.width + 1 →
      ∃ t, exec (.senseSample pins) s = .next t ∧ (t.slot i).sense.longMade = true
        ∧ (t.slot i).sense.width = r.sense.width + 1
        ∧ (queuedFor i s.iq ≤ 1 → ∃ x ∈ t.iq, x.slot = i ∧ x.kind = .attentionLong ∧ x.countA = p.attnLong)
        ∧ (p.attention = false → (t.slot i).cs = r.cs ∧ (t.slot i).pru = r.pru ∧ (t.slot i).ad = r.ad)
        ∧ (∀ (e : ActEntry) (rest : List ActEntry) (cb : ControlBlock), p.attention = true → s.holdsPlan i e rest cb →
          (∀ j, j ≠ i → ∀ y ∈ (s.slot j).ad.current.toList ++ (s.slot j).ad.remaining,
            ∀ x ∈ e :: rest, y.index ≠ x.index) →
          let skips := rest.flatMap fun x => s.returnOf cb i x .skipped r.cs.state 0
          (r.ad.cardRemoved = false →
            (∃ pre, s.out ++ pre ++ (s.returnOf cb i e .overtaken r.cs.state 0 ++ skips) <+: t.out)
              ∧ (t.slot i).ad =
                { occupant := .none, current := none, cardRemoved := false, remaining := [], policyRead := none }
              ∧ (∀ x ∈ e :: rest, ∀ g ∈ t.ri.inFlight, g.index ≠ x.index)
              ∧ (e.act = some .snapshot → ∀ op ∈ t.se.ops, op.slot ≠ i)
              ∧ (e.act = some .railSample → (t.rm.req i).sample = false))
          ∧ (r.ad.cardRemoved = true → e.act = some .railSample →
            (∃ pre, s.out ++ pre ++ skips <+: t.out) ∧ (t.slot i).ad = { r.ad with remaining := [] }
              ∧ (∃ g ∈ t.ri.inFlight, g.index = e.index)
              ∧ (∀ x ∈ rest, ∀ g ∈ t.ri.inFlight, g.index ≠ x.index)
              ∧ (t.rm.req i).sample = (s.rm.req i).sample))
        ∧ (p.attention = true → r.cs.state = .off ∨ r.cs.state = .retired → r.sense.pgAcc = true →
          (t.slot i).cs.state = .bleeding ∧ (t.slot i).cs.trigger = .attention
            ∧ (t.slot i).cs.attempts = (if r.cs.state = .off then 0 else 1)
            ∧ (queuedFor i s.iq ≤ 1 →
              (∃ x ∈ t.iq, x.slot = i ∧ x.kind = .railFault ∧ x.countA = 0 ∧ x.detail = 1 ∧ x.trigger = .attention)
                ∧ ∃ x ∈ t.iq, x.slot = i ∧ x.kind = .recoveryFailed ∧ x.countB = 2 ∧ x.trigger = .attention))
        ∧ (p.attention = true → r.cs.state = .empty → (t.slot i).cs = r.cs)
        ∧ (p.attention = true → r.cs.state = .bleeding →
          (t.slot i).cs =
            { r.cs with
              trigger := .attention, retryPending := false
              target := if r.cs.target = .retired then .retired else .off })
        ∧ (p.attention = true → r.cs.state = .off → r.sense.pgAcc = false →
          (t.slot i).cs =
            { r.cs with
              state := .powering, trigger := .attention, attempts := 0, kind := .cold, target := .none
              retryPending := false, restoreWanted := false })
        ∧ (p.attention = true → r.cs.state = .retired → r.sense.pgAcc = false →
          (t.slot i).cs =
            { r.cs with
              state := .powering, trigger := .attention, attempts := 1, kind := .cold, target := .none
              retryPending := false, restoreWanted := p.restore })
        ∧ (p.attention = true → r.cs.state.recovery = true ∨ r.cs.state = .online ∨ r.cs.state = .probation
            ∨ r.cs.state = .held ∨ r.cs.state = .isolated → r.cs.state ≠ .bleeding →
          (t.slot i).cs =
            { r.cs with
              state := .bleeding, trigger := .attention, retryPending := false, drain := none
              target := if r.cs.target = .retired then .retired else .off }
            ∧ (t.slot i).pru.dark ∧ (t.slot i).pru.bleed = true)

/-! ## The configuration shadow -/

/-- The host memory reads of an operation, in their order: the header, the map head, the map entries and, for a
restore, the data; then the first card access, which for a restore is the first entry in pass order. A map that no pass
takes an entry of ends the restore in PROBATION, which returns a POWER_ON in progress DONE, and the operation at the head
of the queue starts. That the header is one read, the map one of its head and one of its entries, and the data one, is
the model's choice (log 15), and so is the one write of the header (log 44); the identities of reads are the model's own
(log 4). -/
def Obligations.ShadowReadsLeadFromHeaderToCard : Prop :=
  ∀ (s : State) (i : Slot) (kd : OpKind) (ref : ReadRef) (b : List Byte), let e := s.se; let id := s.readId
    let later := deadlineIn s.tb.counter (s.pol i).completionDeadline
    let c := Instr.shadowReadDone ref.id (.data b)
    s.summaryInLine → (s.slot i).planSettled → e.current = some ⟨kd, i⟩ →
    (e.waiting = .read ref .header → b.length = 16 →
      (kd = .snapshot →
        exec c s = .next
          { s with
            se := { e with
              step := .readMap, generation := (b.getD 2 0).toNat + 256 * (b.getD 3 0).toNat
              waiting := .read ⟨id, later⟩ .mapHead }
            out := s.out ++ [.hostRead .shadowEngine id e.mapAddr 4]
            readId := id + 1 })
      ∧ (kd = .restore → b.getD 0 0 = 2 →
        exec c s = .next
          { s with
            se := { e with
              step := .readMap, hdrCount := (b.getD 1 0).toNat, hdrLength := leNat b 8 4
              waiting := .read ⟨id, later⟩ .mapHead }
            out := s.out ++ [.hostRead .shadowEngine id e.mapAddr 4]
            readId := id + 1 }))
    ∧ (e.waiting = .read ref .mapHead → b.length = 4 → b.getD 1 0 = 0 → b.getD 2 0 = 0 → b.getD 3 0 = 0 →
      1 ≤ (b.getD 0 0).toNat → (b.getD 0 0).toNat ≤ 64 →
      exec c s = .next
        { s with
          se := { e with waiting := .read ⟨id, later⟩ (.mapEntries (b.getD 0 0).toNat) }
          out := s.out ++ [.hostRead .shadowEngine id (e.mapAddr + 4) (4 * (b.getD 0 0).toNat)]
          readId := id + 1 })
    ∧ (∀ m : List MapEntry, e.waiting = .read ref (.mapEntries m.length) → b.length = 4 * m.length → mapSays b m →
      (kd = .snapshot → (s.slot i).tt.entry engineTag = .free →
        ∃ t, exec c s = .next t
          ∧ t.se = { e with map := m, step := .copy, entry := 0, dword := 0, waiting := .card }
          ∧ t.out = s.out ++
            [.hostWrite e.areaAddr
                (toLE 1 1 ++ toLE 1 m.length ++ toLE 2 e.generation ++ toLE 4 s.tb.counter.toNat ++ toLE 4 0 ++ toLE 4 0),
              .engineDown i e.bus (m.getD 0 ⟨0, 0, false, false, false⟩).index none]
          ∧ (t.slot i).engineWaits .configRead)
      ∧ (kd = .restore → m.length = e.hdrCount → 4 * totalDwords m = e.hdrLength →
        exec c s = .next
          { s with
            se := { e with
              map := m, step := .readData, waiting := .read ⟨id, later⟩ .data }
            out := s.out ++ [.hostRead .shadowEngine id (e.areaAddr + 16) (4 * totalDwords m)]
            readId := id + 1 }))
    ∧ (e.waiting = .read ref .data → kd = .restore → b.length = 4 * totalDwords e.map →
      (∀ (q : Pass) (n : Nat) (m : MapEntry), follows e.map .first 0 q n m → 1 ≤ m.count →
        (s.slot i).tt.entry engineTag = .free →
        ∃ t, exec c s = .next t
          ∧ t.se =
            { e with
              step := .writeBack, pass := q, entry := n, dword := 0, waiting := .card, staging := t.se.staging }
          ∧ t.se.staging.length = totalDwords e.map
          ∧ (∀ k, k < totalDwords e.map → t.se.staging.getD k 0 = BitVec.ofNat 32 (leNat b (4 * k) 4))
          ∧ t.out = s.out ++
            [.engineDown i e.bus m.index (some (BitVec.ofNat 32 (leNat b (4 * totalDwords (e.map.take n)) 4)))]
          ∧ (t.slot i).engineWaits .configWrite)
      ∧ (nothingFollows e.map .first 0 → (s.slot i).planDone →
        ∃ t, exec c s = .next t ∧ (t.slot i).cs.state = .probation ∧ (t.slot i).cs.attempts = (s.slot i).cs.attempts
          ∧ (∃ pre, s.arrived t pre i .probation (s.slot i).cs.attempts 0) ∧ ∃ pre, s.operationEnded t pre))

/-- A read that ends Unsupported, Aborted or short, and one whose deadline is reached, ends the operation: MEMORY_ERROR
for a snapshot, RESTORE_SKIPPED with detail 4 and HELD for a restore. So does a map that is not valid, BAD_ARGUMENT or
detail 2, and for a restore a header that is not VALID, detail 1, or one that the map does not agree with, detail 3. An
answer to another read changes nothing. A FENCE, RECOVER or POWER_ON in progress is returned DONE at the entry to HELD,
and the operation at the head of the queue starts in the same event. Answers to another read are discarded by identity
(log 4), and a deadline is reached when the counter took its value less than 2^31 ticks ago (log 6). That the header is
one read and the map head one of 4 bytes, with its bytes 2 and 3 checked there, the entries one read and the data one,
is the model's choice (log 15); that the next operation's header read comes before the interrupt message of the event is
log 33. -/
def Obligations.ShadowReadErrorsEndTheOperation : Prop :=
  ∀ (s : State) (i : Slot) (kd : OpKind) (w : SeRead) (ref : ReadRef) (c : Instr) (o : ActOutcome) (dt : Nat),
    let r := s.slot i
    let asked := match w with | .header => 16 | .mapHead => 4 | .mapEntries n => 4 * n | .data => 4 * totalDwords s.se.map
    s.summaryInLine → r.planSettled → s.se.current = some ⟨kd, i⟩ → s.se.waiting = .read ref w →
    (∀ id res, id ≠ ref.id → exec (.shadowReadDone id res) s = .next s)
    ∧ ((s.tb.counter - ref.deadline).toNat ≥ 2 ^ 31 → exec .shadowReadDeadline s = .next s)
    ∧ ((c = .shadowReadDone ref.id .unsupported ∨ c = .shadowReadDone ref.id .aborted
          ∨ (∃ b : List Byte, b.length < asked ∧ c = .shadowReadDone ref.id (.data b))
          ∨ c = .shadowReadDeadline ∧ (s.tb.counter - ref.deadline).toNat < 2 ^ 31)
        ∧ o = .memoryError ∧ dt = 4
      ∨ (∃ b : List Byte, b.length = asked ∧ c = .shadowReadDone ref.id (.data b)
        ∧ (w = .header ∧ kd = .restore ∧ b.getD 0 0 ≠ 2 ∧ dt = 1
          ∨ w = .mapHead ∧ ¬ (1 ≤ leNat b 0 2 ∧ leNat b 0 2 ≤ 64 ∧ leNat b 2 2 = 0) ∧ o = .badArgument ∧ dt = 2
          ∨ (∃ n, w = .mapEntries n ∧ (¬ ∃ m : List MapEntry, m.length = n ∧ mapSays b m) ∧ o = .badArgument ∧ dt = 2)
          ∨ ∃ m : List MapEntry, w = .mapEntries m.length ∧ kd = .restore ∧ mapSays b m
            ∧ (m.length ≠ s.se.hdrCount ∨ 4 * totalDwords m ≠ s.se.hdrLength) ∧ dt = 3)) →
      ∃ t, exec c s = .next t ∧ (kd = .snapshot ∨ r.planDone → ∃ pre, s.operationEnded t pre)
        ∧ (kd = .snapshot → ∀ e f cb, s.holdsEntry i e f cb → e.act = some .snapshot →
          s.returned t [] i e f cb o r.cs.state 0 ∧ (t.slot i).cs = r.cs
            ∧ s.operationEnded t (s.returnOf cb i e o r.cs.state 0))
        ∧ (kd = .restore → r.planDone →
          (t.slot i).cs = { r.cs with state := .held } ∧ (t.slot i).ctf = { r.ctf with cls := .hold }
            ∧ s.arrived t [] i .held r.cs.attempts 0
            ∧ (queuedFor i s.iq ≤ 3 →
              ∃ x ∈ t.iq, x.slot = i ∧ x.kind = .restoreSkipped ∧ x.detail = BitVec.ofNat 64 dt)))

/-- A dword that a copy has read is written at its place; the next dword of the map is read, or the header is written
VALID and the SNAPSHOT returned DONE with the next generation. Then the operation at the head of the queue starts in the
same event: it takes the values of its own slot and asks for its header. That this read comes before the interrupt message
of the event is log 33; that the header is written in one write and read in one read is the model's choice (logs 44 and
15). -/
def Obligations.CopyWritesEachDwordAndEndsValid : Prop :=
  ∀ (s : State) (i : Slot) (b0 b1 b2 b3 : Byte) (rem : Nat) (f : Bool), let r := s.slot i; let e := s.se
    let here := e.map.getD e.entry ⟨0, 0, false, false, false⟩
    let c : CardCpl := { status := .success, data := [b0, b1, b2, b3], remaining := rem }
    let write := Output.hostWrite
      (e.areaAddr + BitVec.ofNat 64 (16 + 4 * (totalDwords (e.map.take e.entry) + e.dword))) [b0, b1, b2, b3]
    s.summaryInLine → r.planSettled → e.current = some ⟨.snapshot, i⟩ → e.step = .copy → e.waiting = .card →
    r.engineWaits .configRead →
    ∃ t, exec (.cardCompletion i 31 c f) s = .next t
      ∧ (e.dword + 1 < here.count ∨ e.entry + 1 < e.map.length ∨ r.planDone →
        (t.slot i).cs = r.cs ∧ (t.slot i).hm = r.hm)
      ∧ (e.dword + 1 < here.count →
        t.se = { e with dword := e.dword + 1 } ∧ (t.slot i).engineWaits .configRead
          ∧ t.out = s.out ++ [write, .engineDown i e.bus (here.index + (e.dword + 1)) none])
      ∧ (here.count ≤ e.dword + 1 → e.entry + 1 < e.map.length →
        t.se = { e with entry := e.entry + 1, dword := 0 } ∧ (t.slot i).engineWaits .configRead
          ∧ t.out = s.out ++
            [write, .engineDown i e.bus (e.map.getD (e.entry + 1) ⟨0, 0, false, false, false⟩).index none])
      ∧ (here.count ≤ e.dword + 1 → e.map.length ≤ e.entry + 1 →
        let valid := Output.hostWrite e.areaAddr
          (toLE 1 2 ++ toLE 1 e.map.length ++ toLE 2 ((e.generation + 1) % 65536) ++ toLE 4 s.tb.counter.toNat
            ++ toLE 4 (4 * totalDwords e.map) ++ toLE 4 0)
        (r.planDone → ∃ pre, s.operationEnded t pre)
        ∧ ∀ a g cb, s.holdsEntry i a g cb → a.act = some .snapshot →
          s.returned t [write, valid] i a g cb .done r.cs.state ((e.generation + 1) % 65536)
            ∧ s.operationEnded t
              ([write, valid] ++ s.returnOf cb i a .done r.cs.state ((e.generation + 1) % 65536)))

/-- A write of a restore that succeeds: a VERIFY entry is read back, any other goes on to its next dword, or to the
next entry in pass order, or, when neither pass takes more, admits the slot to PROBATION, which returns a POWER_ON in
progress DONE and leaves a FENCE or RECOVER waiting. A readback that agrees goes on in the same way, and one that differs
fails the attempt. Where the restore ends, the operation at the head of the queue starts in the same event. That the held
interrupt message precedes the writes of the return is the model's choice (log 45), and so is the one read of a header
(log 15). -/
def Obligations.WriteBackVerifiesAndAdmits : Prop :=
  ∀ (s : State) (i : Slot) (c : CardCpl) (f : Bool) (b0 b1 b2 b3 : Byte), let r := s.slot i; let e := s.se
    let here := e.map.getD e.entry ⟨0, 0, false, false, false⟩
    let stagedAt := fun n k => e.staging.getD (totalDwords (e.map.take n) + k) 0
    let back : CardCpl := { status := .success, data := [b0, b1, b2, b3], remaining := 0 }
    s.summaryInLine → r.planDone → e.current = some ⟨.restore, i⟩ → e.waiting = .card → c.status = .success →
    c.data = [] →
    (e.step = .writeBack → r.engineWaits .configWrite → here.verify = true →
      ∃ t, exec (.cardCompletion i 31 c f) s = .next t ∧ t.se = { e with step := .verifyRead }
        ∧ t.out = s.out ++ [.engineDown i e.bus (here.index + e.dword) none] ∧ (t.slot i).engineWaits .configRead
        ∧ (t.slot i).cs = r.cs)
    ∧ (∀ d, d = c ∧ e.step = .writeBack ∧ r.engineWaits .configWrite ∧ here.verify = false
        ∨ d = back ∧ e.step = .verifyRead ∧ r.engineWaits .configRead
          ∧ BitVec.ofNat 32 (leNat [b0, b1, b2, b3] 0 4) = stagedAt e.entry e.dword →
      (e.dword + 1 < here.count →
        ∃ t, exec (.cardCompletion i 31 d f) s = .next t
          ∧ t.se = { e with step := .writeBack, dword := e.dword + 1 }
          ∧ t.out = s.out ++
            [.engineDown i e.bus (here.index + (e.dword + 1)) (some (stagedAt e.entry (e.dword + 1)))]
          ∧ (t.slot i).engineWaits .configWrite ∧ (t.slot i).cs = r.cs)
      ∧ (∀ (q : Pass) (n : Nat) (m : MapEntry), here.count ≤ e.dword + 1 → follows e.map e.pass (e.entry + 1) q n m →
        ∃ t, exec (.cardCompletion i 31 d f) s = .next t
          ∧ t.se = { e with step := .writeBack, pass := q, entry := n, dword := 0 }
          ∧ t.out = s.out ++ [.engineDown i e.bus m.index (some (stagedAt n 0))]
          ∧ (t.slot i).engineWaits .configWrite ∧ (t.slot i).cs = r.cs)
      ∧ (here.count ≤ e.dword + 1 → nothingFollows e.map e.pass (e.entry + 1) → r.tt.hold = [] →
        ∃ t, exec (.cardCompletion i 31 d f) s = .next t ∧ (t.slot i).cs.state = .probation
          ∧ (t.slot i).cs.attempts = r.cs.attempts
          ∧ (t.slot i).hm = { score := 0, watched := false, alert := false, firstExpiry := false }
          ∧ (t.slot i).ctf = { holdover := none, dmaReported := false, cls := .permit }
          ∧ (∀ w, r.ctf.holdover = some w → s.out ++ [.cardWriteUp i w] <+: t.out)
          ∧ s.arrived t (r.ctf.holdover.toList.map (.cardWriteUp i)) i .probation r.cs.attempts 0
          ∧ ∃ pre, s.operationEnded t pre))
    ∧ (e.step = .verifyRead → r.engineWaits .configRead →
      BitVec.ofNat 32 (leNat [b0, b1, b2, b3] 0 4) ≠ stagedAt e.entry e.dword →
      ∃ t, exec (.cardCompletion i 31 back f) s = .next t ∧ (t.slot i).cs.state = .bleeding
        ∧ (t.slot i).cs.kind = .cold ∧ (t.slot i).pru.dark
        ∧ ((∀ op ∈ e.queue, op.slot ≠ i) → ∃ pre, s.operationEnded t pre)
        ∧ (queuedFor i s.iq ≤ 3 →
          ∃ x ∈ t.iq, x.slot = i ∧ x.kind = .recoveryFailed
            ∧ x.detail = BitVec.ofNat 64 (5 + 4294967296 * (here.index + e.dword))))

/-- A card access that ends Unsupported, Aborted or malformed, or whose deadline is reached: the snapshot is returned
FAILED with the dword index, the restore fails its attempt, and the score rises by 1 for a status and by 8 for a
malformed completion or a deadline. The operation at the head of the queue starts in the same event. An access offered
while tag 31 is STALE is refused at once and ends the operation the same way, with no score. HM and SE are taken in
either order (log 9), and a deadline is reached when the counter took its value less than 2^31 ticks ago (log 6). That
the header is one read, the entries of the map one and the data one is the model's choice (log 15), and that the next
operation's header read comes before the interrupt message of the event is log 33. -/
def Obligations.FailedCardAccessEndsTheOperation : Prop :=
  (∀ (s : State) (i : Slot) (kd : OpKind) (k : ReqKind) (c : Instr) (cpl : CardCpl) (b : Bool) (n cause : Nat)
      (fl : OrtFields), let r := s.slot i; let e := s.se
      let index := (e.map.getD e.entry ⟨0, 0, false, false, false⟩).index + e.dword
      s.summaryInLine → r.planSettled → r.tt.hold = [] → r.cs.state ≠ .probation →
      e.current = some ⟨kd, i⟩ → e.waiting = .card →
      r.tt.entry engineTag = .live fl → fl.origin = .engine → fl.kind = k → k ≠ .memoryRead →
      (c = .cardCompletion i 31 cpl b ∧ cpl.status ≠ .success ∧ cpl.data.length ≤ fl.bytes ∧ n = 1 ∧ cause = 4
        ∨ c = .cardCompletion i 31 cpl b ∧ fl.bytes < cpl.data.length ∧ n = 8 ∧ cause = 4
        ∨ c = .deadlineExpiry i engineTag b ∧ (s.tb.counter - fl.deadline).toNat < 2 ^ 31 ∧ n = 8 ∧ cause = 3) →
      r.calm n →
      ∃ t, exec c s = .next t ∧ (t.slot i).hm.score = r.hm.score + n
        ∧ (kd = .snapshot → ∀ a g cb, s.holdsEntry i a g cb → a.act = some .snapshot →
          s.returned t [] i a g cb .failed r.cs.state index ∧ (t.slot i).cs = r.cs
            ∧ s.operationEnded t (s.returnOf cb i a .failed r.cs.state index)
            ∧ (t.slot i).tt.entry engineTag = if cause = 3 then .stale fl else .free)
        ∧ (kd = .restore →
          (t.slot i).cs.state = .bleeding ∧ (t.slot i).cs.kind = .cold ∧ (t.slot i).pru.dark
            ∧ (t.slot i).pru.bleed = true ∧ (∀ l, (t.slot i).tt.entry l = .free)
            ∧ ((∀ op ∈ e.queue, op.slot ≠ i) → ∃ pre, s.operationEnded t pre)
            ∧ (queuedFor i s.iq ≤ 2 →
              ∃ x ∈ t.iq, x.slot = i ∧ x.kind = .recoveryFailed
                ∧ x.detail = BitVec.ofNat 64 (cause + 4294967296 * index))))
    ∧ ∀ (s : State) (i : Slot) (ref : ReadRef) (b : List Byte), let r := s.slot i; let e := s.se
      let c := Instr.shadowReadDone ref.id (.data b)
      s.summaryInLine → r.planSettled → r.tt.entry engineTag ≠ .free →
      (∀ (m : List MapEntry) (a : ActEntry) (g : InFlight) (cb : ControlBlock), e.current = some ⟨.snapshot, i⟩ →
        e.waiting = .read ref (.mapEntries m.length) → b.length = 4 * m.length → mapSays b m →
        s.holdsEntry i a g cb → a.act = some .snapshot →
        ∃ t, exec c s = .next t ∧ (t.slot i).hm = r.hm ∧ (t.slot i).cs = r.cs ∧ (t.slot i).tt = r.tt
          ∧ s.returned t
            [.hostWrite e.areaAddr
              (toLE 1 1 ++ toLE 1 m.length ++ toLE 2 e.generation ++ toLE 4 s.tb.counter.toNat ++ toLE 4 0 ++ toLE 4 0)]
            i a g cb .failed r.cs.state (m.getD 0 ⟨0, 0, false, false, false⟩).index)
      ∧ ∀ (q : Pass) (n : Nat) (m : MapEntry), e.current = some ⟨.restore, i⟩ → e.waiting = .read ref .data →
        b.length = 4 * totalDwords e.map → follows e.map .first 0 q n m → r.planDone →
        ∃ t, exec c s = .next t ∧ (t.slot i).hm = r.hm ∧ (t.slot i).cs.state = .bleeding ∧ (t.slot i).cs.kind = .cold
          ∧ (t.slot i).pru.dark ∧ (∀ l, (t.slot i).tt.entry l = .free)
          ∧ (queuedFor i s.iq ≤ 3 →
            ∃ x ∈ t.iq, x.slot = i ∧ x.kind = .recoveryFailed
              ∧ x.detail = BitVec.ofNat 64 (4 + 4294967296 * m.index))

/-! ## Actions -/

/-- An action that fails a check is returned at once with result 0, and nothing else of the part changes: the first
check that fails, in the order of the rule, gives the outcome. The rows stand for entries given ALONE that RI takes
(log 18). -/
def Obligations.FailedChecksReturnAtOnce : Prop :=
  ∀ (s : State) (c : Instr) (i : Slot) (code : BitVec 8) (a : ActionArgs) (cb : ControlBlock) (o : ActOutcome),
    let r := s.slot i
    s.takes a cb →
    ((c = .unknownActionCode i code a ∧ (code.toNat = 0 ∨ 11 < code.toNat) ∧ o = .badCode)
      ∨ ∃ k : ActCode, actionOf c = some (i, k, a) ∧ code = k.code
        ∧ (r.policy = none ∧ k ≠ .loadPolicy ∧ k ≠ .readSlot ∧ o = .noPolicy
          ∨ (r.policy ≠ none ∨ k = .loadPolicy ∨ k = .readSlot)
            ∧ (a.argB ≠ 0
                ∨ (if k = .fence then 2 < a.argA.toNat
                  else if k = .recover then a.argA.toNat = 0 ∨ 2 < a.argA.toNat
                  else if k = .powerOn then 1 < a.argA.toNat
                  else a.argA ≠ 0))
            ∧ o = .badArgument
          ∨ (r.policy ≠ none ∨ k = .loadPolicy ∨ k = .readSlot) ∧ a.argB = 0
            ∧ (if k = .fence then a.argA.toNat ≤ 2
              else if k = .recover then 1 ≤ a.argA.toNat ∧ a.argA.toNat ≤ 2
              else if k = .powerOn then a.argA.toNat ≤ 1
              else a.argA = 0)
            ∧ (r.ad.occupant ≠ .none ∧ k ≠ .powerOff ∧ k ≠ .retire ∧ ¬ (k = .fence ∧ r.ad.runs .snapshot = true)
                ∧ o = .slotBusy
              ∨ (r.ad.occupant = .none ∨ k = .powerOff ∨ k = .retire ∨ k = .fence ∧ r.ad.runs .snapshot = true)
                ∧ (k = .fence ∧ r.cs.state ≠ .online ∧ r.cs.state ≠ .probation ∧ r.cs.state ≠ .held
                      ∧ r.cs.state ≠ .isolated
                  ∨ k = .recover ∧ r.cs.state ≠ .isolated ∧ r.cs.state ≠ .held ∧ r.cs.state ≠ .retired
                  ∨ k = .powerOn ∧ r.cs.state ≠ .off
                  ∨ (k = .powerOff ∨ k = .retire) ∧ r.cs.state = .empty
                  ∨ k = .admitSlot ∧ r.cs.state ≠ .held
                  ∨ k = .release ∧ r.cs.state ≠ .probation
                  ∨ k = .snapshot ∧ r.cs.state ≠ .online ∧ r.cs.state ≠ .held
                  ∨ k = .loadPolicy
                    ∧ (r.cs.state = .fenced ∨ r.cs.state = .resetting ∨ r.cs.state = .bleeding
                      ∨ r.cs.state = .powering ∨ r.cs.state = .training ∨ r.cs.state = .restoring))
                ∧ o = .refused))) →
    ∃ t, exec c s = .next t ∧ s.answered t i code a cb o r.cs.state 0 ∧ t.slots = s.slots ∧ t.rm = s.rm ∧ t.se = s.se
      ∧ t.iq = s.iq ∧ t.tb = s.tb ∧ t.sampleTimer = s.sampleTimer ∧ t.readId = s.readId

/-- FENCE in ONLINE, PROBATION and HELD fences the slot with the kind its argument names and stays in progress; in
ISOLATED with NONE it is returned DONE. It overtakes a SNAPSHOT in progress, which is returned OVERTAKEN while the
operation at the head of the engine's queue starts, in either order (log 41), with one read of its header (log 15). A
drain of 0, or no STALE tag after the fence, ends the drain in the fence event, and with it ISOLATE where the isolation
lead is 0; with NONE the FENCE is then returned DONE at the entry to ISOLATED. The rows stand for entries given ALONE
that RI takes (log 18). -/
def Obligations.FenceActionFencesTheSlot : Prop :=
  ∀ (s : State) (i : Slot) (a : ActionArgs) (cb : ControlBlock) (p : Policy), let r := s.slot i
    let kind := if a.argA = 0 then RecKind.none else if a.argA = 1 then .warm else .cold
    s.takes a cb → r.policy = some p → a.argB = 0 → a.argA.toNat ≤ 2 →
    (r.ad.occupant = .none → r.planDone → r.cs.state = .online ∨ r.cs.state = .probation ∨ r.cs.state = .held →
      s.summaryInLine → p.drain ≠ 0 → (∃ k, r.tt.entry k ≠ .free) →
      ∃ t, exec (.fence i a) s = .next t ∧ s.started t i 1 a
        ∧ (t.slot i).cs =
          { r.cs with
            state := .fenced, trigger := .action, target := .none, retryPending := false, drain := some p.drain
            kind := kind }
        ∧ s.out ++ r.tt.abortLive ++ r.tt.abortHeld <+: t.out
        ∧ (∀ k, (t.slot i).tt.entry k = (r.tt.entry k).toStale) ∧ (t.slot i).tt.hold = []
        ∧ (t.slot i).tt.discard = 0 ∧ (t.slot i).ctf.cls = .cut ∧ (t.slot i).hm = r.hm)
    ∧ (r.ad.occupant = .none → r.planDone → r.cs.state = .online ∨ r.cs.state = .probation ∨ r.cs.state = .held →
      s.summaryInLine → p.drain = 0 ∨ (∀ k, r.tt.entry k = .free) → p.isoLead ≠ 0 →
      ∃ t, exec (.fence i a) s = .next t ∧ s.started t i 1 a
        ∧ { r with
            cs := { r.cs with trigger := .action, target := .none, retryPending := false, kind := kind } }.drained
          (t.slot i)
        ∧ (t.slot i).tt.discard = 0 ∧ (t.slot i).ctf.cls = .cut ∧ (t.slot i).hm = r.hm)
    ∧ (r.ad.occupant = .none → r.planDone → r.cs.state = .online ∨ r.cs.state = .probation ∨ r.cs.state = .held →
      s.summaryInLine → p.drain = 0 ∨ (∀ k, r.tt.entry k = .free) → p.isoLead = 0 →
      ∃ t, exec (.fence i a) s = .next t
        ∧ { r with
            cs := { r.cs with trigger := .action, target := .none, retryPending := false, kind := kind } }.drainedNow
          (t.slot i)
        ∧ (t.slot i).tt.discard = 0 ∧ (t.slot i).hm = r.hm
        ∧ (kind ≠ .none → s.started t i 1 a ∧ s.out ++ r.tt.abortLive ++ r.tt.abortHeld <+: t.out)
        ∧ (kind = .none → (∀ op ∈ s.se.ops, op.slot ≠ i) →
          s.out ++ r.tt.abortLive ++ r.tt.abortHeld
              ++ returnWrites cb.actionBase i (entryOf a 1) .done .isolated r.cs.attempts s.tb.counter <+: t.out
            ∧ t.ri.inFlight = s.ri.inFlight ∧ t.ri.causes = { s.ri.causes with actionDone := true }
            ∧ (t.slot i).ad =
              { occupant := .none, current := none, cardRemoved := false, remaining := [], policyRead := none }))
    ∧ (∀ e f, s.holdsEntry i e f cb → e.act = some .snapshot → r.ad.occupant ≠ .none →
      r.cs.state = .online ∨ r.cs.state = .held → p.drain ≠ 0 → (∃ k, r.tt.entry k ≠ .free) →
      ∃ t, exec (.fence i a) s = .next t
        ∧ (∃ pre, s.out ++ pre
            ++ [.hostWrite (ringAddr cb.actionBase e.index + 16)
                (returnBody .overtaken r.cs.state 0 f.taken s.tb.counter),
              .hostWrite (ringAddr cb.actionBase e.index) (toLE 2 (e.controlWord i))]
            ++ r.tt.abortLive ++ r.tt.abortHeld <+: t.out)
        ∧ t.ri.inFlight =
          s.ri.inFlight.filter (fun g => !decide (g.index = e.index)) ++ [⟨a.index, s.tb.counter⟩]
        ∧ (t.slot i).ad.current = some (entryOf a 1) ∧ (t.slot i).ad.remaining = []
        ∧ t.se.ops = s.se.ops.filter (fun op => !decide (op.slot = i))
        ∧ (s.se.current = some ⟨.snapshot, i⟩ → (∀ op ∈ s.se.queue, op.slot ≠ i) → ∃ pre, s.operationEnded t pre)
        ∧ (t.slot i).cs =
          { r.cs with
            state := .fenced, trigger := .action, target := .none, retryPending := false, drain := some p.drain
            kind := kind })
    ∧ (r.ad.occupant = .none → r.planDone → r.cs.state = .isolated → a.argA = 0 →
      ∃ t, exec (.fence i a) s = .next t ∧ s.answered t i 1 a cb .done .isolated r.cs.attempts
        ∧ (t.slot i).cs = r.cs ∧ (t.slot i).pru = r.pru)

/-- RECOVER, and FENCE with WARM or COLD in ISOLATED, begin attempt 1; RECOVER in HELD fences with attempts 0, and a
drain of 0 or no STALE tag ends the drain in the fence event, and with it ISOLATE where the isolation lead is 0. RECOVER
in RETIRED that finds power-good accepted fails at once, and both records of it show the trigger ACTION, which is the
model's choice (log 43). The rows stand for entries given ALONE that RI takes (log 18). -/
def Obligations.RecoverBeginsTheFirstAttempt : Prop :=
  ∀ (s : State) (i : Slot) (a : ActionArgs) (cb : ControlBlock) (p : Policy) (c : Instr), let r := s.slot i
    let code : BitVec 8 := if c = .fence i a then 1 else 2
    s.takes a cb → s.summaryInLine → r.policy = some p → a.argB = 0 → a.argA = 1 ∨ a.argA = 2 →
    r.ad.occupant = .none → r.planDone → p.releaseLag ≠ 0 →
    (c = .recover i a ∨ c = .fence i a ∧ r.cs.state = .isolated) →
    (r.cs.state = .isolated →
      ∃ t, exec c s = .next t ∧ s.started t i code a ∧ (t.slot i).cs.attempts = 1
        ∧ (t.slot i).cs.restoreWanted = p.restore ∧ (t.slot i).cs.trigger = .action
        ∧ (a.argA = 1 →
          (t.slot i).cs.state = .resetting ∧ (t.slot i).cs.kind = .warm
            ∧ (t.slot i).pru =
              { r.pru with
                sequence := .reconnect, isoOpen := false, timer := some p.releaseLag, phase := .reconnect })
        ∧ (a.argA = 2 →
          (t.slot i).cs.state = .bleeding ∧ (t.slot i).cs.kind = .cold ∧ (t.slot i).cs.target = .none
            ∧ (t.slot i).cs.retryPending = false ∧ (t.slot i).pru.dark ∧ (t.slot i).pru.bleed = true
            ∧ (t.slot i).pru.timer = some p.bleedWait))
    ∧ (c = .recover i a → r.cs.state = .retired → r.sense.pgAcc = false →
      ∃ t, exec c s = .next t ∧ s.started t i 2 a
        ∧ (t.slot i).cs =
          { r.cs with
            state := .powering, attempts := 1, kind := .cold, target := .none, retryPending := false
            restoreWanted := p.restore, trigger := .action }
        ∧ (t.slot i).pru.power = true ∧ (t.slot i).pru.phase = .ramp)
    ∧ (c = .recover i a → r.cs.state = .retired → r.sense.pgAcc = true →
      ∃ t, exec c s = .next t ∧ s.started t i 2 a ∧ (t.slot i).cs.state = .bleeding ∧ (t.slot i).cs.attempts = 1
        ∧ (t.slot i).cs.kind = .cold ∧ (t.slot i).cs.trigger = .action ∧ (t.slot i).pru.dark
        ∧ (t.slot i).cs.target = (if p.maxAttempts ≤ 1 then .retired else .none)
        ∧ (t.slot i).cs.retryPending = !decide (p.maxAttempts ≤ 1)
        ∧ (queuedFor i s.iq ≤ 2 →
          (∃ x ∈ t.iq, x.slot = i ∧ x.kind = .railFault ∧ x.countA = 0 ∧ x.detail = 1 ∧ x.trigger = .action)
            ∧ ∃ x ∈ t.iq, x.slot = i ∧ x.kind = .recoveryFailed ∧ x.countB = 2 ∧ x.trigger = .action))
    ∧ (c = .recover i a → r.cs.state = .held → p.drain ≠ 0 → (∃ k, r.tt.entry k ≠ .free) →
      ∃ t, exec c s = .next t ∧ s.started t i 2 a ∧ (t.slot i).cs.state = .fenced ∧ (t.slot i).cs.attempts = 0
        ∧ (t.slot i).cs.trigger = .action ∧ (t.slot i).cs.drain = some p.drain
        ∧ (t.slot i).cs.kind = if a.argA = 1 then .warm else .cold)
    ∧ (c = .recover i a → r.cs.state = .held → p.drain = 0 ∨ (∀ k, r.tt.entry k = .free) →
      let f : SlotRec := { r with
        cs := { r.cs with
          attempts := 0, trigger := .action, target := .none, retryPending := false
          kind := if a.argA = 1 then .warm else .cold } }
      ∃ t, exec c s = .next t ∧ s.started t i 2 a
        ∧ (p.isoLead ≠ 0 → f.drained (t.slot i)) ∧ (p.isoLead = 0 → f.drainedNow (t.slot i)))

/-- POWER_ON in OFF starts a bring-up: attempts 0, kind COLD, the rail rising in POWERING. A power-good level accepted
before it is RAMP_FAST at ramp count 0 in the same event. The rows stand for entries given ALONE that RI takes (log 18),
and the list of output changes is the model's own (log 36). -/
def Obligations.PowerOnStartsABringUp : Prop :=
  ∀ (s : State) (i : Slot) (a : ActionArgs) (cb : ControlBlock), let r := s.slot i
    s.takes a cb → s.summaryInLine → r.policy ≠ none → a.argB = 0 → a.argA.toNat ≤ 1 → r.ad.occupant = .none →
    r.planDone → r.cs.state = .off →
    (r.sense.pgAcc = false →
      ∃ t, exec (.powerOn i a) s = .next t ∧ s.started t i 3 a ∧ t.out = s.out ∧ t.iq = s.iq ∧ (t.slot i).tt = r.tt
        ∧ (t.slot i).hm = r.hm
        ∧ (t.slot i).cs =
          { r.cs with
            state := .powering, attempts := 0, kind := .cold, target := .none, retryPending := false
            restoreWanted := decide (a.argA = 1) }
        ∧ (t.slot i).pru =
          { r.pru with
            bleed := false, power := true, rail := .unproven, rampCount := 0, rampDue := false, phase := .ramp
            timer := none, sequence := .powerUp }
        ∧ t.signals = s.signals ++ (if r.pru.bleed then [⟨i, .bleed, false⟩] else [])
          ++ if r.pru.power then [] else [⟨i, .power, true⟩])
    ∧ (r.sense.pgAcc = true →
      ∃ t, exec (.powerOn i a) s = .next t ∧ s.started t i 3 a ∧ (t.slot i).hm = r.hm
        ∧ (t.slot i).cs =
          { r.cs with
            state := .bleeding, attempts := 0, kind := .cold, drain := none, restoreWanted := decide (a.argA = 1)
            target := if r.pol.maxAttempts = 0 then .retired else .none
            retryPending := decide (r.pol.maxAttempts ≠ 0) }
        ∧ (t.slot i).pru.dark ∧ (t.slot i).pru.bleed = true ∧ (t.slot i).pru.rail = .down
        ∧ (t.slot i).pru.phase = .bleedWait ∧ (t.slot i).pru.timer = some r.pol.bleedWait
        ∧ (queuedFor i s.iq ≤ 2 →
          (∃ x ∈ t.iq, x.slot = i ∧ x.kind = .railFault ∧ x.countA = 0 ∧ x.countB = 0 ∧ x.detail = 1)
            ∧ ∃ x ∈ t.iq, x.slot = i ∧ x.kind = .recoveryFailed ∧ x.countB = 2))

/-- POWER_OFF and RETIRE by slot state; each ends whatever the record held as OVERTAKEN first, its work withdrawn. The
rows stand for entries given ALONE that RI takes (log 18). Retry pending clear in BLEEDING rests on log 28, an entry
decided CARD_REMOVED ending OVERTAKEN on log 19, and trigger ACTION written before RETIRED is raised from OFF on log
39. The list of output changes is the model's own (log 36). -/
def Obligations.PowerOffAndRetireByState : Prop :=
  ∀ (s : State) (i : Slot) (a : ActionArgs) (cb : ControlBlock) (c : Instr) (off : Bool), let r := s.slot i
    let code : BitVec 8 := if off then 4 else 5
    let target := if r.cs.target = .retired ∨ off = false then Target.retired else .off
    c = (if off then .powerOff i a else .retire i a) →
    s.takes a cb → s.summaryInLine → r.policy ≠ none → a.argB = 0 → a.argA = 0 → r.cs.state ≠ .empty →
    (∀ e f, r.ad.occupant ≠ .none → s.holdsEntry i e f cb →
      ∃ t pre, exec c s = .next t ∧ (e.act ≠ some .snapshot → pre = [])
        ∧ (e.act = some .snapshot → t.se.ops = s.se.ops.filter (fun op => !decide (op.slot = i)))
        ∧ (e.act = some .railSample → (t.rm.req i).sample = false)
        ∧ s.out ++ pre ++
            [.hostWrite (ringAddr cb.actionBase e.index + 16)
                (returnBody .overtaken r.cs.state 0 f.taken s.tb.counter),
              .hostWrite (ringAddr cb.actionBase e.index) (toLE 2 (e.controlWord i))] <+: t.out
        ∧ ∀ g ∈ t.ri.inFlight, g.index ≠ e.index)
    ∧ (r.ad.occupant = .none → r.planDone →
      ∃ t, exec c s = .next t
        ∧ (r.cs.state = .off → off = true → s.answered t i code a cb .done .off 0 ∧ (t.slot i).cs = r.cs)
        ∧ (r.cs.state = .off → off = false →
          s.answered t i code a cb .done .retired 0 ∧ (t.slot i).cs.state = .retired
            ∧ (t.slot i).cs.trigger = .action
            ∧ (queuedFor i s.iq ≤ 3 → ∃ x ∈ t.iq, x.slot = i ∧ x.kind = .retired ∧ x.countB = 0 ∧ x.trigger = .action))
        ∧ (r.cs.state = .retired →
          s.answered t i code a cb (if off then .failed else .done) .retired 0 ∧ (t.slot i).cs = r.cs)
        ∧ (r.cs.state = .bleeding →
          s.started t i code a ∧ (t.slot i).cs = { r.cs with target := target, retryPending := false }
            ∧ (t.slot i).pru = r.pru)
        ∧ (r.cs.state ≠ .off → r.cs.state ≠ .retired → r.cs.state ≠ .bleeding →
          s.started t i code a
            ∧ (t.slot i).cs =
              { r.cs with
                state := .bleeding, target := target, retryPending := false, drain := none, trigger := .action }
            ∧ (r.pru.up → t.signals = s.signals ++ powerOffSignals i)
            ∧ (t.slot i).pru.dark ∧ (t.slot i).pru.bleed = true ∧ (t.slot i).pru.phase = .bleedWait
            ∧ (t.slot i).pru.timer = some r.pol.bleedWait ∧ (∀ k, (t.slot i).tt.entry k = .free)
            ∧ (t.slot i).tt.hold = []))

/-- ADMIT and RELEASE act and are returned DONE in one event: HELD to PROBATION with the score at 0, and PROBATION to
ONLINE with the probation count as the result. That the held interrupt message precedes the writes of the return is the
model's choice (log 45). The rows stand for entries given ALONE that RI takes (log 18). -/
def Obligations.AdmitAndReleaseReturnDone : Prop :=
  ∀ (s : State) (i : Slot) (a : ActionArgs) (cb : ControlBlock) (p : Policy), let r := s.slot i
    s.takes a cb → r.policy = some p → a.argB = 0 → a.argA = 0 → r.ad.occupant = .none → r.planDone →
    r.tt.hold = [] →
    (r.cs.state = .held → r.ctf.holdover = none →
      ∃ t, exec (.admitSlot i a) s = .next t ∧ s.answered t i 6 a cb .done .probation 0
        ∧ (t.slot i).cs =
          { r.cs with
            state := .probation, probMode := if p.probationTraffic then .traffic else .quiet
            probCount := if p.probationTraffic then 0 else p.probQuiet }
        ∧ (t.slot i).hm = { score := 0, watched := false, alert := false, firstExpiry := false }
        ∧ (t.slot i).ctf = { holdover := none, dmaReported := false, cls := .permit } ∧ (t.slot i).tt = r.tt)
    ∧ (∀ w, r.cs.state = .held → r.ctf.holdover = some w →
      ∃ t, exec (.admitSlot i a) s = .next t ∧ (t.slot i).cs.state = .probation ∧ (t.slot i).ctf.holdover = none
        ∧ s.out ++ .cardWriteUp i w :: returnWrites cb.actionBase i (entryOf a 6) .done .probation 0 s.tb.counter
          <+: t.out)
    ∧ (r.cs.state = .probation →
      ∃ t, exec (.release i a) s = .next t ∧ s.answered t i 7 a cb .done .online r.cs.probCount
        ∧ (t.slot i).cs = { r.cs with state := .online, attempts := 0, kind := .none, probCount := 0 }
        ∧ (t.slot i).hm = { score := 0, watched := false, alert := false, firstExpiry := false }
        ∧ (t.slot i).ctf = { r.ctf with cls := .opened }
        ∧ (queuedFor i s.iq ≤ 3 →
          ∃ x ∈ t.iq, x.slot = i ∧ x.kind = .recovered ∧ x.attempts = r.cs.attempts ∧ x.countA = r.tt.discard))

/-- READ_SLOT is returned DONE with the score, the attempts, the LIVE host entries and the STALE entries in their bits,
and changes nothing of the slot; a slot whose record is occupied answers SLOT_BUSY. The row stands for an entry given
ALONE that RI takes (log 18). -/
def Obligations.ReadSlotPacksTheFourCounts : Prop :=
  ∀ (s : State) (i : Slot) (a : ActionArgs) (cb : ControlBlock), let r := s.slot i
    let live := (List.finRange 32).countP fun k => decide (k ≠ 31) && (r.tt.entry k).isLive
    let stale := (List.finRange 32).countP fun k => (r.tt.entry k).isStale
    s.takes a cb → a.argB = 0 → a.argA = 0 → r.ad.remaining = [] →
    (r.ad.occupant = .none → r.hm.score ≤ 1023 → r.cs.attempts ≤ 7 →
      ∃ t, exec (.readSlot i a) s = .next t
        ∧ s.answered t i 10 a cb .done r.cs.state
          (r.hm.score + 2 ^ 12 * r.cs.attempts + 2 ^ 16 * live + 2 ^ 24 * min 31 stale)
        ∧ (∀ j, j ≠ i → t.slot j = s.slot j) ∧ { t.slot i with ad := r.ad } = r)
    ∧ (r.ad.occupant ≠ .none →
      ∃ t, exec (.readSlot i a) s = .next t ∧ s.answered t i 10 a cb .slotBusy r.cs.state 0 ∧ t.slots = s.slots)

/-- SNAPSHOT, LOAD_POLICY and RAIL_SAMPLE start in a free record and stay in progress: an operation of the engine, a
read of the slot's policy record, a sample share. That the header is one read is the model's choice (log 15). The rows
stand for entries given ALONE that RI takes (log 18). -/
def Obligations.SnapshotLoadPolicyAndRailSampleStart : Prop :=
  ∀ (s : State) (i : Slot) (a : ActionArgs) (cb : ControlBlock), let r := s.slot i
    s.takes a cb → s.summaryInLine → a.argB = 0 → a.argA = 0 → r.ad.occupant = .none → r.planDone →
    (r.policy ≠ none → r.cs.state = .online ∨ r.cs.state = .held → (s.se.current = none → s.se.queue = []) →
      ∃ t, exec (.snapshot i a) s = .next t ∧ s.started t i 8 a ∧ t.se.ops = s.se.ops ++ [⟨.snapshot, i⟩]
        ∧ (s.se.current = none →
          t.out = s.out ++ [.hostRead .shadowEngine s.readId r.pol.areaAddr 16] ∧ t.se.step = .readHeader
            ∧ t.se.mapAddr = r.pol.mapAddr ∧ t.se.areaAddr = r.pol.areaAddr ∧ t.se.bus = r.pol.busFirst)
        ∧ (s.se.current ≠ none → t.out = s.out) ∧ (t.slot i).cs = r.cs ∧ t.rm = s.rm)
    ∧ (r.cs.state.recovery = false →
      ∃ t, exec (.loadPolicy i a) s = .next t ∧ s.started t i 9 a
        ∧ t.out = s.out ++ [.hostRead (.dispatcher i) s.readId (cb.policyBase + BitVec.ofNat 64 (256 * i.val)) 256]
        ∧ t.readId = s.readId + 1
        ∧ (t.slot i).ad.policyRead = some ⟨s.readId, s.tb.counter + 65535⟩ ∧ (t.slot i).policy = r.policy
        ∧ (t.slot i).cs = r.cs)
    ∧ (r.policy ≠ none →
      ∃ t, exec (.railSample i a) s = .next t ∧ s.started t i 11 a ∧ t.out = s.out ∧ (t.rm.req i).sample = true
        ∧ (t.rm.req i).bleed = (s.rm.req i).bleed ∧ (t.rm.req i).state ≠ .none ∧ (t.slot i).cs = r.cs ∧ t.se = s.se)

/-- The read of a LOAD_POLICY ends: a recovery state refuses the record, the check of R168 accepts or rejects it, and a
read error or its deadline is MEMORY_ERROR. A record with AUTO_CONTAIN accepted for a slot whose alert flag stays set
fences it. An answer to another read changes nothing. As an entry of a plan, a LOAD_POLICY returned DONE starts the entry
after it in the same event, checked against the policy just taken, and any other outcome returns the remaining entries
SKIPPED, in ring order. That the final state of the return is read after the acceptance's effects is log 29, and that a
READ_SLOT started there sees them all is log 42; answers to another read are discarded by identity (log 4), and a
deadline is reached when the counter took its value less than 2^31 ticks ago (log 6). -/
def Obligations.LoadPolicyReadEndsByTheCheck : Prop :=
  ∀ (s : State) (i : Slot) (ref : ReadRef) (e : ActEntry) (rest : List ActEntry) (cb : ControlBlock), let r := s.slot i
    let live := (List.finRange 32).countP fun k => decide (k ≠ 31) && (r.tt.entry k).isLive
    let stale := (List.finRange 32).countP fun k => (r.tt.entry k).isStale
    s.holdsPlan i e rest cb → e.act = some .loadPolicy → r.ad.policyRead = some ref →
    (∀ id res, id ≠ ref.id → exec (.loadPolicyReadDone i id res) s = .next s)
    ∧ ((s.tb.counter - ref.deadline).toNat ≥ 2 ^ 31 → exec (.loadPolicyReadDeadline i) s = .next s)
    ∧ (∀ c, c = .loadPolicyReadDone i ref.id .unsupported ∨ c = .loadPolicyReadDone i ref.id .aborted
        ∨ (∃ b : List Byte, b.length < 256 ∧ c = .loadPolicyReadDone i ref.id (.data b))
        ∨ c = .loadPolicyReadDeadline i ∧ (s.tb.counter - ref.deadline).toNat < 2 ^ 31 →
      ∃ t, exec c s = .next t ∧ s.planEnded t [] i e rest cb .memoryError r.cs.state 0
        ∧ { t.slot i with ad := r.ad } = r)
    ∧ ∀ b : List Byte, b.length = 256 →
      (r.cs.state.recovery = true →
        ∃ t, exec (.loadPolicyReadDone i ref.id (.data b)) s = .next t
          ∧ s.planEnded t [] i e rest cb .refused r.cs.state 0 ∧ { t.slot i with ad := r.ad } = r)
      ∧ (r.cs.state.recovery = false → (¬ ∃ p, s.acceptable i b p) →
        ∃ t, exec (.loadPolicyReadDone i ref.id (.data b)) s = .next t
          ∧ s.planEnded t [] i e rest cb .policyInvalid r.cs.state 0 ∧ { t.slot i with ad := r.ad } = r)
      ∧ (∀ p, r.cs.state.recovery = false → s.acceptable i b p → r.tt.hold = [] → r.hm.alert = true →
        p.fenceT ≤ r.hm.score → p.autoContain = true → r.cs.state = .online ∨ r.cs.state = .held → p.drain ≠ 0 →
        (∃ k, r.tt.entry k ≠ .free) → rest = [] →
        ∃ t, exec (.loadPolicyReadDone i ref.id (.data b)) s = .next t ∧ (t.slot i).policy = some p
          ∧ (t.slot i).hm.alert = false ∧ (t.slot i).hm.score = r.hm.score
          ∧ (t.slot i).cs =
            { r.cs with
              state := .fenced, trigger := .score, kind := p.autoKind, target := .none, retryPending := false
              attempts := min p.maxAttempts r.cs.attempts, drain := some p.drain })
      ∧ (∀ p, r.cs.state.recovery = false → s.acceptable i b p → r.tt.hold = [] → r.hm.alert = true →
        p.fenceT ≤ r.hm.score → p.autoContain = true → r.cs.state = .online ∨ r.cs.state = .held →
        p.drain = 0 ∨ (∀ k, r.tt.entry k = .free) → rest = [] →
        let f : SlotRec := { r with
          policy := some p
          cs := { r.cs with
            trigger := .score, kind := p.autoKind, target := .none, retryPending := false
            attempts := min p.maxAttempts r.cs.attempts } }
        ∃ t, exec (.loadPolicyReadDone i ref.id (.data b)) s = .next t ∧ (t.slot i).policy = some p
          ∧ (t.slot i).hm.alert = false ∧ (p.isoLead ≠ 0 → f.drained (t.slot i))
          ∧ (p.isoLead = 0 → f.drainedNow (t.slot i)))
      ∧ (∀ p, r.cs.state.recovery = false → s.acceptable i b p → r.tt.hold = [] → r.hm.alert = false →
        let ends := fun (x : ActEntry) (o : ActOutcome) (result : Nat) => s.returnOf cb i x o r.cs.state result
        let free : AdRec :=
          { occupant := .none, current := none, cardRemoved := false, remaining := [], policyRead := none }
        ∃ t, exec (.loadPolicyReadDone i ref.id (.data b)) s = .next t
          ∧ ((∀ x ∈ rest, x.code = 0 ∨ x.code = 10 ∨ x.code = 11) →
            (t.slot i).policy = some p ∧ (t.slot i).cs = { r.cs with attempts := min p.maxAttempts r.cs.attempts }
              ∧ (t.slot i).hm = { r.hm with watched := decide (p.watchT ≤ r.hm.score) } ∧ (t.slot i).pru = r.pru
              ∧ (t.slot i).tt = r.tt ∧ (t.slot i).ctf = r.ctf)
          ∧ (rest = [] → s.planEnded t [] i e rest cb .done r.cs.state 0)
          ∧ ∀ (x : ActEntry) (more : List ActEntry), rest = x :: more →
            (x.code = 0 →
              s.out ++ ends e .done 0 ++ ends x .badCode 0 ++ more.flatMap (fun y => ends y .skipped 0) <+: t.out
                ∧ (t.slot i).ad = free ∧ t.ri.inFlight = s.inFlightBut (e :: rest))
            ∧ (x.code = 10 → x.argA = 0 → x.argB = 0 → more = [] → r.hm.score ≤ 1023 →
              s.out ++ ends e .done 0
                  ++ ends x .done
                    (r.hm.score + 2 ^ 12 * min p.maxAttempts r.cs.attempts + 2 ^ 16 * live + 2 ^ 24 * min 31 stale)
                  <+: t.out
                ∧ (t.slot i).ad = free ∧ t.ri.inFlight = s.inFlightBut (e :: rest))
            ∧ (x.code = 11 → x.argA = 0 → x.argB = 0 →
              s.out ++ ends e .done 0 <+: t.out
                ∧ (t.slot i).ad = { free with occupant := r.ad.occupant, current := some x, remaining := more }
                ∧ (t.rm.req i).sample = true ∧ t.ri.inFlight = s.inFlightBut [e]))

/-! ## The Ring Interface -/

/-- The commands written to KCMD, by the interface state. A refused one and one whose low byte names no command set
BAD_COMMAND and change nothing else but the summary; a value whose low byte is 1 to 4 is that command whatever its other
bits (log 40). That STOP in RUNNING keeps the scan timer and scan requested is the model's choice (log 24). -/
def Obligations.CommandsByInterfaceState : Prop :=
  ∀ (s : State) (v : Dword), s.summaryInLine →
    let refused := fun (c : Instr) =>
      ∃ t, exec c s = .next t ∧ t.slots = s.slots ∧ t.rm = s.rm ∧ t.se = s.se ∧ t.iq = s.iq ∧ t.tb = s.tb
        ∧ t.readId = s.readId
        ∧ { t.ri with summary := s.ri.summary } =
          { s.ri with causes := { s.ri.causes with badCommand := true } }
    let scan := fun (r : RiRec) (c : ControlBlock) =>
      { s with
        ri := { r with
          scanTimer := some c.scanInterval, work := .action ⟨s.readId, s.tb.counter + 65535⟩ }
        out := s.out ++
          [.hostRead .ringInterface s.readId (c.actionBase + BitVec.ofNat 64 (32 * s.ri.actionPtr)) 32]
        readId := s.readId + 1 }
    ((s.ri.state = .stopped ∨ s.ri.state = .halted) → s.ri.inFlight = [] →
      exec .init s = .next
        { s with
          ri := { s.ri with state := .initializing, work := .controlBlock ⟨s.readId, s.tb.counter + 65535⟩ }
          out := s.out ++ [.hostRead .ringInterface s.readId (s.ri.kcbh ++ s.ri.kcbl) 64]
          readId := s.readId + 1 })
    ∧ (s.ri.state = .initializing ∨ s.ri.state = .running ∨ s.ri.inFlight ≠ [] → refused .init)
    ∧ (∀ c, s.ri.state = .stopped → s.ri.initValid = true → s.ri.cb = some c →
      exec .start s = .next (scan { s.ri with state := .running } c))
    ∧ (s.ri.state ≠ .stopped ∨ s.ri.initValid = false → refused .start)
    ∧ (s.ri.state = .stopped → exec .stop s = .next s)
    ∧ (s.ri.state = .running → exec .stop s = .next { s with ri := { s.ri with state := .stopped, work := .idle } })
    ∧ (s.ri.state = .halted → exec .stop s = .next { s with ri := { s.ri with state := .stopped } })
    ∧ (s.ri.state = .initializing → refused .stop)
    ∧ (∀ c, s.ri.state = .running → s.ri.work = .idle → s.ri.cb = some c → exec .prompt s = .next (scan s.ri c))
    ∧ (s.ri.state = .running → s.ri.work.scanning = true →
      exec .prompt s = .next { s with ri := { s.ri with scanRequested := true } })
    ∧ (s.ri.state ≠ .running → exec .prompt s = .next s)
    ∧ (v.toNat % 256 = 1 → exec (.unknownCommand v) s = exec .init s ∧ RegName.kcmd.write v = .init)
    ∧ (v.toNat % 256 = 2 → exec (.unknownCommand v) s = exec .start s ∧ RegName.kcmd.write v = .start)
    ∧ (v.toNat % 256 = 3 → exec (.unknownCommand v) s = exec .stop s ∧ RegName.kcmd.write v = .stop)
    ∧ (v.toNat % 256 = 4 → exec (.unknownCommand v) s = exec .prompt s ∧ RegName.kcmd.write v = .prompt)
    ∧ (v.toNat % 256 = 0 ∨ 4 < v.toNat % 256 →
      refused (.unknownCommand v) ∧ RegName.kcmd.write v = .unknownCommand v)

/-- A write to KSTAT clears the causes whose bits are 1 and changes nothing else but the summary; KCBL and KCBH take
the value written, bits 5 to 0 of KCBL read as 0. The registers stand at offsets 0, 4, 8 and 12; KCMD reads 0, and
KSTAT shows the state, the init fault, the causes, the slots rejected and the summary. -/
def Obligations.RegisterWritesKeepTheRest : Prop :=
  ∀ (s : State) (v : Dword),
    (s.summaryInLine →
      ∃ t, exec (.kstatWrite v) s = .next t ∧ t.slots = s.slots ∧ t.out = s.out ∧ t.iq = s.iq ∧ t.rm = s.rm
        ∧ t.se = s.se ∧ t.tb = s.tb
        ∧ { t.ri with summary := s.ri.summary } =
          { s.ri with
            causes :=
              { actionDone := s.ri.causes.actionDone && !v.getLsbD 8
                incident := s.ri.causes.incident && !v.getLsbD 9
                initDone := s.ri.causes.initDone && !v.getLsbD 10
                initError := s.ri.causes.initError && !v.getLsbD 11
                memError := s.ri.causes.memError && !v.getLsbD 12
                badCommand := s.ri.causes.badCommand && !v.getLsbD 13 } })
    ∧ exec (.registerWrite .kcbh v) s = .next { s with ri := { s.ri with kcbh := v } }
    ∧ ∃ w : Dword, exec (.registerWrite .kcbl v) s = .next { s with ri := { s.ri with kcbl := w } }
      ∧ (∀ k, w.getLsbD k = (decide (6 ≤ k) && v.getLsbD k))
    ∧ RegName.kstat.write v = .kstatWrite v ∧ RegName.kcbl.write v = .registerWrite .kcbl v
    ∧ RegName.kcbh.write v = .registerWrite .kcbh v
    ∧ RegName.atOffset 0 = some .kcmd ∧ RegName.atOffset 4 = some .kstat ∧ RegName.atOffset 8 = some .kcbl
    ∧ RegName.atOffset 12 = some .kcbh
    ∧ s.ri.readRegister .kcmd = 0 ∧ s.ri.readRegister .kcbl = s.ri.kcbl ∧ s.ri.readRegister .kcbh = s.ri.kcbh
    ∧ let k := s.ri.readRegister .kstat
      (k.extractLsb' 0 2).toNat = (match s.ri.state with | .stopped => 0 | .initializing => 1 | .running => 2 | .halted => 3)
        ∧ (k.extractLsb' 4 2).toNat = (match s.ri.initFault with | .none => 0 | .cbRead => 1 | .cbInvalid => 2)
        ∧ k.getLsbD 8 = s.ri.causes.actionDone ∧ k.getLsbD 9 = s.ri.causes.incident
        ∧ k.getLsbD 10 = s.ri.causes.initDone ∧ k.getLsbD 11 = s.ri.causes.initError
        ∧ k.getLsbD 12 = s.ri.causes.memError ∧ k.getLsbD 13 = s.ri.causes.badCommand
        ∧ k.extractLsb' 16 8 = s.ri.initRejected ∧ k.getLsbD 31 = s.ri.summary
        ∧ ∀ n, n = 2 ∨ n = 3 ∨ n = 6 ∨ n = 7 ∨ n = 14 ∨ n = 15 ∨ 24 ≤ n ∧ n ≤ 30 → k.getLsbD n = false

/-- INIT's read of the Control Block: a valid block is taken by the interface, the timebase and the sense unit, the
summary is brought into line, and then the first policy record is read; a bad one, or a read error, ends INIT with its
fault. A policy record is accepted or rejected by the check of R168, a read error or a short one rejects it, and the
next slot's is read; after slot 7 the interface is STOPPED with INIT_DONE. Answers to another read are discarded by
identity (log 4), a deadline is reached when the counter took its value less than 2^31 ticks ago (log 6), and after a
policy record the interrupt message of the event follows the next read (log 33). -/
def Obligations.InitReadsTakeWhatTheyFind : Prop :=
  (∀ (s : State) (ref : ReadRef), s.summaryInLine → s.ri.work = .controlBlock ref →
      let fails := fun (c : Instr) (f : InitFault) =>
        ∃ t, exec c s = .next t ∧ t.slots = s.slots ∧ t.tb = s.tb ∧ t.senseInterval = s.senseInterval
          ∧ { t.ri with summary := s.ri.summary } =
            { s.ri with
              initFault := f, initValid := false, state := .stopped, work := .idle
              causes := { s.ri.causes with initError := true } }
      (∀ id res, id ≠ ref.id → exec (.controlBlockReadDone id res) s = .next s)
      ∧ fails (.controlBlockReadDone ref.id .unsupported) .cbRead
      ∧ fails (.controlBlockReadDone ref.id .aborted) .cbRead
      ∧ (∀ b : List Byte, b.length < 64 → fails (.controlBlockReadDone ref.id (.data b)) .cbRead)
      ∧ ((s.tb.counter - ref.deadline).toNat < 2 ^ 31 → fails .riReadDeadline .cbRead)
      ∧ (∀ (b : List Byte) (c : ControlBlock), b.length = 64 → c.says b → ¬ c.sound b →
        fails (.controlBlockReadDone ref.id (.data b)) .cbInvalid)
      ∧ ∀ (b : List Byte) (c : ControlBlock), b.length = 64 → c.says b → c.sound b →
        ∃ t, exec (.controlBlockReadDone ref.id (.data b)) s = .next t ∧ t.slots = s.slots
          ∧ t.tb = { prescale := 4 ^ c.prescaleSel, divider := c.divider, counter := s.tb.counter }
          ∧ t.senseInterval = c.senseInterval ∧ t.sampleTimer = s.sampleTimer ∧ t.ri.cb = some c
          ∧ t.ri.causes = s.ri.causes ∧ t.ri.state = s.ri.state
          ∧ t.ri.work = .policy ⟨s.readId, s.tb.counter + 65535⟩ 0 0
          ∧ ∃ mid, t.out = s.out ++ mid ++ [.hostRead .ringInterface s.readId c.policyBase 256]
            ∧ (t.ri.summary = true ∧ s.ri.summary = false ∧ 0 < c.intSize →
              mid = [.interrupt c.intBase (t.ri.readRegister .kstat)])
            ∧ (t.ri.summary = false ∨ s.ri.summary = true ∨ c.intSize = 0 → mid = []))
    ∧ ∀ (s : State) (ref : ReadRef) (i : Slot) (rej : BitVec 8) (cb : ControlBlock), let r := s.slot i
      s.summaryInLine → r.planSettled → s.ri.work = .policy ref i rej → s.ri.cb = some cb →
      (∀ id res, id ≠ ref.id → exec (.policyRecordReadDone id res) s = .next s)
      ∧ (∀ c, c = .policyRecordReadDone ref.id .unsupported ∨ c = .policyRecordReadDone ref.id .aborted
          ∨ (∃ b : List Byte, b.length < 256 ∧ c = .policyRecordReadDone ref.id (.data b))
          ∨ (∃ b : List Byte, b.length = 256 ∧ (¬ ∃ p, s.acceptable i b p) ∧ c = .policyRecordReadDone ref.id (.data b))
          ∨ c = .riReadDeadline ∧ (s.tb.counter - ref.deadline).toNat < 2 ^ 31 →
        (i ≠ 7 →
          exec c s = .next
            { s with
              ri := { s.ri with
                work := .policy ⟨s.readId, s.tb.counter + 65535⟩ (i + 1) (rej ||| (1#8 <<< i.val)) }
              out := s.out ++
                [.hostRead .ringInterface s.readId (cb.policyBase + BitVec.ofNat 64 (256 * (i.val + 1))) 256]
              readId := s.readId + 1 })
        ∧ (i = 7 →
          ∃ t, exec c s = .next t ∧ t.slots = s.slots
            ∧ { t.ri with summary := s.ri.summary } =
              { s.ri with
                initRejected := rej ||| (1#8 <<< i.val), actionPtr := 0, incidentPtr := 0, initFault := .none
                initValid := true, state := .stopped, work := .idle
                causes := { s.ri.causes with initDone := true } }))
      ∧ ∀ (b : List Byte) (p : Policy), b.length = 256 → s.acceptable i b p → r.tt.hold = [] →
        r.hm.alert = false →
        ∃ t, exec (.policyRecordReadDone ref.id (.data b)) s = .next t ∧ (t.slot i).policy = some p
          ∧ (t.slot i).cs = { r.cs with attempts := min p.maxAttempts r.cs.attempts }
          ∧ (t.slot i).hm = { r.hm with watched := decide (p.watchT ≤ r.hm.score) } ∧ (t.slot i).tt = r.tt
          ∧ (t.slot i).pru = r.pru ∧ (∀ j, j ≠ i → t.slot j = s.slot j)
          ∧ (i ≠ 7 → t.ri.work = .policy ⟨s.readId, s.tb.counter + 65535⟩ (i + 1) rej)
          ∧ (i = 7 →
            t.ri.state = .stopped ∧ t.ri.initValid = true ∧ t.ri.initRejected = rej ∧ t.ri.causes.initDone = true
              ∧ t.ri.actionPtr = 0 ∧ t.ri.incidentPtr = 0 ∧ t.ri.work = .idle)

/-- The reads of the Action Ring. At the action pointer an entry that software owns, or one in flight, ends the Action
Ring part of the scan; an ALONE one is taken and acts as its own row does, a FIRST one is looked ahead of, and MIDDLE
and LAST are returned BAD_CHAIN. The look-ahead goes on over MIDDLE entries of the slot up to the seventh place; any
other entry ends it, with FIRST returned BAD_CHAIN or, where software owns the entry, nothing taken. LAST completes the
plan: its entries are taken together and run in ring order, each one DONE starting the next in the event, and a failed
one SKIPS the rest. A scan that ends while another is asked for begins it in the same event. The actions of an entry
read start in the same event (log 18), answers to another read are discarded by identity (log 4), and the interrupt
message of the event follows the next read (log 33). -/
def Obligations.ActionEntryReadEnds : Prop :=
  ∀ (s : State) (ref : ReadRef) (cb : ControlBlock) (b : List Byte), s.summaryInLine →
    s.ri.cb = some cb → s.ri.state = .running → b.length = 32 →
    let owned := (b.getD 1 0).getLsbD 7; let chain := (b.getD 1 0).toNat / 16 % 4
    let code := b.getD 0 0; let slot : Slot := Fin.ofNat 8 (b.getD 1 0).toNat
    let args := fun (index : Nat) =>
      ({ index := index, argA := BitVec.ofNat 16 (leNat b 2 2), argB := BitVec.ofNat 32 (leNat b 4 4) } : ActionArgs)
    let entry := fun (index : Nat) =>
      ({ index := index, chain := chainOf chain, code := code, argA := (args index).argA, argB := (args index).argB } :
        ActEntry)
    let place := fun (n : Nat) => (s.ri.actionPtr + n) % cb.actionSize
    let c := Instr.actionEntryReadDone ref.id (.data b)
    let later : ReadRef := ⟨s.readId, s.tb.counter + 65535⟩
    let readAt := fun (n : Nat) => Output.hostRead .ringInterface s.readId (ringAddr cb.actionBase (place n)) 32
    let nothingTaken :=
      (s.iq = [] → s.ri.scanRequested = false → exec c s = .next { s with ri := { s.ri with work := .idle } })
      ∧ (s.iq = [] → s.ri.scanRequested = true →
        exec c s = .next
          { s with
            ri := { s.ri with scanRequested := false, scanTimer := some cb.scanInterval, work := .action later }
            out := s.out ++ [.hostRead .ringInterface s.readId (ringAddr cb.actionBase s.ri.actionPtr) 32]
            readId := s.readId + 1 })
      ∧ (s.iq ≠ [] →
        exec c s = .next
          { s with
            ri := { s.ri with work := .incident later }
            out := s.out ++ [.hostRead .ringInterface s.readId (ringAddr cb.incidentBase s.ri.incidentPtr) 32]
            readId := s.readId + 1 })
    let returned := fun (i : Slot) (e : ActEntry) (o : ActOutcome) =>
      ∃ t, exec c s = .next t ∧ t.slots = s.slots ∧ t.ri.actionPtr = place 1 ∧ t.ri.inFlight = s.ri.inFlight
        ∧ t.ri.causes.actionDone = true ∧ t.ri.work = .action later
        ∧ s.out ++ returnWrites cb.actionBase i e o (s.slot i).cs.state 0 s.tb.counter ++ [readAt 1] <+: t.out
    (∀ id res, s.ri.work = .action ref ∨ (∃ i es, s.ri.work = .lookAhead ref i es) → id ≠ ref.id →
      exec (.actionEntryReadDone id res) s = .next s)
    ∧ (s.ri.work = .action ref →
      let index := s.ri.actionPtr; let e := entry index
      (owned = false ∨ (∃ f ∈ s.ri.inFlight, f.index = index) → nothingTaken)
      ∧ (owned = true → (∀ f ∈ s.ri.inFlight, f.index ≠ index) →
        (chain = 0 → code = 0 → returned slot e .badCode)
        ∧ (chain = 0 → index < cb.actionSize →
          ∃ u t pre post, exec (actionRow slot code (args index)) s = .next u ∧ exec c s = .next t
            ∧ t.slots = u.slots ∧ t.rm = u.rm ∧ t.se = u.se ∧ t.iq = u.iq ∧ t.tb = u.tb ∧ t.signals = u.signals
            ∧ t.sampleTimer = u.sampleTimer ∧ t.senseInterval = u.senseInterval ∧ t.free = u.free
            ∧ t.readId = u.readId + 1
            ∧ t.ri = { u.ri with actionPtr := place 1, work := .action ⟨u.readId, s.tb.counter + 65535⟩ }
            ∧ u.out = pre ++ post
            ∧ t.out = pre ++ [.hostRead .ringInterface u.readId (ringAddr cb.actionBase (place 1)) 32] ++ post
            ∧ (post = [] ∨ post = [.interrupt cb.intBase (u.ri.readRegister .kstat)]))
        ∧ (chain = 2 ∨ chain = 3 → returned slot e .badChain)
        ∧ (chain = 1 →
          exec c s = .next
            { s with
              ri := { s.ri with work := .lookAhead later slot [e] }
              out := s.out ++ [readAt 1]
              readId := s.readId + 1 })))
    ∧ ∀ (i : Slot) (first : ActEntry) (mids : List ActEntry), s.ri.work = .lookAhead ref i (first :: mids) →
      let n := mids.length + 1; let e := entry (place n); let rest := mids ++ [e]
      (owned = false ∨ (∃ f ∈ s.ri.inFlight, f.index = place n) → nothingTaken)
      ∧ (owned = true → (∀ f ∈ s.ri.inFlight, f.index ≠ place n) →
        (slot ≠ i ∨ chain = 0 ∨ chain = 1 ∨ chain = 2 ∧ 7 ≤ n → (∀ f ∈ s.ri.inFlight, f.index ≠ first.index) →
          returned i first .badChain)
        ∧ (slot = i → chain = 2 → n < 7 →
          exec c s = .next
            { s with
              ri := { s.ri with work := .lookAhead later i (first :: rest) }
              out := s.out ++ [readAt (n + 1)]
              readId := s.readId + 1 })
        ∧ (slot = i → chain = 3 → (first :: rest).Pairwise (fun x y => x.index ≠ y.index) →
          (∀ x ∈ first :: rest, ∀ f ∈ s.ri.inFlight, f.index ≠ x.index) →
          let writes := fun (x : ActEntry) (o : ActOutcome) (result : Nat) =>
            returnWrites cb.actionBase i x o (s.slot i).cs.state result s.tb.counter
          (∃ t, exec c s = .next t ∧ t.ri.actionPtr = place (n + 1) ∧ (∃ later, t.ri.work = .action later))
          ∧ (first.code = 0 →
            ∃ t, exec c s = .next t ∧ t.slots = s.slots ∧ t.ri.inFlight = s.ri.inFlight
              ∧ s.out ++ writes first .badCode 0 ++ rest.flatMap (fun x => writes x .skipped 0) ++ [readAt (n + 1)]
                <+: t.out)
          ∧ (first.code = 11 → (s.slot i).policy ≠ none → first.argA = 0 → first.argB = 0 →
            (s.slot i).ad.occupant = .none →
            ∃ t, exec c s = .next t ∧ t.out = s.out ++ [readAt (n + 1)] ∧ (t.rm.req i).sample = true
              ∧ (t.slot i).ad.occupant = .plan ∧ (t.slot i).ad.current = some first ∧ (t.slot i).ad.remaining = rest
              ∧ t.ri.inFlight = s.ri.inFlight ++ (first :: rest).map fun x => ⟨x.index, s.tb.counter⟩)
          ∧ ∀ (second : ActEntry) (more : List ActEntry), rest = second :: more → first.code = 10 → first.argA = 0 →
            first.argB = 0 → (s.slot i).ad.occupant = .none →
            (second.code = 0 →
              ∃ t packed, exec c s = .next t ∧ (t.slot i).ad.occupant = .none ∧ (t.slot i).ad.current = none
                ∧ (t.slot i).ad.remaining = [] ∧ t.ri.inFlight = s.ri.inFlight
                ∧ s.out ++ writes first .done packed ++ writes second .badCode 0
                    ++ more.flatMap (fun x => writes x .skipped 0) ++ [readAt (n + 1)] <+: t.out)
            ∧ (second.code = 10 → second.argA = 0 → second.argB = 0 → more = [] →
              ∃ t packed, exec c s = .next t ∧ (t.slot i).ad.occupant = .none ∧ t.ri.inFlight = s.ri.inFlight
                ∧ s.out ++ writes first .done packed ++ writes second .done packed ++ [readAt (n + 1)] <+: t.out)
            ∧ (second.code = 11 → (s.slot i).policy ≠ none → second.argA = 0 → second.argB = 0 →
              ∃ t packed, exec c s = .next t ∧ (t.slot i).ad.occupant = .plan ∧ (t.slot i).ad.current = some second
                ∧ (t.slot i).ad.remaining = more
                ∧ t.ri.inFlight = s.ri.inFlight ++ (second :: more).map (fun x => ⟨x.index, s.tb.counter⟩)
                ∧ s.out ++ writes first .done packed ++ [readAt (n + 1)] <+: t.out)))

/-- A read error on a ring entry, one of the look-ahead included (Unsupported, Aborted, short, or its deadline reached),
halts the interface with MEM_ERROR. A deadline is reached when the counter took its value less than 2^31 ticks ago (log
6). -/
def Obligations.RingReadErrorsHalt : Prop :=
  ∀ (s : State) (ref : ReadRef) (c : Instr) (res : ReadResult),
    (res = .unsupported ∨ res = .aborted ∨ ∃ b : List Byte, b.length < 32 ∧ res = .data b) →
    ((s.ri.work = .action ref ∨ ∃ i e es, s.ri.work = .lookAhead ref i (e :: es)) ∧ c = .actionEntryReadDone ref.id res
      ∨ s.ri.work = .incident ref ∧ c = .incidentEntryReadDone ref.id res
      ∨ (s.ri.work = .action ref ∨ s.ri.work = .incident ref ∨ ∃ i es, s.ri.work = .lookAhead ref i es)
        ∧ c = .riReadDeadline ∧ (s.tb.counter - ref.deadline).toNat < 2 ^ 31) →
    ∃ t, exec c s = .next t ∧ t.slots = s.slots ∧ t.iq = s.iq ∧ t.rm = s.rm ∧ t.se = s.se
      ∧ { t.ri with summary := s.ri.summary } =
        { s.ri with
          state := .halted, work := .idle, scanRequested := false, scanTimer := none
          causes := { s.ri.causes with memError := true } }

/-- The read of the entry at the incident pointer: an entry of the part takes the oldest incident, body first and
control word last, and the pointer moves on; an entry of software ends the scan, and so does the last incident. A scan
that ends while another is asked for begins it in the same event: the request is cleared, the scan timer reloaded, and the
entry at the action pointer read. Answers to another read are discarded by identity (log 4), and the interrupt message of
the event follows the next read (log 33). -/
def Obligations.IncidentEntryReadEnds : Prop :=
  ∀ (s : State) (ref : ReadRef) (cb : ControlBlock) (b : List Byte), s.summaryInLine → s.ri.work = .incident ref →
    s.ri.cb = some cb → s.ri.state = .running → b.length = 32 →
    let later : ReadRef := ⟨s.readId, s.tb.counter + 65535⟩
    let examine := Output.hostRead .ringInterface s.readId (ringAddr cb.actionBase s.ri.actionPtr) 32
    (∀ id res, id ≠ ref.id → exec (.incidentEntryReadDone id res) s = .next s)
    ∧ ((b.getD 1 0).getLsbD 7 = false → s.ri.scanRequested = false →
      exec (.incidentEntryReadDone ref.id (.data b)) s = .next { s with ri := { s.ri with work := .idle } })
    ∧ ((b.getD 1 0).getLsbD 7 = false → s.ri.scanRequested = true →
      exec (.incidentEntryReadDone ref.id (.data b)) s = .next
        { s with
          ri := { s.ri with scanRequested := false, scanTimer := some cb.scanInterval, work := .action later }
          out := s.out ++ [examine]
          readId := s.readId + 1 })
    ∧ ∀ (x : Incident) (rest : List Incident), (b.getD 1 0).getLsbD 7 = true → s.iq = x :: rest →
      ∃ t, exec (.incidentEntryReadDone ref.id (.data b)) s = .next t ∧ t.iq = rest ∧ t.slots = s.slots
        ∧ t.ri.incidentPtr = (s.ri.incidentPtr + 1) % cb.incidentSize ∧ t.ri.causes.incident = true
        ∧ s.out ++
            ([.hostWrite (ringAddr cb.incidentBase s.ri.incidentPtr + 2)
                (toLE 1 x.state.code ++ toLE 1 x.mergedCount ++ toLE 4 x.merged.toNat ++ toLE 4 x.timestamp.toNat
                  ++ toLE 2 x.score ++ toLE 1 x.attempts ++ toLE 1 x.trigger.code ++ toLE 4 x.countA
                  ++ toLE 4 x.countB ++ toLE 8 x.detail.toNat),
              .hostWrite (ringAddr cb.incidentBase s.ri.incidentPtr) (toLE 2 (256 * x.slot.val + x.kind.code))]
            ++ (if rest ≠ [] then
                [.hostRead .ringInterface s.readId
                  (ringAddr cb.incidentBase ((s.ri.incidentPtr + 1) % cb.incidentSize)) 32]
              else if s.ri.scanRequested = true then [examine] else []))
          <+: t.out
        ∧ (rest = [] → s.ri.scanRequested = false → t.ri.work = .idle ∧ t.ri.scanTimer = s.ri.scanTimer)
        ∧ (rest = [] → s.ri.scanRequested = true →
          t.ri.work = .action later ∧ t.ri.scanRequested = false ∧ t.ri.scanTimer = some cb.scanInterval)
        ∧ (rest ≠ [] →
          t.ri.work = .incident later ∧ t.ri.scanRequested = s.ri.scanRequested ∧ t.ri.scanTimer = s.ri.scanTimer)

/-- The scan timer at 0 in RUNNING begins a scan, or asks for one while a scan is in progress; otherwise nothing
changes, which for an expiry that is not due is the model's choice (log 5). The timer stays stopped after an expiry
during a scan (log 24). -/
def Obligations.ScanTimerBeginsAScan : Prop :=
  ∀ (s : State) (cb : ControlBlock),
    (s.ri.state ≠ .running ∨ s.ri.scanTimer ≠ some 0 → exec .scanTimerExpiry s = .next s)
    ∧ (s.ri.state = .running → s.ri.scanTimer = some 0 → s.ri.work = .idle → s.ri.cb = some cb →
      exec .scanTimerExpiry s = .next
        { s with
          ri := { s.ri with
            scanTimer := some cb.scanInterval, work := .action ⟨s.readId, s.tb.counter + 65535⟩ }
          out := s.out ++ [.hostRead .ringInterface s.readId (ringAddr cb.actionBase s.ri.actionPtr) 32]
          readId := s.readId + 1 })
    ∧ (s.ri.state = .running → s.ri.scanTimer = some 0 → s.ri.work.scanning = true →
      exec .scanTimerExpiry s = .next { s with ri := { s.ri with scanTimer := none, scanRequested := true } })

/-! ## Incidents -/

/-- An incident raised for a slot with 4 in the queue merges into the newest of them, which keeps its kind, its place
and its fields: the set of merged kinds takes the new kind, and the count goes up and holds at 255. With fewer than 4
it is queued at the tail, with the common fields as they stand. -/
def Obligations.FifthIncidentMergesIntoTheNewest : Prop :=
  ∀ (s : State) (i : Slot) (k : IncKind) (a b : Nat) (d : BitVec 64), let r := s.slot i; let t := s.raise i k a b d
    t.slots = s.slots ∧ t.out = s.out
    ∧ (∀ (before after : List Incident) (x : Incident),
      s.iq = before ++ x :: after → x.slot = i → (∀ y ∈ after, y.slot ≠ i) → 4 ≤ queuedFor i s.iq →
      ∃ y, t.iq = before ++ y :: after
        ∧ (∀ n, n < 32 → y.merged.getLsbD n = (x.merged.getLsbD n || decide (n = k.code)))
        ∧ y.mergedCount = min 255 (x.mergedCount + 1)
        ∧ { y with merged := x.merged, mergedCount := x.mergedCount } = x)
    ∧ (queuedFor i s.iq < 4 →
      t.iq = s.iq ++
        [{ slot := i, kind := k, state := r.cs.state, timestamp := s.tb.counter, score := r.hm.score
           attempts := r.cs.attempts, trigger := r.cs.trigger, mergedCount := 0, merged := 0, countA := a, countB := b
           detail := d }])

/-! ## Laws -/

/-- Right after power-on reset every law of the part holds. -/
def Obligations.ResetKeepsEveryLaw : Prop :=
  State.reset.incidentsBounded ∧ State.reset.scoresBounded ∧ State.reset.watchFollows ∧ State.reset.classesFollow
    ∧ State.reset.tagsBelong ∧ State.reset.attemptsBounded ∧ State.reset.policiesSound ∧ State.reset.summaryInLine
    ∧ State.reset.plansSettled ∧ State.reset.sequencesSound ∧ State.reset.powerLaw ∧ State.reset.trafficSound
    ∧ State.reset.heldRequestsWait ∧ State.reset.signalLaw

/-- Every step keeps: at most 4 incidents of a slot and 32 in all, every score at most 1023, the disposition class of
the slot state, engine accesses on tag 31 alone, every loaded policy by R168 and apart from the others, attempts within
the policy's maximum, and WATCHED in line with the score. -/
def Obligations.StepsKeepTheRecordsWithinBounds : Prop :=
  (∀ (s t : State), step s = .next t →
      (s.incidentsBounded → t.incidentsBounded) ∧ (s.scoresBounded → t.scoresBounded))
    ∧ (∀ (s t : State), step s = .next t →
      (s.classesFollow → t.classesFollow) ∧ (s.tagsBelong → t.tagsBelong))
    ∧ ∀ (s t : State), s.policiesSound → step s = .next t →
      t.policiesSound ∧ (s.attemptsBounded → t.attemptsBounded) ∧ (s.watchFollows → t.watchFollows)

/-- At the end of every event the summary is the OR of cause AND enable, and no plan is left between two entries. -/
def Obligations.StepsEndInLine : Prop :=
  ∀ (s t : State), s.summaryInLine → s.plansSettled → step s = .next t → t.summaryInLine ∧ t.plansSettled

/-- The outputs and the phase of a slot agree with its state, and the shares and the engine's operations with both:
every step keeps it; and wherever power is OFF, reset is ASSERTED and isolation OPEN, after each single change of an
output as well as between events. The list of output changes is the model's own (log 36). -/
def Obligations.StepsKeepOutputsAndStatesInAgreement : Prop :=
  (∀ (s t : State), s.sequencesSound → step s = .next t → t.sequencesSound)
    ∧ (∀ s : State, s.sequencesSound → s.powerLaw)
    ∧ ∀ (s t : State), s.sequencesSound → s.signalLaw → step s = .next t → t.signalLaw

/-- LIVE host entries and held requests exist only in ONLINE, PROBATION and HELD, and a request is held only while no
tag can be taken for it: every step keeps it. That the tags belong to their owners, as the premise asks, is a law that
`StepsKeepTheRecordsWithinBounds` states. -/
def Obligations.StepsKeepTrafficWithTheStates : Prop :=
  ∀ (s t : State), s.sequencesSound → s.tagsBelong → s.trafficSound → step s = .next t →
    t.trafficSound ∧ (s.heldRequestsWait → t.heldRequestsWait)

/-! ## Promotion -/

/-- A tag that can be taken goes to the oldest held request: the lowest-numbered FREE one, with the deadline the
request had. At a final completion the freed tag counts; at an expiry the tag stays STALE, and the promotion follows
HM's taking of the expiry: where it fences the slot the held requests are answered Aborted and none is sent down. That
a deadline is reached when the counter took its value less than 2^31 ticks ago is the model's reading (log 6). -/
def Obligations.PromotionTakesTheOldestHeldRequest : Prop :=
  ∀ (s : State) (i : Slot) (k l : Tag) (f : OrtFields) (q : Requester) (b : Bool) (h : Held) (rest : List Held) (p : Policy),
    let r := s.slot i
    let limit := if r.cs.state = .probation ∨ r.hm.watched = true then p.probLimit else p.outLimit
    let sent : OrtEntry :=
      .live
        { origin := .host h.request.req, kind := h.request.op.kind, dwords := h.request.op.dwords
          bytes := h.request.op.bytes, deadline := h.deadline, parts := 0 }
    s.summaryInLine → s.watchFollows → r.planSettled → r.policy = some p → r.cs.state.tracks = true → k ≠ engineTag →
    r.tt.hold = h :: rest → r.tt.entry k = .live f → f.origin = .host q → r.tt.liveHost = limit →
    (∀ c : CardCpl, c.status = .success → c.data.length ≤ f.bytes → (f.kind = .memoryRead → c.remaining = 0) →
      r.hm.watched = false → r.cs.state ≠ .probation →
      l ≠ engineTag → (l = k ∨ r.tt.entry l = .free) → (∀ m, m < l → m ≠ k ∧ r.tt.entry m ≠ .free) →
      exec (.cardCompletion i k.val c b) s = .next
        { s.setSlot i
            { r with
              tt := { (r.tt.setEntry k .free).setEntry l sent with hold := rest }
              hm := { r.hm with
                score := r.hm.score - 1, alert := r.hm.alert && decide (p.fenceT ≤ r.hm.score - 1) } } with
          out := s.out ++ [.completion q c, .sendDown i l h.request.op] })
    ∧ ((s.tb.counter - f.deadline).toNat < 2 ^ 31 → r.calm 8 → l ≠ engineTag → r.tt.entry l = .free →
      (∀ m, m < l → r.tt.entry m ≠ .free) →
      exec (.deadlineExpiry i k b) s = .next
        { s.setSlot i
            { r.scored 8 with
              tt := { (r.tt.setEntry k (.stale f)).setEntry l sent with hold := rest }
              hm := { r.hm with score := r.hm.score + 8, alert := false, firstExpiry := true } } with
          out := s.out ++
            [.completion q { status := .aborted, data := [], remaining := 0 }, .sendDown i l h.request.op]
          iq :=
            if r.hm.firstExpiry then s.iq
            else
              iwTake
                { slot := i, kind := .deadlineExpired, state := r.cs.state, timestamp := s.tb.counter
                  score := r.hm.score + 8, attempts := r.cs.attempts, trigger := r.cs.trigger, mergedCount := 0
                  merged := 0, countA := k.val, countB := f.kind.code, detail := 0 }
                s.iq })
    ∧ ((s.tb.counter - f.deadline).toNat < 2 ^ 31 → r.hm.score + 8 ≤ 1023 → p.drain ≠ 0 →
      (r.cs.state = .probation ∧ r.hm.score < p.probT ∧ p.probT ≤ r.hm.score + 8
        ∨ r.cs.state ≠ .probation ∧ p.autoContain = true ∧ r.hm.score < p.fenceT ∧ p.fenceT ≤ r.hm.score + 8) →
      ∃ t, exec (.deadlineExpiry i k b) s = .next t ∧ (t.slot i).cs.state = .fenced ∧ (t.slot i).tt.hold = []
        ∧ s.out ++ [.completion q { status := .aborted, data := [], remaining := 0 }]
            ++ (r.tt.setEntry k (.stale f)).abortLive ++ r.tt.abortHeld <+: t.out
        ∧ ∀ o ∈ t.out.drop s.out.length, ∀ m op, o ≠ .sendDown i m op)
end

