-- ==== Sys2Proof/Laws/State.lean ====
section
/-! SUPPORT. One lemma per field of the state and per update of Machine/Ops.lean, so that no later proof unfolds one. -/

namespace Sys2Proof.Machine

open Sys2Proof

/-! ## Vectors by index -/

theorem get_eq {α : Type} {n : Nat} (v : Vector α n) (i : Fin n) : v.get i = v[i.val] := rfl

theorem get_set_self {α : Type} {n : Nat} (v : Vector α n) (i : Fin n) (x : α) : (v.set i x).get i = x := by
  simp [get_eq]

theorem get_set_ne {α : Type} {n : Nat} (v : Vector α n) (i j : Fin n) (x : α) (h : j ≠ i) :
    (v.set i x).get j = v.get j := by
  have : (i : Nat) ≠ j := fun e => h (Fin.ext e.symm)
  simp [get_eq, this]

@[simp] theorem get_mapVec {α : Type} {n : Nat} (f : α → α) (v : Vector α n) (i : Fin n) :
    (mapVec f v).get i = f (v.get i) := by
  simp [get_eq, mapVec]

/-! ## Slots -/

@[simp] theorem State.setSlot_slot_self (s : State) (i : Slot) (r : SlotRec) : (s.setSlot i r).slot i = r :=
  get_set_self _ _ _

theorem State.setSlot_slot_ne (s : State) (i j : Slot) (r : SlotRec) (h : j ≠ i) :
    (s.setSlot i r).slot j = s.slot j := get_set_ne _ _ _ _ h

@[simp] theorem State.setSlot_tb (s : State) (i : Slot) (r : SlotRec) : (s.setSlot i r).tb = s.tb := rfl
@[simp] theorem State.setSlot_sampleTimer (s : State) (i : Slot) (r : SlotRec) :
    (s.setSlot i r).sampleTimer = s.sampleTimer := rfl
@[simp] theorem State.setSlot_senseInterval (s : State) (i : Slot) (r : SlotRec) :
    (s.setSlot i r).senseInterval = s.senseInterval := rfl
@[simp] theorem State.setSlot_rm (s : State) (i : Slot) (r : SlotRec) : (s.setSlot i r).rm = s.rm := rfl
@[simp] theorem State.setSlot_se (s : State) (i : Slot) (r : SlotRec) : (s.setSlot i r).se = s.se := rfl
@[simp] theorem State.setSlot_ri (s : State) (i : Slot) (r : SlotRec) : (s.setSlot i r).ri = s.ri := rfl
@[simp] theorem State.setSlot_iq (s : State) (i : Slot) (r : SlotRec) : (s.setSlot i r).iq = s.iq := rfl
@[simp] theorem State.setSlot_out (s : State) (i : Slot) (r : SlotRec) : (s.setSlot i r).out = s.out := rfl
@[simp] theorem State.setSlot_signals (s : State) (i : Slot) (r : SlotRec) :
    (s.setSlot i r).signals = s.signals := rfl
@[simp] theorem State.setSlot_readId (s : State) (i : Slot) (r : SlotRec) : (s.setSlot i r).readId = s.readId := rfl
@[simp] theorem State.setSlot_free (s : State) (i : Slot) (r : SlotRec) : (s.setSlot i r).free = s.free := rfl
@[simp] theorem State.setSlot_pending (s : State) (i : Slot) (r : SlotRec) : (s.setSlot i r).pending = s.pending := rfl

@[simp] theorem State.modSlot_slot_self (s : State) (i : Slot) (f : SlotRec → SlotRec) :
    (s.modSlot i f).slot i = f (s.slot i) := get_set_self _ _ _

theorem State.modSlot_slot_ne (s : State) (i j : Slot) (f : SlotRec → SlotRec) (h : j ≠ i) :
    (s.modSlot i f).slot j = s.slot j := get_set_ne _ _ _ _ h

@[simp] theorem State.modSlot_tb (s : State) (i : Slot) (f : SlotRec → SlotRec) : (s.modSlot i f).tb = s.tb := rfl
@[simp] theorem State.modSlot_sampleTimer (s : State) (i : Slot) (f : SlotRec → SlotRec) :
    (s.modSlot i f).sampleTimer = s.sampleTimer := rfl
@[simp] theorem State.modSlot_senseInterval (s : State) (i : Slot) (f : SlotRec → SlotRec) :
    (s.modSlot i f).senseInterval = s.senseInterval := rfl
@[simp] theorem State.modSlot_rm (s : State) (i : Slot) (f : SlotRec → SlotRec) : (s.modSlot i f).rm = s.rm := rfl
@[simp] theorem State.modSlot_se (s : State) (i : Slot) (f : SlotRec → SlotRec) : (s.modSlot i f).se = s.se := rfl
@[simp] theorem State.modSlot_ri (s : State) (i : Slot) (f : SlotRec → SlotRec) : (s.modSlot i f).ri = s.ri := rfl
@[simp] theorem State.modSlot_iq (s : State) (i : Slot) (f : SlotRec → SlotRec) : (s.modSlot i f).iq = s.iq := rfl
@[simp] theorem State.modSlot_out (s : State) (i : Slot) (f : SlotRec → SlotRec) : (s.modSlot i f).out = s.out := rfl
@[simp] theorem State.modSlot_signals (s : State) (i : Slot) (f : SlotRec → SlotRec) :
    (s.modSlot i f).signals = s.signals := rfl
@[simp] theorem State.modSlot_readId (s : State) (i : Slot) (f : SlotRec → SlotRec) :
    (s.modSlot i f).readId = s.readId := rfl
@[simp] theorem State.modSlot_free (s : State) (i : Slot) (f : SlotRec → SlotRec) : (s.modSlot i f).free = s.free := rfl
@[simp] theorem State.modSlot_pending (s : State) (i : Slot) (f : SlotRec → SlotRec) :
    (s.modSlot i f).pending = s.pending := rfl

/-! ## Slot outputs -/

@[simp] theorem State.drives_signals (s : State) (cs : List SignalChange) :
    (s.drives cs).signals = s.signals ++ cs := rfl
@[simp] theorem State.drives_slot (s : State) (cs : List SignalChange) (i : Slot) : (s.drives cs).slot i = s.slot i := rfl
@[simp] theorem State.drives_tb (s : State) (cs : List SignalChange) : (s.drives cs).tb = s.tb := rfl
@[simp] theorem State.drives_sampleTimer (s : State) (cs : List SignalChange) : (s.drives cs).sampleTimer = s.sampleTimer := rfl
@[simp] theorem State.drives_senseInterval (s : State) (cs : List SignalChange) : (s.drives cs).senseInterval = s.senseInterval := rfl
@[simp] theorem State.drives_rm (s : State) (cs : List SignalChange) : (s.drives cs).rm = s.rm := rfl
@[simp] theorem State.drives_se (s : State) (cs : List SignalChange) : (s.drives cs).se = s.se := rfl
@[simp] theorem State.drives_ri (s : State) (cs : List SignalChange) : (s.drives cs).ri = s.ri := rfl
@[simp] theorem State.drives_iq (s : State) (cs : List SignalChange) : (s.drives cs).iq = s.iq := rfl
@[simp] theorem State.drives_out (s : State) (cs : List SignalChange) : (s.drives cs).out = s.out := rfl
@[simp] theorem State.drives_readId (s : State) (cs : List SignalChange) : (s.drives cs).readId = s.readId := rfl
@[simp] theorem State.drives_free (s : State) (cs : List SignalChange) : (s.drives cs).free = s.free := rfl
@[simp] theorem State.drives_pending (s : State) (cs : List SignalChange) : (s.drives cs).pending = s.pending := rfl

@[simp] theorem State.modPru_slot_self (s : State) (i : Slot) (f : PruRec → PruRec) :
    (s.modPru i f).slot i = { s.slot i with pru := f (s.slot i).pru } := get_set_self _ _ _

theorem State.modPru_slot_ne (s : State) (i j : Slot) (f : PruRec → PruRec) (h : j ≠ i) :
    (s.modPru i f).slot j = s.slot j := get_set_ne _ _ _ _ h

@[simp] theorem State.modPru_signals (s : State) (i : Slot) (f : PruRec → PruRec) :
    (s.modPru i f).signals = s.signals ++ signalChanges i (s.slot i).pru (f (s.slot i).pru) := rfl
@[simp] theorem State.modPru_tb (s : State) (i : Slot) (f : PruRec → PruRec) : (s.modPru i f).tb = s.tb := rfl
@[simp] theorem State.modPru_sampleTimer (s : State) (i : Slot) (f : PruRec → PruRec) : (s.modPru i f).sampleTimer = s.sampleTimer := rfl
@[simp] theorem State.modPru_senseInterval (s : State) (i : Slot) (f : PruRec → PruRec) : (s.modPru i f).senseInterval = s.senseInterval := rfl
@[simp] theorem State.modPru_rm (s : State) (i : Slot) (f : PruRec → PruRec) : (s.modPru i f).rm = s.rm := rfl
@[simp] theorem State.modPru_se (s : State) (i : Slot) (f : PruRec → PruRec) : (s.modPru i f).se = s.se := rfl
@[simp] theorem State.modPru_ri (s : State) (i : Slot) (f : PruRec → PruRec) : (s.modPru i f).ri = s.ri := rfl
@[simp] theorem State.modPru_iq (s : State) (i : Slot) (f : PruRec → PruRec) : (s.modPru i f).iq = s.iq := rfl
@[simp] theorem State.modPru_out (s : State) (i : Slot) (f : PruRec → PruRec) : (s.modPru i f).out = s.out := rfl
@[simp] theorem State.modPru_readId (s : State) (i : Slot) (f : PruRec → PruRec) : (s.modPru i f).readId = s.readId := rfl
@[simp] theorem State.modPru_free (s : State) (i : Slot) (f : PruRec → PruRec) : (s.modPru i f).free = s.free := rfl
@[simp] theorem State.modPru_pending (s : State) (i : Slot) (f : PruRec → PruRec) : (s.modPru i f).pending = s.pending := rfl

/-- Every change that one update of a slot's record makes is a change of that slot. -/
theorem signalChanges_slot {i : Slot} {old new : PruRec} {c : SignalChange} (h : c ∈ signalChanges i old new) :
    c.slot = i := by
  simp only [signalChanges, List.mem_append] at h
  rcases h with ((((((h | h) | h) | h) | h) | h) | h) | h <;> split at h <;> simp at h <;> simp [h]

/-- An update that leaves the four outputs as they are changes no signal. -/
theorem signalChanges_nil (i : Slot) (old new : PruRec) (h1 : new.isoOpen = old.isoOpen)
    (h2 : new.asserted = old.asserted) (h3 : new.power = old.power) (h4 : new.bleed = old.bleed) :
    signalChanges i old new = [] := by
  simp [signalChanges, h1, h2, h3, h4]

/-! ## Outputs and reads -/

@[simp] theorem State.emits_out (s : State) (os : List Output) : (s.emits os).out = s.out ++ os := rfl
@[simp] theorem State.emits_signals (s : State) (os : List Output) :
    (s.emits os).signals = s.signals := rfl
@[simp] theorem State.emits_slot (s : State) (os : List Output) (i : Slot) : (s.emits os).slot i = s.slot i := rfl
@[simp] theorem State.emits_tb (s : State) (os : List Output) : (s.emits os).tb = s.tb := rfl
@[simp] theorem State.emits_sampleTimer (s : State) (os : List Output) : (s.emits os).sampleTimer = s.sampleTimer := rfl
@[simp] theorem State.emits_senseInterval (s : State) (os : List Output) :
    (s.emits os).senseInterval = s.senseInterval := rfl
@[simp] theorem State.emits_rm (s : State) (os : List Output) : (s.emits os).rm = s.rm := rfl
@[simp] theorem State.emits_se (s : State) (os : List Output) : (s.emits os).se = s.se := rfl
@[simp] theorem State.emits_ri (s : State) (os : List Output) : (s.emits os).ri = s.ri := rfl
@[simp] theorem State.emits_iq (s : State) (os : List Output) : (s.emits os).iq = s.iq := rfl
@[simp] theorem State.emits_readId (s : State) (os : List Output) : (s.emits os).readId = s.readId := rfl
@[simp] theorem State.emits_free (s : State) (os : List Output) : (s.emits os).free = s.free := rfl
@[simp] theorem State.emits_pending (s : State) (os : List Output) : (s.emits os).pending = s.pending := rfl
@[simp] theorem State.emit_eq (s : State) (o : Output) : s.emit o = s.emits [o] := rfl

@[simp] theorem State.issueRead_slot (s : State) (w : Reader) (a : Addr) (n : Nat) (i : Slot) :
    (s.issueRead w a n).slot i = s.slot i := rfl
@[simp] theorem State.issueRead_out (s : State) (w : Reader) (a : Addr) (n : Nat) :
    (s.issueRead w a n).out = s.out ++ [.hostRead w s.readId a n] := rfl
@[simp] theorem State.issueRead_signals (s : State) (w : Reader) (a : Addr) (n : Nat) :
    (s.issueRead w a n).signals = s.signals := rfl
@[simp] theorem State.issueRead_readId (s : State) (w : Reader) (a : Addr) (n : Nat) :
    (s.issueRead w a n).readId = s.readId + 1 := rfl
@[simp] theorem State.issueRead_tb (s : State) (w : Reader) (a : Addr) (n : Nat) : (s.issueRead w a n).tb = s.tb := rfl
@[simp] theorem State.issueRead_sampleTimer (s : State) (w : Reader) (a : Addr) (n : Nat) :
    (s.issueRead w a n).sampleTimer = s.sampleTimer := rfl
@[simp] theorem State.issueRead_senseInterval (s : State) (w : Reader) (a : Addr) (n : Nat) :
    (s.issueRead w a n).senseInterval = s.senseInterval := rfl
@[simp] theorem State.issueRead_rm (s : State) (w : Reader) (a : Addr) (n : Nat) : (s.issueRead w a n).rm = s.rm := rfl
@[simp] theorem State.issueRead_se (s : State) (w : Reader) (a : Addr) (n : Nat) : (s.issueRead w a n).se = s.se := rfl
@[simp] theorem State.issueRead_ri (s : State) (w : Reader) (a : Addr) (n : Nat) : (s.issueRead w a n).ri = s.ri := rfl
@[simp] theorem State.issueRead_iq (s : State) (w : Reader) (a : Addr) (n : Nat) : (s.issueRead w a n).iq = s.iq := rfl
@[simp] theorem State.issueRead_free (s : State) (w : Reader) (a : Addr) (n : Nat) :
    (s.issueRead w a n).free = s.free := rfl
@[simp] theorem State.issueRead_pending (s : State) (w : Reader) (a : Addr) (n : Nat) :
    (s.issueRead w a n).pending = s.pending := rfl

/-! ## Incidents -/

@[simp] theorem State.raise_slot (s : State) (i : Slot) (k : IncKind) (a b : Nat) (d : BitVec 64) (j : Slot) :
    (s.raise i k a b d).slot j = s.slot j := rfl
@[simp] theorem State.raise_tb (s : State) (i : Slot) (k : IncKind) (a b : Nat) (d : BitVec 64) :
    (s.raise i k a b d).tb = s.tb := rfl
@[simp] theorem State.raise_sampleTimer (s : State) (i : Slot) (k : IncKind) (a b : Nat) (d : BitVec 64) :
    (s.raise i k a b d).sampleTimer = s.sampleTimer := rfl
@[simp] theorem State.raise_senseInterval (s : State) (i : Slot) (k : IncKind) (a b : Nat) (d : BitVec 64) :
    (s.raise i k a b d).senseInterval = s.senseInterval := rfl
@[simp] theorem State.raise_rm (s : State) (i : Slot) (k : IncKind) (a b : Nat) (d : BitVec 64) :
    (s.raise i k a b d).rm = s.rm := rfl
@[simp] theorem State.raise_se (s : State) (i : Slot) (k : IncKind) (a b : Nat) (d : BitVec 64) :
    (s.raise i k a b d).se = s.se := rfl
@[simp] theorem State.raise_ri (s : State) (i : Slot) (k : IncKind) (a b : Nat) (d : BitVec 64) :
    (s.raise i k a b d).ri = s.ri := rfl
@[simp] theorem State.raise_iq (s : State) (i : Slot) (k : IncKind) (a b : Nat) (d : BitVec 64) :
    (s.raise i k a b d).iq = iwTake (s.incident i k a b d) s.iq := rfl
@[simp] theorem State.raise_out (s : State) (i : Slot) (k : IncKind) (a b : Nat) (d : BitVec 64) :
    (s.raise i k a b d).out = s.out := rfl
@[simp] theorem State.raise_signals (s : State) (i : Slot) (k : IncKind) (a b : Nat) (d : BitVec 64) :
    (s.raise i k a b d).signals = s.signals := rfl
@[simp] theorem State.raise_readId (s : State) (i : Slot) (k : IncKind) (a b : Nat) (d : BitVec 64) :
    (s.raise i k a b d).readId = s.readId := rfl
@[simp] theorem State.raise_free (s : State) (i : Slot) (k : IncKind) (a b : Nat) (d : BitVec 64) :
    (s.raise i k a b d).free = s.free := rfl
@[simp] theorem State.raise_pending (s : State) (i : Slot) (k : IncKind) (a b : Nat) (d : BitVec 64) :
    (s.raise i k a b d).pending = s.pending := rfl

/-! ## The tracker and the converter by index -/

@[simp] theorem TtRec.setEntry_self (t : TtRec) (k : Tag) (e : OrtEntry) : (t.setEntry k e).entry k = e :=
  get_set_self _ _ _

theorem TtRec.setEntry_ne (t : TtRec) (k l : Tag) (e : OrtEntry) (h : l ≠ k) :
    (t.setEntry k e).entry l = t.entry l := get_set_ne _ _ _ _ h

@[simp] theorem TtRec.setEntry_hold (t : TtRec) (k : Tag) (e : OrtEntry) : (t.setEntry k e).hold = t.hold := rfl
@[simp] theorem TtRec.setEntry_discard (t : TtRec) (k : Tag) (e : OrtEntry) : (t.setEntry k e).discard = t.discard := rfl

@[simp] theorem TtRec.cutOff_entry (t : TtRec) (k : Tag) : t.cutOff.entry k = (t.entry k).toStale := get_mapVec _ _ _
@[simp] theorem TtRec.cutOff_hold (t : TtRec) : t.cutOff.hold = [] := rfl
@[simp] theorem TtRec.cutOff_discard (t : TtRec) : t.cutOff.discard = t.discard := rfl

@[simp] theorem TtRec.freeAll_entry (t : TtRec) (k : Tag) : t.freeAll.entry k = .free := by
  simp [TtRec.freeAll, TtRec.entry, get_eq]

@[simp] theorem TtRec.freeAll_hold (t : TtRec) : t.freeAll.hold = [] := rfl
@[simp] theorem TtRec.freeAll_discard (t : TtRec) : t.freeAll.discard = t.discard := rfl

@[simp] theorem RmRec.setReq_self (m : RmRec) (i : Slot) (q : RailReq) : (m.setReq i q).req i = q := get_set_self _ _ _

theorem RmRec.setReq_ne (m : RmRec) (i j : Slot) (q : RailReq) (h : j ≠ i) : (m.setReq i q).req j = m.req j :=
  get_set_ne _ _ _ _ h

end Sys2Proof.Machine
end

