-- ==== Sys2Proof/Laws/Checks.lean ====
section
/-! SUPPORT. The checks of the model are the ones restated in Safety: policies (R168), the Control Block (R166) and the
shadow map (R99), and the order of a write-back (R112). -/

namespace Sys2Proof.Machine

open Sys2Proof

/-! ## Bytes -/

theorem byteAt_lt (b : List Byte) (k : Nat) : byteAt b k < 256 := (b.getD k 0).isLt

theorem leNat_lt (b : List Byte) (k n : Nat) : leNat b k n < 256 ^ n := by
  induction n generalizing k with
  | zero => simp [leNat]
  | succ n ih =>
    have h1 := byteAt_lt b k
    have h2 := ih (k + 1)
    simp only [leNat, Nat.pow_succ]
    omega

@[simp] theorem leNat_one (b : List Byte) (k : Nat) : leNat b k 1 = byteAt b k := by simp [leNat]

theorem leAddr_toNat (b : List Byte) (k : Nat) : (leAddr b k).toNat = leNat b k 8 := by
  have := leNat_lt b k 8
  simp only [leAddr, BitVec.toNat_ofNat]
  exact Nat.mod_eq_of_lt (by simpa using this)

theorem eq_leAddr (a : Addr) (b : List Byte) (k : Nat) : a = leAddr b k ↔ a.toNat = leNat b k 8 := by
  rw [BitVec.toNat_eq, leAddr_toNat]

/-! ## Policies (R168) -/

theorem Window.valid_iff (w : Window) : w.valid = true ↔ w.sound := by
  unfold Window.valid Window.sound kib4
  simp [and_assoc]

theorem Window.overlaps_iff (v w : Window) : v.overlaps w = false ↔ v.disjoint w := by
  simp only [Window.overlaps, Window.disjoint, Bool.and_eq_false_iff, decide_eq_false_iff_not]
  omega

theorem windowsApart_iff (ws : List Window) (h : ws.length ≤ 2) :
    windowsApart ws = true ↔ ∀ v w, ws = [v, w] → v.disjoint w := by
  match ws, h with
  | [], _ => simp [windowsApart]
  | [a], _ => simp [windowsApart]
  | [a, b], _ =>
    simp only [windowsApart, List.all_cons, List.all_nil, Bool.and_true, Bool.not_eq_true', List.cons.injEq, and_true]
    rw [Window.overlaps_iff]
    exact ⟨fun h v w e => e.1 ▸ e.2 ▸ h, fun h => h a b ⟨rfl, rfl⟩⟩

theorem inRange_iff (lo hi n : Nat) : inRange lo hi n = true ↔ lo ≤ n ∧ n ≤ hi := by simp [inRange]

theorem Policy.valid_iff (p : Policy) : p.valid = true ↔ p.sound := by
  have h1 : p.memWindows.all Window.valid = true ↔ ∀ w ∈ p.memWindows, w.sound := by
    simp [List.all_eq_true, Window.valid_iff]
  have h2 : p.permitWindows.all Window.valid = true ↔ ∀ w ∈ p.permitWindows, w.sound := by
    simp [List.all_eq_true, Window.valid_iff]
  by_cases hl : p.memWindows.length ≤ 2
  · simp only [Policy.valid, Policy.sound, durationOk, Bool.and_eq_true, inRange_iff, decide_eq_true_eq, h1, h2,
      windowsApart_iff _ hl, List.forall_mem_cons, List.not_mem_nil, false_implies, implies_true, and_true]
    tauto
  · simp only [Policy.valid, Policy.sound, Bool.and_eq_true, decide_eq_true_eq, hl]
    tauto

theorem Policy.apart_iff (p q : Policy) : p.apart q = true ↔ p.disjoint q := by
  simp only [Policy.apart, Policy.disjoint, Bool.and_eq_true, Bool.not_eq_true', Bool.and_eq_false_iff,
    decide_eq_false_iff_not, List.all_eq_true, Window.overlaps_iff, Nat.not_le]
  tauto

/-- The zero field of 12 bytes places of windows not in use. -/
theorem zeroFrom_iff (b : List Byte) (k n : Nat) : zeroFrom b k n = true ↔ leNat b k n = 0 := by simp [zeroFrom]

theorem leNat_add (b : List Byte) (k m n : Nat) : leNat b k (m + n) = leNat b k m + 256 ^ m * leNat b (k + m) n := by
  induction m generalizing k with
  | zero => simp [leNat]
  | succ m ih =>
    rw [Nat.succ_add]
    simp only [leNat, ih, Nat.pow_succ]
    rw [show k + 1 + m = k + (m + 1) by omega]
    ring

theorem leNat_add_zero (b : List Byte) (k m n : Nat) :
    leNat b k (m + n) = 0 ↔ leNat b k m = 0 ∧ leNat b (k + m) n = 0 := by
  rw [leNat_add]
  have : 0 < 256 ^ m := Nat.pos_of_ne_zero (by positivity)
  rw [Nat.add_eq_zero_iff, Nat.mul_eq_zero]
  constructor
  · rintro ⟨h, h' | h'⟩
    · omega
    · exact ⟨h, h'⟩
  · exact fun h => ⟨h.1, Or.inr h.2⟩

theorem windowAt_iff (b : List Byte) (k : Nat) (w : Window) :
    w = windowAt b k ↔ w.base.toNat = leNat b k 8 ∧ w.size = leNat b (k + 8) 4 + 1 := by
  cases w
  simp [windowAt, eq_leAddr]

/-- The windows at offset `k` are those of the list exactly when the fields in use give them and the rest is zero. -/
theorem windowsSay_iff (b : List Byte) (k places : Nat) (ws : List Window) (h : ws.length ≤ places) :
    windowsSay b k places ws ↔
      ws = (List.range ws.length).map (fun n => windowAt b (k + 12 * n))
        ∧ leNat b (k + 12 * ws.length) (12 * places - 12 * ws.length) = 0 := by
  induction ws generalizing k places with
  | nil =>
    simp only [windowsSay, List.length_nil, List.range_zero, List.map_nil, true_and, List.getElem?_nil, Nat.mul_zero,
      Nat.add_zero, Nat.sub_zero]
    clear h
    induction places generalizing k with
    | zero => simp [leNat]
    | succ n ih =>
      rw [show 12 * (n + 1) = 12 + 12 * n by omega, leNat_add_zero, ← ih (k + 12)]
      constructor
      · intro h
        exact ⟨by simpa using h 0 (by omega), fun m hm => by
          have := h (m + 1) (by omega)
          rwa [show k + 12 * (m + 1) = k + 12 + 12 * m by omega] at this⟩
      · rintro ⟨h0, h⟩ m hm
        cases m with
        | zero => simpa using h0
        | succ m =>
          have := h m (by omega)
          rwa [show k + 12 * (m + 1) = k + 12 + 12 * m by omega]
  | cons w ws ih =>
    obtain ⟨places, rfl⟩ : ∃ n, places = n + 1 := ⟨places - 1, by simp at h; omega⟩
    have ih := ih (k + 12) places (by simpa using h)
    have e1 : 12 * (places + 1) - 12 * (w :: ws).length = 12 * places - 12 * ws.length := by simp; omega
    have e2 : k + 12 * (w :: ws).length = k + 12 + 12 * ws.length := by simp; omega
    rw [e1, e2]
    have e3 : (List.range (w :: ws).length).map (fun n => windowAt b (k + 12 * n)) =
        windowAt b k :: (List.range ws.length).map (fun n => windowAt b (k + 12 + 12 * n)) := by
      rw [List.length_cons, List.range_succ_eq_map]
      simp [Function.comp_def, Nat.mul_succ, Nat.add_assoc, Nat.add_comm]
    rw [e3, List.cons.injEq, windowAt_iff, and_assoc, ← ih]
    constructor
    · intro h
      refine ⟨by simpa using h 0 (by omega), fun n hn => ?_⟩
      have := h (n + 1) (by omega)
      rwa [show k + 12 * (n + 1) = k + 12 + 12 * n by omega, List.getElem?_cons_succ] at this
    · rintro ⟨h0, h⟩ n hn
      cases n with
      | zero => simpa using h0
      | succ n =>
        have := h n (by omega)
        rwa [show k + 12 * (n + 1) = k + 12 + 12 * n by omega, List.getElem?_cons_succ]

theorem recKindOf_iff (n : Nat) (k : RecKind) : recKindOf n = some k ↔ k.code = n := by
  match n with
  | 0 | 1 | 2 => cases k <;> simp [recKindOf, RecKind.code]
  | n + 3 => cases k <;> simp [recKindOf, RecKind.code]

/-- The bytes of a record are parsed as `p` exactly when they say `p`, the window counts within their places. -/
theorem parsePolicy_iff (b : List Byte) (p : Policy) :
    parsePolicy b = some p ↔ p.says b ∧ p.memWindows.length ≤ 2 ∧ p.permitWindows.length ≤ 4 := by
  constructor
  · intro h
    unfold parsePolicy at h
    dsimp only at h
    split at h
    · simp at h
    next kind hk =>
      split at h
      next hc =>
        obtain ⟨h1, h2, h3, h4, h5, h6, h7, h8⟩ := hc
        rw [zeroFrom_iff] at h5 h6 h8
        have hk' := (recKindOf_iff _ _).1 hk
        obtain rfl := Option.some.inj h
        have hb4 := byteAt_lt b 4
        have hb5 := byteAt_lt b 5
        refine ⟨⟨?_, h2, rfl, rfl, rfl, rfl, rfl, rfl, rfl, ?_, ?_, ?_, ?_, ?_, ?_, ?_, ?_, leAddr_toNat _ _,
          leAddr_toNat _ _, ?_, ?_, ?_, ?_, rfl, rfl, rfl, rfl, rfl, h8⟩, by simpa using h3, by simpa using h4⟩
        · simp [Nat.testBit_zero, h1]
        · simpa using hk'
        · simp
        · simpa using hb4
        · simpa using hb5
        · simp
        · simp
        · rw [windowsSay_iff _ _ _ _ (by simpa using h3)]
          exact ⟨by simp, by simpa using h5⟩
        · rw [windowsSay_iff _ _ _ _ (by simpa using h4)]
          exact ⟨by simp, by simpa using h6⟩
        · simp
        · simp
        · simp
        · simpa using h7
      · simp at h
  · rintro ⟨⟨h1, h2, a1, a2, a3, a4, a5, a6, a7, hk, hm, f1, f2, l1, l2, w1, w2, m1, m2, o1, o2, o3, z, t1, t2, t3, t4,
      ds, z2⟩, n1, n2⟩
    rw [windowsSay_iff _ _ _ _ n1] at w1
    rw [windowsSay_iff _ _ _ _ n2] at w2
    simp only [leNat_one] at hk hm f1 f2 l1 l2 o1 o2 o3 z
    simp only [List.range, List.range.loop, List.map_cons, List.map_nil, List.cons.injEq, and_true] at ds
    obtain ⟨d1, d2, d3, d4, d5, d6, d7, d8, d9, d10, d11, d12, d13, d14⟩ := ds
    have hc : recKindOf (byteAt b 2) = some p.autoKind := (recKindOf_iff _ _).2 hk
    rw [l1] at w1 n1
    rw [l2] at w2 n2
    have e0 : leNat b 0 2 % 2 = 1 := by simpa [Nat.testBit_zero] using h1
    have e4 : BitVec.ofNat 8 (byteAt b 4) = p.busFirst := by rw [← f1]; simp
    have e5 : BitVec.ofNat 8 (byteAt b 5) = p.busLast := by rw [← f2]; simp
    unfold parsePolicy
    simp only [hc]
    rw [if_pos ⟨e0, h2, n1, n2, (zeroFrom_iff _ _ _).2 w1.2, (zeroFrom_iff _ _ _).2 w2.2, z, (zeroFrom_iff _ _ _).2 z2⟩]
    have w1 := w1.1
    have w2 := w2.1
    have m1 := (eq_leAddr _ _ _).2 m1
    have m2 := (eq_leAddr _ _ _).2 m2
    cases p
    simp only [Option.some.injEq, Policy.mk.injEq] at *
    simp_all

/-- RI's check of a record is R168 as restated. -/
theorem State.checkPolicy_iff (s : State) (i : Slot) (b : List Byte) (p : Policy) :
    s.checkPolicy i b = some p ↔ s.acceptable i b p := by
  have others : ∀ p : Policy, (allSlots.all fun j =>
      decide (j = i) || match (s.slot j).policy with | some q => p.apart q | none => true) = true ↔
      ∀ j q, j ≠ i → (s.slot j).policy = some q → p.disjoint q := by
    intro p
    have hall : ∀ j : Slot, j ∈ allSlots := by decide
    simp only [List.all_eq_true, Bool.or_eq_true, decide_eq_true_eq]
    constructor
    · intro h j q hj hq
      rcases h j (hall j) with e | e
      · exact absurd e hj
      · rw [hq] at e
        exact (Policy.apart_iff _ _).1 e
    · intro h j _
      by_cases hj : j = i
      · exact Or.inl hj
      · refine Or.inr ?_
        cases hq : (s.slot j).policy with
        | none => rfl
        | some q => exact (Policy.apart_iff _ _).2 (h j q hj hq)
  unfold State.checkPolicy State.acceptable
  constructor
  · intro h
    split at h
    · simp at h
    next q hq =>
      split at h
      next hc =>
        obtain rfl := Option.some.inj h
        rw [Bool.and_eq_true] at hc
        exact ⟨((parsePolicy_iff _ _).1 hq).1, (Policy.valid_iff _).1 hc.1, (others _).1 hc.2⟩
      · simp at h
  · rintro ⟨h1, h2, h3⟩
    have hq := (parsePolicy_iff b p).2 ⟨h1, h2.2.2.1, h2.2.2.2.1⟩
    simp only [hq]
    rw [if_pos]
    rw [Bool.and_eq_true]
    exact ⟨(Policy.valid_iff _).2 h2, (others _).2 h3⟩

/-! ## The Control Block (R166) -/

theorem parseControlBlock_iff (b : List Byte) (c : ControlBlock) : parseControlBlock b = c ↔ c.says b := by
  have h := leNat_lt b 44 4
  have he : ∀ v : BitVec 32, BitVec.ofNat 32 (leNat b 44 4) = v ↔ v.toNat = leNat b 44 4 := by
    intro v
    rw [BitVec.toNat_eq, BitVec.toNat_ofNat, Nat.mod_eq_of_lt (by simpa using h)]
    exact eq_comm
  cases c
  simp only [parseControlBlock, ControlBlock.says, ControlBlock.mk.injEq, he, leNat_one, eq_comm (a := leAddr _ _),
    eq_leAddr, eq_comm (a := byteAt _ _), eq_comm (a := leNat _ _ 2), eq_comm (a := leNat _ 40 4)]

theorem enables_iff (v : BitVec 32) : v &&& ~~~causeMask = 0 ↔ ∀ n, v.getLsbD n = true → 8 ≤ n ∧ n ≤ 13 := by
  constructor
  · intro h n hn
    have hlt : n < 32 := BitVec.lt_of_getLsbD hn
    have := congrArg (fun w => w.getLsbD n) h
    simp only [BitVec.getLsbD_and, BitVec.getLsbD_not, hn, hlt, decide_true, Bool.true_and] at this
    have hm : causeMask.getLsbD n = true := by simpa using this
    revert hm
    clear this h hn
    revert n
    decide
  · intro h
    apply BitVec.eq_of_getLsbD_eq
    intro n hlt
    simp only [BitVec.getLsbD_and, BitVec.getLsbD_not, hlt, decide_true, Bool.true_and]
    by_cases hn : v.getLsbD n = true
    · have hm : ∀ n, n < 32 → 8 ≤ n ∧ n ≤ 13 → causeMask.getLsbD n = true := by decide
      simp [hm n hlt (h n hn)]
    · simp [hn]

/-- RI's check of a Control Block is R166 as restated. -/
theorem checkedControlBlock_iff (b : List Byte) (c : ControlBlock) :
    checkedControlBlock b = some c ↔ c.says b ∧ c.sound b := by
  have hv : ∀ c : ControlBlock, (c.valid && zeroFrom b 48 16) = true ↔ c.sound b := by
    intro c
    simp only [ControlBlock.valid, rangesApart, Bool.and_eq_true, Bool.or_eq_true, decide_eq_true_eq, inRange_iff,
      enables_iff, zeroFrom_iff]
    simp only [ControlBlock.sound, ControlBlock.actionSize, ControlBlock.incidentSize, addrTop, and_assoc]
    norm_num
  unfold checkedControlBlock
  dsimp only
  constructor
  · intro h
    split at h
    next hc =>
      have e := (Option.some.inj h)
      exact ⟨(parseControlBlock_iff _ _).1 e, (hv _).1 (e ▸ hc)⟩
    · simp at h
  · rintro ⟨h1, h2⟩
    rw [(parseControlBlock_iff _ _).2 h1, if_pos ((hv _).2 h2)]

/-! ## The shadow map (R99) -/

theorem mapEntryOk_iff (b : List Byte) (k : Nat) :
    mapEntryOk b k = true ↔
      (1 ≤ (mapEntryAt b k).count ∧ (mapEntryAt b k).count ≤ 16)
        ∧ (mapEntryAt b k).index + (mapEntryAt b k).count ≤ 1024
        ∧ ∀ n, 10 ≤ n ∧ n ≤ 15 ∨ 21 ≤ n ∧ n ≤ 23 ∨ 27 ≤ n → (BitVec.ofNat 32 (leNat b k 4)).getLsbD n = false := by
  have hm : ∀ v : BitVec 32, v &&& ~~~mapEntryMask = 0 ↔
      ∀ n, 10 ≤ n ∧ n ≤ 15 ∨ 21 ≤ n ∧ n ≤ 23 ∨ 27 ≤ n → v.getLsbD n = false := by
    intro v
    have hc : ∀ n, n < 32 → (mapEntryMask.getLsbD n = false ↔ 10 ≤ n ∧ n ≤ 15 ∨ 21 ≤ n ∧ n ≤ 23 ∨ 27 ≤ n) := by decide
    constructor
    · intro h n hn
      by_cases hlt : n < 32
      · have := congrArg (fun w => w.getLsbD n) h
        simp only [BitVec.getLsbD_and, BitVec.getLsbD_not, hlt, (hc n hlt).2 hn, decide_true, Bool.not_false,
          Bool.and_true] at this
        simpa using this
      · exact BitVec.getLsbD_of_ge _ _ (by omega)
    · intro h
      apply BitVec.eq_of_getLsbD_eq
      intro n hlt
      by_cases hb : mapEntryMask.getLsbD n = true
      · simp [hlt, hb]
      · simp [BitVec.getLsbD_and, h n ((hc n hlt).1 (by simpa using hb))]
  simp only [mapEntryOk, Bool.and_eq_true, decide_eq_true_eq, inRange_iff, hm, and_assoc]

/-- SE's check of a map's entries is R99 as restated. -/
theorem mapEntries_iff (b : List Byte) (n : Nat) (m : List MapEntry) :
    mapEntries b n = some m ↔ m.length = n ∧ mapSays b m := by
  have field : ∀ k e, e = mapEntryAt b k ↔ let w := BitVec.ofNat 32 (leNat b k 4)
      e.index = (w.extractLsb' 0 10).toNat ∧ e.count = (w.extractLsb' 16 5).toNat ∧ e.skip = w.getLsbD 24
        ∧ e.last = w.getLsbD 25 ∧ e.verify = w.getLsbD 26 := by
    intro k e
    have hlt : leNat b k 4 < 2 ^ 32 := by simpa using leNat_lt b k 4
    cases e
    simp only [mapEntryAt, MapEntry.mk.injEq, BitVec.extractLsb'_toNat, BitVec.toNat_ofNat, BitVec.getLsbD_ofNat,
      Nat.mod_eq_of_lt hlt, Nat.shiftRight_eq_div_pow]
    norm_num
  unfold mapEntries mapSays
  split
  next h =>
    rw [List.all_eq_true] at h
    simp only [Option.some.injEq]
    constructor
    · rintro rfl
      refine ⟨by simp, fun k hk => ?_⟩
      have hk' : k < n := by simpa using hk
      have ok := (mapEntryOk_iff b (4 * k)).1 (h k (List.mem_range.2 hk'))
      have fs := (field (4 * k) _).1 rfl
      exact ⟨mapEntryAt b (4 * k), by simp [hk'], fs.1, fs.2.1, fs.2.2.1, fs.2.2.2.1, fs.2.2.2.2, ok.1.1, ok.1.2, ok.2.1,
        ok.2.2⟩
    · rintro ⟨rfl, hs⟩
      apply List.ext_getElem?
      intro k
      by_cases hk : k < m.length
      · obtain ⟨e, he, h1, h2, h3, h4, h5, _⟩ := hs k hk
        rw [he, (field (4 * k) e).2 ⟨h1, h2, h3, h4, h5⟩]
        simp [hk]
      · simp [hk]
  next h =>
    simp only [reduceCtorEq, false_iff, not_and]
    rintro rfl hs
    apply h
    rw [List.all_eq_true]
    intro k hk
    obtain ⟨e, _, h1, h2, h3, h4, h5, h6, h7, h8, h9⟩ := hs k (List.mem_range.1 hk)
    have := (field (4 * k) e).2 ⟨h1, h2, h3, h4, h5⟩
    subst this
    exact (mapEntryOk_iff _ _).2 ⟨⟨h6, h7⟩, h8, h9⟩

/-! ## The order of a write-back (R112) -/

theorem Pass.takes_iff (p : Pass) (m : MapEntry) : p.takes m = true ↔ p.wants m := by
  cases p <;> simp [Pass.takes, Pass.wants]

theorem nextTaken_none (p : Pass) (j : Nat) (m : List MapEntry) :
    nextTaken p j m = none ↔ ∀ (n : Nat) (e : MapEntry), m[n]? = some e → ¬ p.wants e := by
  induction m generalizing j with
  | nil => simp [nextTaken]
  | cons d m ih =>
    unfold nextTaken
    split
    next h =>
      simp only [reduceCtorEq, false_iff, not_forall]
      exact ⟨0, d, by simp, fun k => k ((Pass.takes_iff _ _).1 h)⟩
    next h =>
      rw [ih]
      constructor
      · intro g n e he
        cases n with
        | zero =>
          obtain rfl : d = e := by simpa using he
          exact fun k => h ((Pass.takes_iff _ _).2 k)
        | succ n => exact g n e (by simpa using he)
      · exact fun g n e he => g (n + 1) e (by simpa using he)

theorem nextTaken_some (p : Pass) (j : Nat) (m : List MapEntry) (n : Nat) :
    nextTaken p j m = some n ↔
      ∃ k e, n = j + k ∧ m[k]? = some e ∧ p.wants e ∧ ∀ l d, l < k → m[l]? = some d → ¬ p.wants d := by
  induction m generalizing j with
  | nil => simp [nextTaken]
  | cons c m ih =>
    unfold nextTaken
    split
    next h =>
      have hw := (Pass.takes_iff _ _).1 h
      constructor
      · intro g
        obtain rfl : j = n := by simpa using g
        exact ⟨0, c, rfl, by simp, hw, fun l d hl => absurd hl (Nat.not_lt_zero _)⟩
      · rintro ⟨k, e, rfl, hk, hwe, hb⟩
        cases k with
        | zero => rfl
        | succ k => exact absurd hw (hb 0 c (by omega) (by simp))
    next h =>
      have hw : ¬ p.wants c := fun k => h ((Pass.takes_iff _ _).2 k)
      rw [ih]
      constructor
      · rintro ⟨k, e, rfl, hk, hwe, hb⟩
        refine ⟨k + 1, e, by omega, by simpa using hk, hwe, fun l d hl hd => ?_⟩
        cases l with
        | zero =>
          obtain rfl : c = d := by simpa using hd
          exact hw
        | succ l => exact hb l d (by omega) (by simpa using hd)
      · rintro ⟨k, e, rfl, hk, hwe, hb⟩
        cases k with
        | zero =>
          obtain rfl : c = e := by simpa using hk
          exact absurd hwe hw
        | succ k =>
          exact ⟨k, e, by omega, by simpa using hk, hwe, fun l d hl hd => hb (l + 1) d (by omega) (by simpa using hd)⟩

theorem passEnds_iff (m : List MapEntry) (p : Pass) (k : Nat) : nextTaken p k (m.drop k) = none ↔ passEnds m p k := by
  rw [nextTaken_none]
  unfold passEnds
  constructor
  · intro h n e hn he
    exact h (n - k) e (by rw [List.getElem?_drop, Nat.add_sub_cancel' hn]; exact he)
  · intro h n e he
    rw [List.getElem?_drop] at he
    exact h (k + n) e (by omega) he

theorem nextTaken_drop (m : List MapEntry) (p : Pass) (k n : Nat) :
    nextTaken p k (m.drop k) = some n ↔
      k ≤ n ∧ ∃ e, m[n]? = some e ∧ p.wants e ∧ ∀ j d, k ≤ j → j < n → m[j]? = some d → ¬ p.wants d := by
  rw [nextTaken_some]
  constructor
  · rintro ⟨l, e, rfl, hl, hw, hb⟩
    rw [List.getElem?_drop] at hl
    refine ⟨by omega, e, hl, hw, fun j d hj hlt hd => hb (j - k) d (by omega) ?_⟩
    rw [List.getElem?_drop, Nat.add_sub_cancel' hj]
    exact hd
  · rintro ⟨hkn, e, he, hw, hb⟩
    refine ⟨n - k, e, by omega, ?_, hw, fun l d hl hd => ?_⟩
    · rw [List.getElem?_drop, Nat.add_sub_cancel' hkn]
      exact he
    · rw [List.getElem?_drop] at hd
      exact hb (k + l) d (by omega) (by omega) hd

/-- The next place of a write-back is R112's. -/
theorem nextPlace_some (m : List MapEntry) (p q : Pass) (k n : Nat) :
    nextPlace m p k = some (q, n) ↔ ∃ e, follows m p k q n e := by
  cases p with
  | last =>
    simp only [nextPlace, Option.map_eq_some_iff, nextTaken_drop, follows, Prod.mk.injEq]
    constructor
    · rintro ⟨a, ⟨hk, e, he, hw, hb⟩, rfl, rfl⟩
      exact ⟨e, he, hw, Or.inl ⟨rfl, hk, hb⟩⟩
    · rintro ⟨e, he, hw, ⟨rfl, hk, hb⟩ | ⟨h, _⟩⟩
      · exact ⟨n, ⟨hk, e, he, hw, hb⟩, rfl, rfl⟩
      · cases h
  | first =>
    simp only [nextPlace, follows]
    split
    next a ha =>
      have hn := (nextTaken_drop _ _ _ _).1 ha
      simp only [Option.some.injEq, Prod.mk.injEq]
      constructor
      · rintro ⟨rfl, rfl⟩
        obtain ⟨hk, e, he, hw, hb⟩ := hn
        exact ⟨e, he, hw, Or.inl ⟨rfl, hk, hb⟩⟩
      · rintro ⟨e, he, hw, ⟨rfl, hk, hb⟩ | ⟨_, rfl, hend, _⟩⟩
        · have := (nextTaken_drop m .first k n).2 ⟨hk, e, he, hw, hb⟩
          rw [ha] at this
          exact ⟨rfl, by simpa using this⟩
        · rw [(passEnds_iff _ _ _).2 hend] at ha
          cases ha
    next ha =>
      have hend := (passEnds_iff _ _ _).1 ha
      have h0 := nextTaken_drop m .last 0
      simp only [List.drop_zero] at h0
      simp only [Option.map_eq_some_iff, h0, Prod.mk.injEq]
      constructor
      · rintro ⟨a, ⟨_, e, he, hw, hb⟩, rfl, rfl⟩
        exact ⟨e, he, hw, Or.inr ⟨trivial, rfl, hend, fun j d hj => hb j d (Nat.zero_le _) hj⟩⟩
      · rintro ⟨e, he, hw, ⟨rfl, hk, _⟩ | ⟨_, rfl, _, hb⟩⟩
        · exact absurd hw (hend n e hk he)
        · exact ⟨n, ⟨Nat.zero_le _, e, he, hw, fun j d _ hj => hb j d hj⟩, rfl, rfl⟩

/-- A write-back is complete exactly when neither pass takes more. -/
theorem nextPlace_none (m : List MapEntry) (p : Pass) (k : Nat) : nextPlace m p k = none ↔ nothingFollows m p k := by
  cases p with
  | last => simp [nextPlace, nothingFollows, passEnds_iff]
  | first =>
    have h0 := passEnds_iff m .last 0
    simp only [List.drop_zero] at h0
    simp only [nextPlace, nothingFollows]
    split
    next a ha =>
      have : ¬ passEnds m .first k := by rw [← passEnds_iff, ha]; simp
      simp [this]
    next ha =>
      simp [(passEnds_iff _ _ _).1 ha, h0]

end Sys2Proof.Machine
end

