-- ==== Sys2Proof/Laws/Frame.lean ====
section
/-! SUPPORT. What an operation on one slot can touch: `Within` and `Only`, and that every operation of the blocks on a slot
keeps to them. -/

namespace Sys2Proof.Machine

open Sys2Proof

/-- RI's record changes in the in-flight list, the causes and the summary alone. -/
def RiRec.sameBut (r q : RiRec) : Prop :=
  { q with inFlight := r.inFlight, causes := r.causes, summary := r.summary } = r

/-- From `s` to `t` only slot `i` and the part-wide blocks that serve it have acted. -/
structure Within (i : Slot) (s t : State) : Prop where
  others : ∀ j, j ≠ i → t.slot j = s.slot j
  tb : t.tb = s.tb
  sampleTimer : t.sampleTimer = s.sampleTimer
  senseInterval : t.senseInterval = s.senseInterval
  pending : t.pending = s.pending
  out : s.out <+: t.out
  signals : ∃ cs : List SignalChange, (∀ c ∈ cs, c.slot = i) ∧ t.signals = s.signals ++ cs
  readId : s.readId ≤ t.readId
  iq : ∃ xs : List Incident, (∀ x ∈ xs, x.slot = i) ∧ t.iq = xs.foldl (fun q x => iwTake x q) s.iq
  ri : s.ri.sameBut t.ri

/-- As `Within`, with the slot's policy and sense record untouched. -/
structure Only (i : Slot) (s t : State) : Prop extends Within i s t where
  policy : (t.slot i).policy = (s.slot i).policy
  sense : (t.slot i).sense = (s.slot i).sense

theorem RiRec.sameBut_refl (r : RiRec) : r.sameBut r := rfl

theorem RiRec.sameBut_trans {r q p : RiRec} (h : r.sameBut q) (k : q.sameBut p) : r.sameBut p := by
  unfold RiRec.sameBut at *
  calc
    ({ p with inFlight := r.inFlight, causes := r.causes, summary := r.summary } : RiRec) =
      { ({ p with inFlight := q.inFlight, causes := q.causes, summary := q.summary } : RiRec) with
        inFlight := r.inFlight, causes := r.causes, summary := r.summary } := rfl
    _ = r := by rw [k, h]

/-- No output of a slot has changed. -/
theorem unmoved {i : Slot} {s t : State} (h : t.signals = s.signals) :
    ∃ cs : List SignalChange, (∀ c ∈ cs, c.slot = i) ∧ t.signals = s.signals ++ cs := ⟨[], by simp, by simp [h]⟩

theorem Within.refl (i : Slot) (s : State) : Within i s s :=
  ⟨fun _ _ => rfl, rfl, rfl, rfl, rfl, List.prefix_refl _, unmoved rfl, le_rfl, ⟨[], by simp, rfl⟩, rfl⟩

theorem Within.trans {i : Slot} {s t u : State} (h : Within i s t) (k : Within i t u) : Within i s u := by
  obtain ⟨xs, hx, ex⟩ := h.iq
  obtain ⟨ys, hy, ey⟩ := k.iq
  obtain ⟨cs, hc, ec⟩ := h.signals
  obtain ⟨ds, hd, ed⟩ := k.signals
  refine ⟨fun j hj => (k.others j hj).trans (h.others j hj), k.tb.trans h.tb, k.sampleTimer.trans h.sampleTimer,
    k.senseInterval.trans h.senseInterval, k.pending.trans h.pending, h.out.trans k.out,
    ⟨cs ++ ds, fun c m => (List.mem_append.1 m).elim (hc c) (hd c), by rw [ed, ec, List.append_assoc]⟩,
    h.readId.trans k.readId, ⟨xs ++ ys, ?_, ?_⟩, RiRec.sameBut_trans h.ri k.ri⟩
  · intro x hx'
    rcases List.mem_append.1 hx' with m | m
    · exact hx x m
    · exact hy x m
  · rw [ey, ex, List.foldl_append]

theorem Only.refl (i : Slot) (s : State) : Only i s s := ⟨Within.refl i s, rfl, rfl⟩

theorem Only.trans {i : Slot} {s t u : State} (h : Only i s t) (k : Only i t u) : Only i s u :=
  ⟨h.toWithin.trans k.toWithin, k.policy.trans h.policy, k.sense.trans h.sense⟩

/-! ## The primitive updates -/

theorem Within.setSlot (s : State) (i : Slot) (r : SlotRec) : Within i s (s.setSlot i r) :=
  ⟨fun _ h => s.setSlot_slot_ne i _ r h, rfl, rfl, rfl, rfl, List.prefix_refl _, unmoved rfl, le_rfl, ⟨[], by simp, rfl⟩, rfl⟩

theorem Only.setSlot (s : State) (i : Slot) (r : SlotRec) (hp : r.policy = (s.slot i).policy)
    (hs : r.sense = (s.slot i).sense) : Only i s (s.setSlot i r) :=
  ⟨Within.setSlot s i r, by simpa using hp, by simpa using hs⟩

theorem Only.modSlot (s : State) (i : Slot) (f : SlotRec → SlotRec) (hp : (f (s.slot i)).policy = (s.slot i).policy)
    (hs : (f (s.slot i)).sense = (s.slot i).sense) : Only i s (s.modSlot i f) :=
  Only.setSlot s i _ hp hs

theorem Only.emits (i : Slot) (s : State) (os : List Output) : Only i s (s.emits os) :=
  ⟨⟨fun _ _ => rfl, rfl, rfl, rfl, rfl, List.prefix_append _ _, unmoved rfl, le_rfl, ⟨[], by simp, rfl⟩, rfl⟩, rfl, rfl⟩

theorem Only.raise (s : State) (i : Slot) (k : IncKind) (a b : Nat) (d : BitVec 64) : Only i s (s.raise i k a b d) :=
  ⟨⟨fun _ _ => rfl, rfl, rfl, rfl, rfl, List.prefix_refl _, unmoved rfl, le_rfl,
    ⟨[s.incident i k a b d], by simp [State.incident], rfl⟩, rfl⟩, rfl, rfl⟩

theorem Only.se (i : Slot) (s : State) (e : SeRec) : Only i s { s with se := e } :=
  ⟨⟨fun _ _ => rfl, rfl, rfl, rfl, rfl, List.prefix_refl _, unmoved rfl, le_rfl, ⟨[], by simp, rfl⟩, rfl⟩, rfl, rfl⟩

theorem Only.setRm (i : Slot) (s : State) (m : RmRec) : Only i s (s.setRm m) :=
  ⟨⟨fun _ _ => rfl, rfl, rfl, rfl, rfl, List.prefix_refl _, unmoved rfl, le_rfl, ⟨[], by simp, rfl⟩, rfl⟩, rfl, rfl⟩

theorem Only.issueRead (i : Slot) (s : State) (w : Reader) (a : Addr) (n : Nat) : Only i s (s.issueRead w a n) :=
  ⟨⟨fun _ _ => rfl, rfl, rfl, rfl, rfl, List.prefix_append _ _, unmoved rfl, Nat.le_succ _, ⟨[], by simp, rfl⟩, rfl⟩, rfl, rfl⟩

theorem Only.free (i : Slot) (s : State) (n : Nat) : Only i s { s with free := n } :=
  ⟨⟨fun _ _ => rfl, rfl, rfl, rfl, rfl, List.prefix_refl _, unmoved rfl, le_rfl, ⟨[], by simp, rfl⟩, rfl⟩, rfl, rfl⟩

theorem State.enter_only (s : State) (i : Slot) (st : SlotState) : Only i s (s.enter i st) := Only.modSlot _ _ _ rfl rfl

theorem State.modCs_only (s : State) (i : Slot) (f : CsRec → CsRec) : Only i s (s.modCs i f) :=
  Only.modSlot _ _ _ rfl rfl

theorem Only.drives (i : Slot) (s : State) (cs : List SignalChange) (h : ∀ c ∈ cs, c.slot = i) : Only i s (s.drives cs) :=
  ⟨⟨fun _ _ => rfl, rfl, rfl, rfl, rfl, List.prefix_refl _, ⟨cs, h, rfl⟩, le_rfl, ⟨[], by simp, rfl⟩, rfl⟩, rfl, rfl⟩

theorem State.modPru_only (s : State) (i : Slot) (f : PruRec → PruRec) : Only i s (s.modPru i f) :=
  (Only.modSlot s i (fun r => { r with pru := f r.pru }) rfl rfl).trans
    (Only.drives _ _ _ fun _ h => signalChanges_slot h)

theorem State.modHm_only (s : State) (i : Slot) (f : HmRec → HmRec) : Only i s (s.modHm i f) :=
  Only.modSlot _ _ _ rfl rfl

theorem State.setAd_only (s : State) (i : Slot) (a : AdRec) : Only i s (s.setAd i a) := Only.modSlot _ _ _ rfl rfl

theorem State.setTrigger_only (s : State) (i : Slot) (t : Trigger) : Only i s (s.setTrigger i t) :=
  Only.modSlot _ _ _ rfl rfl

theorem State.setEntry_only (s : State) (i : Slot) (k : Tag) (e : OrtEntry) : Only i s (s.setEntry i k e) :=
  Only.modSlot _ _ _ rfl rfl

theorem State.resetAssertion_only (s : State) (i : Slot) : Only i s (s.resetAssertion i) := by
  unfold State.resetAssertion
  exact Only.trans (Only.setSlot s i _ (by rfl) (by rfl)) (Only.emits _ _ _)

theorem State.fenceWork_only (s : State) (i : Slot) : Only i s (s.fenceWork i) := by
  unfold State.fenceWork
  exact Only.trans (Only.setSlot s i _ (by rfl) (by rfl)) (Only.emits _ _ _)

theorem State.presenceWork_only (s : State) (i : Slot) : Only i s (s.presenceWork i) := by
  unfold State.presenceWork
  exact Only.trans (Only.setSlot s i _ (by rfl) (by rfl)) (Only.emits _ _ _)

/-! ## Returns -/

theorem State.giveBack_only (s : State) (i : Slot) (e : ActEntry) (o : ActOutcome) (n : Nat) :
    Only i s (s.giveBack i e o n) := by
  unfold State.giveBack
  split
  · exact ⟨⟨fun _ _ => rfl, rfl, rfl, rfl, rfl, List.prefix_append _ _, unmoved rfl, le_rfl, ⟨[], by simp, rfl⟩, rfl⟩, rfl, rfl⟩
  · exact Only.refl _ _

theorem State.skipAll_only (s : State) (i : Slot) (es : List ActEntry) : Only i s (s.skipAll i es) := by
  unfold State.skipAll
  induction es generalizing s with
  | nil => exact Only.refl _ _
  | cons e es ih => exact (s.giveBack_only i e .skipped 0).trans (ih _)

theorem State.endEntry_only (s : State) (i : Slot) (o : ActOutcome) (n : Nat) : Only i s (s.endEntry i o n) := by
  unfold State.endEntry
  dsimp only
  split
  · exact Only.refl _ _
  · split
    · exact (State.giveBack_only _ _ _ _ _).trans (State.setAd_only _ _ _)
    · exact (State.giveBack_only _ _ _ _ _).trans ((State.skipAll_only _ _ _).trans (State.setAd_only _ _ _))

theorem State.onEntry_only (s : State) (i : Slot) (st : SlotState) (n : Nat) : Only i s (s.onEntry i st n) := by
  unfold State.onEntry
  split
  · exact Only.refl _ _
  · split
    · exact Only.refl _ _
    · exact State.endEntry_only _ _ _ _

theorem State.loseCard_only (s : State) (i : Slot) : Only i s (s.loseCard i) := by
  unfold State.loseCard
  dsimp only
  split
  · exact (State.skipAll_only _ _ _).trans (State.setAd_only _ _ _)
  · exact State.endEntry_only _ _ _ _

/-! ## The tracker -/

theorem promoteLoop_keeps (i : Slot) (n : Nat) (r : SlotRec) :
    (promoteLoop i n r).1.policy = r.policy ∧ (promoteLoop i n r).1.sense = r.sense := by
  induction n generalizing r with
  | zero => exact ⟨rfl, rfl⟩
  | succ n ih =>
    unfold promoteLoop
    split
    · exact ⟨(ih _).1, (ih _).2⟩
    · exact ⟨rfl, rfl⟩

theorem State.promote_only (s : State) (i : Slot) : Only i s (s.promote i) :=
  (Only.setSlot s i _ (promoteLoop_keeps _ _ _).1 (promoteLoop_keeps _ _ _).2).trans (Only.emits _ _ _)

/-! ## The engine -/

theorem State.seRead_only (i : Slot) (s : State) (j : Slot) (a : Addr) (n : Nat) (w : SeRead) :
    Only i s (s.seRead j a n w) := (Only.se i s _).trans (Only.issueRead _ _ _ _ _)

theorem State.seBegin_only (i : Slot) (s : State) (op : SeOp) : Only i s (s.seBegin op) :=
  (Only.se i s _).trans (State.seRead_only _ _ _ _ _ _)

theorem State.seRequest_only (i : Slot) (s : State) (op : SeOp) : Only i s (s.seRequest op) := by
  unfold State.seRequest
  split
  · exact State.seBegin_only _ _ _
  · exact Only.se _ _ _

theorem State.seClear_only (i : Slot) (s : State) : Only i s s.seClear := Only.se _ _ _

theorem State.seNext_only (i : Slot) (s : State) : Only i s s.seNext := by
  unfold State.seNext
  split
  · exact Only.refl _ _
  · exact (Only.se _ _ _).trans (State.seBegin_only _ _ _)

theorem State.seDrop_only (s : State) (i : Slot) : Only i s (s.seDrop i) := by
  unfold State.seDrop
  dsimp only
  split
  · exact (Only.se _ _ _).trans ((State.seClear_only _ _).trans (State.seNext_only _ _))
  · exact Only.se _ _ _

theorem State.cancelOp_only (s : State) (i : Slot) : Only i s (s.cancelOp i) := by
  unfold State.cancelOp
  dsimp only
  split
  · exact (s.seDrop_only i).trans (State.endEntry_only _ _ _ _)
  · exact s.seDrop_only i

theorem State.seWrite_only (i : Slot) (s : State) (a : Addr) (b : List Byte) : Only i s (s.seWrite a b) :=
  Only.emits _ _ _

/-! ## Paths of a slot -/

theorem State.powerOffNow_only (s : State) (i : Slot) : Only i s (s.powerOffNow i) :=
  (s.modPru_only i _).trans ((State.resetAssertion_only _ _).trans (State.enter_only _ _ _))

theorem State.shutdown_only (s : State) (i : Slot) : Only i s (s.shutdown i) :=
  (s.modPru_only i _).trans (State.powerOffNow_only _ _)

theorem State.failAttempt_only (s : State) (i : Slot) (c n : Nat) : Only i s (s.failAttempt i c n) :=
  (Only.raise s i _ _ _ _).trans
    ((State.modCs_only _ _ _).trans ((State.cancelOp_only _ _).trans (State.shutdown_only _ _)))

theorem State.rampFault_only (s : State) (i : Slot) (k : RailFault) : Only i s (s.rampFault i k) :=
  (Only.raise s i _ _ _ _).trans (State.failAttempt_only _ _ _ _)

theorem State.powerUp_only (s : State) (i : Slot) : Only i s (s.powerUp i) := by
  unfold State.powerUp
  dsimp only
  split
  · exact (s.enter_only i _).trans ((State.modPru_only _ _ _).trans (State.rampFault_only _ _ _))
  · exact (s.enter_only i _).trans (State.modPru_only _ _ _)

theorem State.releaseReset_only (s : State) (i : Slot) : Only i s (s.releaseReset i) :=
  (s.modPru_only i _).trans (State.enter_only _ _ _)

theorem State.reconnect_only (s : State) (i : Slot) : Only i s (s.reconnect i) := by
  unfold State.reconnect
  dsimp only
  split
  · exact (s.modPru_only i _).trans (State.releaseReset_only _ _)
  · exact s.modPru_only i _

theorem State.enterIsolated_only (s : State) (i : Slot) : Only i s (s.enterIsolated i) :=
  (s.enter_only i _).trans
    ((State.modCs_only _ _ _).trans ((Only.raise _ i _ _ _ _).trans (State.onEntry_only _ _ _ _)))

theorem State.assertDone_only (s : State) (i : Slot) : Only i s (s.assertDone i) := by
  unfold State.assertDone
  split
  · exact s.reconnect_only i
  · exact (s.modPru_only i _).trans (State.enterIsolated_only _ _)
  · exact s.powerOffNow_only i
  · exact Only.refl _ _

theorem State.assertReset_only (s : State) (i : Slot) : Only i s (s.assertReset i) := by
  unfold State.assertReset
  dsimp only
  split
  · exact (s.modPru_only i _).trans ((State.resetAssertion_only _ _).trans (State.assertDone_only _ _))
  · exact (s.modPru_only i _).trans (State.resetAssertion_only _ _)

theorem State.startReset_only (s : State) (i : Slot) (q : Sequence) : Only i s (s.startReset i q) := by
  unfold State.startReset
  dsimp only
  split
  · exact (s.enter_only i _).trans ((State.modPru_only _ _ _).trans (State.assertReset_only _ _))
  · exact (s.enter_only i _).trans (State.modPru_only _ _ _)

theorem State.drainEnd_only (s : State) (i : Slot) : Only i s (s.drainEnd i) := by
  unfold State.drainEnd
  dsimp only
  split
  · exact (s.modCs_only i _).trans (State.startReset_only _ _ _)
  · split
    · exact (s.modCs_only i _).trans ((State.modCs_only _ _ _).trans (State.startReset_only _ _ _))
    · exact (s.modCs_only i _).trans ((State.modCs_only _ _ _).trans (State.startReset_only _ _ _))

theorem State.startDrain_only (s : State) (i : Slot) : Only i s (s.startDrain i) := by
  unfold State.startDrain
  split
  · exact s.drainEnd_only i
  · exact s.modCs_only i _

theorem State.fence_only (s : State) (i : Slot) (t : Trigger) (k : RecKind) (f : Option Nat) :
    Only i s (s.fence i t k f) := by
  unfold State.fence
  dsimp only
  refine Only.trans ?_ (State.startDrain_only _ i)
  have h : Only i s ((((s.enter i .fenced).modCs i fun c => c.fence t k).fenceWork i).cancelOp i) :=
    (s.enter_only i _).trans ((State.modCs_only _ _ _).trans ((State.fenceWork_only _ _).trans (State.cancelOp_only _ _)))
  have h' := h.trans (Only.raise _ i .linkDown 0 0 0)
  split
  · refine Only.trans (Only.trans ?_ (Only.raise _ i _ _ _ _)) (Only.raise _ i _ _ _ _)
    split
    · exact h'
    · exact h
  · refine Only.trans ?_ (Only.raise _ i _ _ _ _)
    split
    · exact h'
    · exact h

theorem State.cardFence_only (s : State) (i : Slot) (t : Trigger) : Only i s (s.cardFence i t) := by
  unfold State.cardFence
  split
  · exact s.fence_only i _ _ _
  · exact s.fence_only i _ _ _
  · exact s.fence_only i _ _ _
  · split
    · exact s.fence_only i _ _ _
    · exact Only.refl _ _
  · exact Only.refl _ _

theorem State.enterRetired_only (s : State) (i : Slot) (n : Nat) : Only i s (s.enterRetired i n) := by
  unfold State.enterRetired
  exact Only.trans (Only.trans (s.enter_only i _) (Only.raise _ i _ _ _ _)) (State.modCs_only _ _ _)

theorem State.retireFromBleed_only (s : State) (i : Slot) : Only i s (s.retireFromBleed i) :=
  (s.enterRetired_only i _).trans (State.onEntry_only _ _ _ _)

theorem State.bleedEnd_only (s : State) (i : Slot) : Only i s (s.bleedEnd i) := by
  unfold State.bleedEnd
  dsimp only
  split
  · exact s.retireFromBleed_only i
  · exact (s.enter_only i _).trans ((State.modCs_only _ _ _).trans (State.onEntry_only _ _ _ _))
  · split
    · exact (s.modCs_only i _).trans (State.powerUp_only _ _)
    · exact s.powerUp_only i

theorem State.enterHeld_only (s : State) (i : Slot) : Only i s (s.enterHeld i) :=
  (s.enter_only i _).trans (Only.modSlot _ _ _ rfl rfl)

theorem State.sendHoldover_only (s : State) (i : Slot) : Only i s (s.sendHoldover i) := by
  unfold State.sendHoldover
  dsimp only
  split
  · exact (Only.modSlot s i _ rfl rfl).trans (Only.emits _ _ _)
  · exact Only.modSlot s i _ rfl rfl

theorem State.enterProbation_only (s : State) (i : Slot) : Only i s (s.enterProbation i) :=
  (s.enter_only i _).trans ((State.modCs_only _ _ _).trans ((Only.modSlot _ _ _ rfl rfl).trans
    ((State.promote_only _ _).trans ((State.sendHoldover_only _ _).trans (State.onEntry_only _ _ _ _)))))

theorem State.probationEnd_only (s : State) (i : Slot) : Only i s (s.probationEnd i) :=
  (s.enter_only i _).trans ((Only.modSlot _ _ _ rfl rfl).trans ((Only.raise _ i _ _ _ _).trans
    ((State.modCs_only _ _ _).trans ((State.promote_only _ _).trans (State.onEntry_only _ _ _ _)))))

theorem State.scoreIncrease_only (s : State) (i : Slot) : Only i s (s.scoreIncrease i) := s.modCs_only i _

theorem State.countSuccess_only (s : State) (i : Slot) : Only i s (s.countSuccess i) := by
  unfold State.countSuccess
  dsimp only
  split
  · split
    · exact (s.modCs_only i _).trans (State.probationEnd_only _ _)
    · exact s.modCs_only i _
  · exact Only.refl _ _

theorem State.bringUp_only (s : State) (i : Slot) (b : Bool) : Only i s (s.bringUp i b) :=
  (s.modCs_only i _).trans (State.powerUp_only _ _)

theorem State.recoverRetired_only (s : State) (i : Slot) (t : Trigger) : Only i s (s.recoverRetired i t) :=
  (s.modCs_only i _).trans (State.powerUp_only _ _)

theorem State.recoverWarm_only (s : State) (i : Slot) : Only i s (s.recoverWarm i) :=
  (s.modCs_only i _).trans ((State.enter_only _ _ _).trans ((State.modPru_only _ _ _).trans (State.reconnect_only _ _)))

theorem State.recoverCold_only (s : State) (i : Slot) : Only i s (s.recoverCold i) :=
  (s.modCs_only i _).trans (State.shutdown_only _ _)

theorem State.recoverAction_only (s : State) (i : Slot) (a : BitVec 16) : Only i s (s.recoverAction i a) := by
  unfold State.recoverAction
  split
  · split
    · exact s.recoverWarm_only i
    · exact s.recoverCold_only i
  · exact (s.modCs_only i _).trans (State.fence_only _ _ _ _ _)
  · exact s.recoverRetired_only i _
  · exact Only.refl _ _

theorem State.powerDown_only (s : State) (i : Slot) (g : Target) (t : Trigger) : Only i s (s.powerDown i g t) := by
  have h : Only i s (((s.modCs i fun c =>
      { c with target := c.target.meet g, retryPending := false, drain := none, trigger := t }).cancelOp i).shutdown i) :=
    (s.modCs_only i _).trans ((State.cancelOp_only _ _).trans (State.shutdown_only _ _))
  unfold State.powerDown
  split <;> first
    | with_reducible exact h
    | with_reducible exact s.modCs_only i _
    | with_reducible exact Only.refl _ _

/-! ## Health -/

theorem State.weigh_only (s : State) (i : Slot) (e : ScoreEvent) : Only i s (s.weigh i e) := s.modHm_only i _

theorem State.noteExpiry_only (s : State) (i : Slot) (e : ScoreEvent) : Only i s (s.noteExpiry i e) := by
  unfold State.noteExpiry
  split
  · split
    · exact Only.refl _ _
    · exact (Only.raise s i _ _ _ _).trans (State.modHm_only _ _ _)
  · exact Only.refl _ _

theorem State.alignWatch_only (s : State) (i : Slot) : Only i s (s.alignWatch i) := by
  unfold State.alignWatch
  split
  · exact Only.refl _ _
  · dsimp only
    split
    · exact Only.refl _ _
    · split
      · exact (s.modHm_only i _).trans (Only.raise _ _ _ _ _ _)
      · exact (s.modHm_only i _).trans (State.promote_only _ _)

theorem State.alignAlert_only (s : State) (i : Slot) : Only i s (s.alignAlert i) := by
  unfold State.alignAlert
  split
  · exact Only.refl _ _
  · split
    · exact s.modHm_only i _
    · exact Only.refl _ _

theorem State.fenceEvent_only (s : State) (i : Slot) (p : Policy) : Only i s (s.fenceEvent i p) := by
  unfold State.fenceEvent
  split
  · exact s.fence_only i _ _ _
  · exact (Only.raise s i _ _ _ _).trans (State.modHm_only _ _ _)

theorem State.checkThresholds_only (s : State) (i : Slot) (e : ScoreEvent) (n : Nat) :
    Only i s (s.checkThresholds i e n) := by
  unfold State.checkThresholds
  split
  · exact Only.refl _ _
  · dsimp only
    split
    · split
      · exact s.fenceEvent_only i _
      · exact Only.refl _ _
    · split
      · exact s.fenceEvent_only i _
      · exact Only.refl _ _
    · split
      · exact s.fence_only i _ _ _
      · split
        · exact s.scoreIncrease_only i
        · exact Only.refl _ _
    · exact Only.refl _ _

theorem State.scoreChecks_only (s : State) (i : Slot) (e : ScoreEvent) (n : Nat) : Only i s (s.scoreChecks i e n) :=
  (s.noteExpiry_only i e).trans ((State.alignWatch_only _ _).trans
    ((State.alignAlert_only _ _).trans ((State.checkThresholds_only _ _ _ _).trans (State.promote_only _ _))))

theorem State.scoreEvent_only (s : State) (i : Slot) (e : ScoreEvent) : Only i s (s.scoreEvent i e) :=
  (s.weigh_only i e).trans (State.scoreChecks_only _ _ _ _)

theorem State.scoreWith_only (s : State) (i : Slot) (e : ScoreEvent) (f : State → State)
    (h : ∀ t, Only i t (f t)) : Only i s (s.scoreWith i e f) :=
  (s.weigh_only i e).trans ((h _).trans (State.scoreChecks_only _ _ _ _))

theorem State.alertAtAcceptance_only (s : State) (i : Slot) (p : Policy) : Only i s (s.alertAtAcceptance i p) := by
  unfold State.alertAtAcceptance
  dsimp only
  split
  · exact (s.alignAlert_only i).trans ((State.modHm_only _ _ _).trans (State.fence_only _ _ _ _ _))
  · exact s.alignAlert_only i

/-- Past the record's own replacement an acceptance keeps to its slot; the sense record stands. -/
theorem State.acceptPolicy_only (s : State) (i : Slot) (p : Policy) :
    Only i (s.modSlot i fun r => { r with policy := some p, cs := { r.cs with attempts := min p.maxAttempts r.cs.attempts } })
      (s.acceptPolicy i p) :=
  (State.promote_only _ _).trans ((State.alignWatch_only _ _).trans
    ((State.alertAtAcceptance_only _ _ _).trans (State.promote_only _ _)))

theorem State.acceptPolicy_within (s : State) (i : Slot) (p : Policy) : Within i s (s.acceptPolicy i p) :=
  (Within.setSlot s i _).trans (s.acceptPolicy_only i p).toWithin

@[simp] theorem State.acceptPolicy_policy (s : State) (i : Slot) (p : Policy) :
    ((s.acceptPolicy i p).slot i).policy = some p := by
  rw [(s.acceptPolicy_only i p).policy]
  simp

/-! ## Traffic -/

theorem SlotRec.track_keeps (r : SlotRec) (i : Slot) (q : Tracked) (now : Tick) :
    (r.track i q now).1.policy = r.policy ∧ (r.track i q now).1.sense = r.sense := by
  unfold SlotRec.track
  dsimp only
  split
  · exact ⟨rfl, rfl⟩
  · split <;> exact ⟨rfl, rfl⟩

theorem State.dispose_only (s : State) (i : Slot) (r : HostRequest) : Only i s (s.dispose i r) := by
  unfold State.dispose
  split
  · split
    · exact (Only.setSlot s i _ (SlotRec.track_keeps _ _ _ _).1 (SlotRec.track_keeps _ _ _ _).2).trans (Only.emits _ _ _)
    · exact Only.emits _ _ _
    · exact Only.emits _ _ _
  · split
    · exact Only.emits _ _ _
    · exact Only.modSlot _ _ _ rfl rfl

theorem State.blocked_only (s : State) (i : Slot) (a : Addr) (k n : Nat) : Only i s (s.blocked i a k n) := by
  refine s.scoreWith_only i _ _ fun t => ?_
  split
  · exact Only.refl _ _
  · exact (Only.raise t i _ _ _ _).trans (Only.modSlot _ _ _ rfl rfl)

theorem State.cardWrite_only (s : State) (i : Slot) (w : CardWrite) : Only i s (s.cardWrite i w) := by
  unfold State.cardWrite
  split
  · exact Only.emits _ _ _
  · exact Only.emits _ _ _
  · split
    · exact Only.emits _ _ _
    · exact s.blocked_only i _ _ _
  · exact Only.modSlot _ _ _ rfl rfl
  · exact Only.refl _ _
  · exact Only.refl _ _

theorem State.cardRead_only (s : State) (i : Slot) (q : Requester) (a : Addr) (n : Nat) :
    Only i s (s.cardRead i q a n) := by
  unfold State.cardRead
  split
  · split
    · exact Only.emits _ _ _
    · split
      · exact Only.emits _ _ _
      · exact (Only.emits _ _ _).trans (State.blocked_only _ _ _ _ _)
    · exact Only.emits _ _ _
    · exact Only.emits _ _ _
  · exact Only.emits _ _ _

theorem State.cardError_only (s : State) (i : Slot) (v : Severity) : Only i s (s.cardError i v) := by
  unfold State.cardError
  split
  · exact Only.refl _ _
  · split
    · exact s.scoreEvent_only i _
    · exact s.scoreEvent_only i _
    · split
      · exact (Only.raise s i _ _ _ _).trans (State.cardFence_only _ _ _)
      · exact s.scoreWith_only i _ _ fun t => Only.raise t i _ _ _ _

theorem State.cardRequest_only (s : State) (i : Slot) (r : CardRequest) : Only i s (s.cardRequest i r) := by
  unfold State.cardRequest
  split
  · exact s.cardWrite_only i _
  · exact s.cardRead_only i _ _ _
  · exact s.cardError_only i _

end Sys2Proof.Machine
end

