-- ==== Sys2Proof/Laws/Returns.lean ====
section
/-! SUPPORT. What a return, a state entry and the end of an engine operation do, in the words of Safety: `returned`,
`arrived` and `operationEnded`; what the end of the drain begins, with an isolation lead and without. -/

namespace Sys2Proof.Machine

open Sys2Proof

/-! ## Returns (R147, R173) -/

/-- An entry in flight is returned by its two writes; only the outputs, the in-flight list and ACTION_DONE change. -/
theorem State.giveBack_eq (s : State) (i : Slot) (e : ActEntry) (f : InFlight) (cb : ControlBlock) (o : ActOutcome)
    (n : Nat) (hcb : s.ri.cb = some cb) (hf : s.ri.inFlight.find? (fun g => decide (g.index = e.index)) = some f) :
    s.giveBack i e o n =
      { s with
        out := s.out ++
          [.hostWrite (ringAddr cb.actionBase e.index + 16) (returnBody o (s.slot i).cs.state n f.taken s.tb.counter),
            .hostWrite (ringAddr cb.actionBase e.index) (toLE 2 (e.controlWord i))]
        ri := { s.ri with
          inFlight := s.ri.inFlight.filter fun g => !decide (g.index = e.index)
          causes := { s.ri.causes with actionDone := true } } } := by
  conv_lhs =>
    unfold State.giveBack
    rw [hcb, hf]
  rfl

/-- The end of the last entry that a record holds. -/
theorem State.endEntry_returned (s : State) (i : Slot) (e : ActEntry) (f : InFlight) (cb : ControlBlock) (o : ActOutcome)
    (n : Nat) (h : s.holdsEntry i e f cb) :
    s.returned (s.endEntry i o n) [] i e f cb o (s.slot i).cs.state n := by
  obtain ⟨hc, hr, hcb, hf⟩ := h
  have hend : s.endEntry i o n = (s.giveBack i e o n).setAd i AdRec.free := by
    simp [State.endEntry, hc, hr, State.skipAll]
  rw [hend, s.giveBack_eq i e f cb o n hcb hf]
  refine ⟨?_, by rw [State.setAd, State.modSlot_ri], by rw [State.setAd, State.modSlot_ri], ?_⟩
  · rw [State.setAd, State.modSlot_out, List.append_nil]
  · rw [State.setAd, State.modSlot_slot_self, AdRec.free]

/-- With its entry in flight, `returnOf` is the two writes. -/
theorem State.returnOf_eq (s : State) (cb : ControlBlock) (i : Slot) (e : ActEntry) (f : InFlight) (o : ActOutcome)
    (st : SlotState) (n : Nat) (hf : s.ri.inFlight.find? (fun g => decide (g.index = e.index)) = some f) :
    s.returnOf cb i e o st n =
      [.hostWrite (ringAddr cb.actionBase e.index + 16) (returnBody o st n f.taken s.tb.counter),
        .hostWrite (ringAddr cb.actionBase e.index) (toLE 2 (e.controlWord i))] := by
  simp [State.returnOf, hf]

/-- An entry in flight is found under its index. -/
theorem found_inFlight {l : List InFlight} {n : Nat} (h : ∃ g ∈ l, g.index = n) :
    ∃ f, l.find? (fun g => decide (g.index = n)) = some f := by
  obtain ⟨g, hg, hn⟩ := h
  exact Option.isSome_iff_exists.1 (List.find?_isSome.2 ⟨g, hg, by simpa using hn⟩)

/-- The return of one entry leaves another in flight as it was. -/
theorem find_inFlightBut (l : List InFlight) (m n : Nat) (h : n ≠ m) :
    (l.filter fun g => !decide (g.index = m)).find? (fun g => decide (g.index = n))
      = l.find? fun g => decide (g.index = n) := by
  rw [List.find?_filter]
  congr 1
  funext g
  by_cases hg : g.index = n
  · subst hg; simp [h]
  · simp [hg]

/-- Entries in flight returned SKIPPED: their writes in ring order, and their indices out of the in-flight list (R160). -/
theorem State.skipAll_returns (i : Slot) (cb : ControlBlock) (es : List ActEntry) :
    ∀ s : State, s.ri.cb = some cb → es.Pairwise (fun x y => x.index ≠ y.index) →
      (∀ x ∈ es, ∃ g ∈ s.ri.inFlight, g.index = x.index) →
      (s.skipAll i es).out = s.out ++ es.flatMap (fun x => s.returnOf cb i x .skipped (s.slot i).cs.state 0)
        ∧ (s.skipAll i es).ri.inFlight = s.inFlightBut es ∧ (s.skipAll i es).slots = s.slots
        ∧ (s.ri.causes.actionDone = true → (s.skipAll i es).ri.causes = s.ri.causes) := by
  induction es with
  | nil =>
    intro s _ _ _
    exact ⟨by simp [State.skipAll], by simp [State.skipAll, State.inFlightBut], rfl, fun _ => rfl⟩
  | cons e es ih =>
    intro s hcb hp hin
    obtain ⟨he, hes⟩ := List.pairwise_cons.1 hp
    obtain ⟨f, hf⟩ := found_inFlight (hin e List.mem_cons_self)
    have hg := s.giveBack_eq i e f cb .skipped 0 hcb hf
    have hcb' : (s.giveBack i e .skipped 0).ri.cb = some cb := by rw [hg]; exact hcb
    have hin' : ∀ x ∈ es, ∃ g ∈ (s.giveBack i e .skipped 0).ri.inFlight, g.index = x.index := by
      intro x hx
      obtain ⟨g, hgm, hgx⟩ := hin x (List.mem_cons_of_mem _ hx)
      refine ⟨g, ?_, hgx⟩
      rw [hg]
      exact List.mem_filter.2 ⟨hgm, by simpa [hgx] using (he x hx).symm⟩
    have hslot : (s.giveBack i e .skipped 0).slot i = s.slot i := by rw [hg]; rfl
    have hret : ∀ x ∈ es, ∀ st, (s.giveBack i e .skipped 0).returnOf cb i x .skipped st 0 = s.returnOf cb i x .skipped st 0 := by
      intro x hx st
      rw [hg]
      simp only [State.returnOf]
      rw [find_inFlightBut _ _ _ (he x hx).symm]
    have hs : s.skipAll i (e :: es) = (s.giveBack i e .skipped 0).skipAll i es := rfl
    obtain ⟨h1, h2, h3, h4⟩ := ih _ hcb' hes hin'
    refine ⟨?_, ?_, ?_, fun hd => ?_⟩
    · rw [hs, h1, hslot, List.flatMap_cons, s.returnOf_eq cb i e f .skipped _ 0 hf,
        List.flatMap_congr fun x hx => hret x hx _]
      rw [hg]
      simp
    · rw [hs, h2, hg]
      simp [State.inFlightBut, List.filter_filter, Bool.and_comm]
    · rw [hs, h3, hg]
    · rw [hs, h4 (by rw [hg]), hg]
      simp [← hd]

/-- An entry of a plan that ends with an outcome other than DONE, or the last of it (R160). -/
theorem State.endEntry_planEnded (s : State) (i : Slot) (e : ActEntry) (rest : List ActEntry) (cb : ControlBlock)
    (o : ActOutcome) (n : Nat) (h : s.holdsPlan i e rest cb) (ho : o = .done → rest = []) :
    s.planEnded (s.endEntry i o n) [] i e rest cb o (s.slot i).cs.state n := by
  obtain ⟨hc, hr, hcb, hp, hin⟩ := h
  obtain ⟨he, hes⟩ := List.pairwise_cons.1 hp
  obtain ⟨f, hf⟩ := found_inFlight (hin e List.mem_cons_self)
  have hg := s.giveBack_eq i e f cb o n hcb hf
  have hend : s.endEntry i o n = ((s.giveBack i e o n).skipAll i rest).setAd i AdRec.free := by
    have : ¬ (o = .done ∧ rest ≠ []) := fun k => k.2 (ho k.1)
    simp only [State.endEntry, hc, hr, if_neg this]
  have hin' : ∀ x ∈ rest, ∃ g ∈ (s.giveBack i e o n).ri.inFlight, g.index = x.index := by
    intro x hx
    obtain ⟨g, hgm, hgx⟩ := hin x (List.mem_cons_of_mem _ hx)
    refine ⟨g, ?_, hgx⟩
    rw [hg]
    exact List.mem_filter.2 ⟨hgm, by simpa [hgx] using (he x hx).symm⟩
  have hslot : (s.giveBack i e o n).slot i = s.slot i := by rw [hg]; rfl
  have hret : ∀ x ∈ rest, ∀ st, (s.giveBack i e o n).returnOf cb i x .skipped st 0 = s.returnOf cb i x .skipped st 0 := by
    intro x hx st
    rw [hg]
    simp only [State.returnOf]
    rw [find_inFlightBut _ _ _ (he x hx).symm]
  obtain ⟨h1, h2, _, h4⟩ := State.skipAll_returns i cb rest (s.giveBack i e o n) (by rw [hg]; exact hcb) hes hin'
  rw [hend]
  refine ⟨?_, ?_, ?_, ?_⟩
  · rw [State.setAd, State.modSlot_out, h1, hslot, List.flatMap_congr fun x hx => hret x hx _,
      s.returnOf_eq cb i e f o _ n hf, hg, List.append_nil]
  · rw [State.setAd, State.modSlot_ri, h2, hg]
    simp [State.inFlightBut, List.filter_filter, Bool.and_comm]
  · rw [State.setAd, State.modSlot_ri, h4 (by rw [hg]), hg]
  · rw [State.setAd, State.modSlot_slot_self, AdRec.free]

/-! ## State entries (R148 to R152) -/

/-- The outcome that the dispatcher gives at a state entry is the one of the table. -/
theorem ActCode.atEntry_iff (k : ActCode) (st : SlotState) (o : ActOutcome) :
    k.atEntry st = some o ↔ (k, st, o) ∈ entryReturns := by
  cases k <;> cases st <;> simp [ActCode.atEntry, entryReturns, eq_comm]

/-- What a state entry does to the record: the action that awaits it is returned, any other is kept. -/
theorem State.onEntry_arrived (s : State) (i : Slot) (n : Nat) :
    s.arrived (s.onEntry i (s.slot i).cs.state n) [] i (s.slot i).cs.state n (s.slot i).pru.lastReading := by
  intro e f cb k h hk
  have hc := h.1
  have ha : e.awaits (s.slot i).cs.state = k.atEntry (s.slot i).cs.state := by simp only [ActEntry.awaits, hk]
  refine ⟨fun o ho => ?_, fun hn => ?_⟩
  · have hr : e.entryResult n (s.slot i).pru.lastReading
        = if k = .powerOff ∨ k = .retire then (s.slot i).pru.lastReading else n := by
      simp only [ActEntry.entryResult, hk]
      cases k <;> simp
    have he : s.onEntry i (s.slot i).cs.state n
        = s.endEntry i o (if k = .powerOff ∨ k = .retire then (s.slot i).pru.lastReading else n) := by
      simp only [State.onEntry, hc, ha, (k.atEntry_iff _ _).2 ho, hr]
    rw [he]
    exact s.endEntry_returned i e f cb o _ h
  · have hnone : k.atEntry (s.slot i).cs.state = none := by
      cases hk' : k.atEntry (s.slot i).cs.state with
      | none => rfl
      | some o => exact absurd ((k.atEntry_iff _ _).1 hk') (hn o)
    simp [State.onEntry, hc, ha, hnone]

/-! ## The engine (R106) -/

/-- Once the current operation has been put aside, the one at the head of the queue starts, or the engine is idle. -/
theorem State.seClear_seNext_ended (s : State) : s.operationEnded s.seClear.seNext [] := by
  refine ⟨fun h => ?_, fun op rest h => ?_⟩
  · simp [State.seClear, State.seNext, h]
  · have hn : s.seClear.seNext = { s.seClear with se := { s.seClear.se with queue := rest } }.seBegin op := by
      simp [State.seNext, State.seClear, h]
    rw [hn]
    exact ⟨rfl, rfl, rfl, rfl, rfl, rfl, rfl, by rw [List.append_nil]; exact List.prefix_refl _⟩

/-! ## The end of the drain and the isolation lead (R46, R69, R71) -/

/-- The NONE path. -/
theorem State.drainEnd_none (s : State) (i : Slot) (h : (s.slot i).cs.kind = .none) :
    s.drainEnd i = (s.modCs i fun c => { c with drain := none }).startReset i .isolate := by
  have : ((s.modCs i fun c => { c with drain := none }).slot i).cs.kind = .none := by
    rw [State.modCs, State.modSlot_slot_self]
    exact h
  simp only [State.drainEnd, this]

/-- With an isolation lead the card stays in ISOLATE until its timer event. -/
theorem State.startReset_lead (s : State) (i : Slot) (q : Sequence) (h : (s.pol i).isoLead ≠ 0) :
    s.startReset i q =
      (s.enter i .resetting).modPru i fun p =>
        { p with sequence := q, isoOpen := true, timer := some (s.pol i).isoLead, phase := .isolate } := if_neg h

/-- With none, ASSERT is entered in the same event. -/
theorem State.startReset_noLead (s : State) (i : Slot) (q : Sequence) (h : (s.pol i).isoLead = 0) :
    s.startReset i q =
      ((s.enter i .resetting).modPru i fun p =>
        { p with sequence := q, isoOpen := true, timer := some 0, phase := .isolate }).assertReset i := by
  simp only [State.startReset, h, if_true]

end Sys2Proof.Machine
end

