-- ==== Sys2Proof/Laws/Steps.lean ====
section
/-! SUPPORT. What the operations of the engine, the dispatcher, the sensors and the timers can touch: `Only` and `Within`,
continued. -/

namespace Sys2Proof.Machine

open Sys2Proof

theorem Only.takeEntries (i : Slot) (s : State) (es : List ActEntry) : Only i s (s.takeEntries es) :=
  ⟨⟨fun _ _ => rfl, rfl, rfl, rfl, rfl, List.prefix_refl _, unmoved rfl, le_rfl, ⟨[], by simp, rfl⟩, rfl⟩, rfl, rfl⟩

theorem State.align_only (i : Slot) (s : State) : Only i s s.align := by
  have h : Only i s { s with ri := { s.ri with summary := s.ri.summaryNow } } :=
    ⟨⟨fun _ _ => rfl, rfl, rfl, rfl, rfl, List.prefix_refl _, unmoved rfl, le_rfl, ⟨[], by simp, rfl⟩, rfl⟩, rfl, rfl⟩
  unfold State.align
  dsimp only
  split
  · split
    · split
      · exact h.trans (Only.emits _ _ _)
      · exact h
    · exact h
  · exact h

/-! ## The engine -/

theorem State.endSnapshot_only (s : State) (i : Slot) (o : ActOutcome) (n : Nat) : Only i s (s.endSnapshot i o n) := by
  unfold State.endSnapshot
  split
  · exact s.endEntry_only i _ _
  · exact Only.refl _ _

theorem State.snapshotEnds_only (s : State) (i : Slot) (o : ActOutcome) (n : Nat) : Only i s (s.snapshotEnds i o n) :=
  (s.seClear_only i).trans ((State.endSnapshot_only _ _ _ _).trans (State.seNext_only _ _))

theorem State.restoreUnusable_only (s : State) (i : Slot) (n : Nat) : Only i s (s.restoreUnusable i n) :=
  (s.seClear_only i).trans ((State.enterHeld_only _ _).trans ((Only.raise _ i _ _ _ _).trans
    ((State.onEntry_only _ _ _ _).trans (State.seNext_only _ _))))

theorem State.restoreDone_only (s : State) (i : Slot) : Only i s (s.restoreDone i) :=
  (s.seClear_only i).trans ((State.enterProbation_only _ _).trans (State.seNext_only _ _))

theorem State.accessFailed_only (s : State) (i : Slot) (k : OpKind) (c : Nat) : Only i s (s.accessFailed i k c) := by
  unfold State.accessFailed
  split
  · exact s.snapshotEnds_only i _ _
  · exact (s.seClear_only i).trans ((State.failAttempt_only _ _ _ _).trans (State.seNext_only _ _))

theorem State.offer_only (s : State) (i : Slot) (k : OpKind) (w : Option Dword) : Only i s (s.offer i k w) := by
  unfold State.offer
  dsimp only
  split
  · refine Only.trans ?_ (Only.emits _ _ _)
    exact Only.trans (t := s.modSlot i _) (Only.modSlot _ _ _ (by rfl) (by rfl)) (Only.se _ _ _)
  · exact s.accessFailed_only i _ _

theorem State.snapshotDone_only (s : State) (i : Slot) : Only i s (s.snapshotDone i) :=
  (s.seWrite_only i _ _).trans (State.snapshotEnds_only _ _ _ _)

theorem State.copyDword_only (s : State) (i : Slot) (d : Dword) : Only i s (s.copyDword i d) := by
  unfold State.copyDword
  dsimp only
  split
  · exact Only.trans (Only.trans (State.seWrite_only _ _ _ _) (Only.se _ _ _)) (State.offer_only _ _ _ _)
  · exact (State.seWrite_only _ _ _ _).trans (State.snapshotDone_only _ _)

theorem State.nextWrite_only (s : State) (i : Slot) : Only i s (s.nextWrite i) := by
  unfold State.nextWrite
  split
  · exact (Only.se i s _).trans (State.offer_only _ _ _ _)
  · exact s.restoreDone_only i

theorem State.accessSucceeded_only (s : State) (i : Slot) (k : OpKind) (d : Dword) :
    Only i s (s.accessSucceeded i k d) := by
  unfold State.accessSucceeded
  split
  · exact s.copyDword_only i d
  · split
    · exact (Only.se i s _).trans (State.offer_only _ _ _ _)
    · exact s.nextWrite_only i
  · split
    · exact s.nextWrite_only i
    · exact s.accessFailed_only i _ _
  · exact Only.refl _ _

theorem State.accessResult_only (s : State) (i : Slot) (r : AccessResult) : Only i s (s.accessResult i r) := by
  unfold State.accessResult
  split
  · exact Only.refl _ _
  · split
    · split
      · exact s.accessSucceeded_only i _ _
      · exact s.accessFailed_only i _ _
      · exact s.accessFailed_only i _ _
    · exact Only.refl _ _

theorem State.seReadError_only (s : State) (op : SeOp) : Only op.slot s (s.seReadError op) := by
  unfold State.seReadError
  split
  · exact s.snapshotEnds_only _ _ _
  · exact s.restoreUnusable_only _ _

theorem State.mapInvalid_only (s : State) (op : SeOp) : Only op.slot s (s.mapInvalid op) := by
  unfold State.mapInvalid
  split
  · exact s.snapshotEnds_only _ _ _
  · exact s.restoreUnusable_only _ _

theorem State.headerRead_only (s : State) (op : SeOp) (b : List Byte) : Only op.slot s (s.headerRead op b) := by
  unfold State.headerRead
  dsimp only
  split
  · exact (Only.se _ s _).trans (State.seRead_only _ _ _ _ _ _)
  · split
    · exact (Only.se _ s _).trans (State.seRead_only _ _ _ _ _ _)
    · exact s.restoreUnusable_only _ _

theorem State.mapHeadRead_only (s : State) (op : SeOp) (b : List Byte) : Only op.slot s (s.mapHeadRead op b) := by
  unfold State.mapHeadRead
  split
  · exact State.seRead_only _ _ _ _ _ _
  · exact s.mapInvalid_only op

theorem State.copyBegin_only (s : State) (i : Slot) : Only i s (s.copyBegin i) :=
  (s.seWrite_only i _ _).trans ((Only.se _ _ _).trans (State.offer_only _ _ _ _))

theorem State.mapEntriesRead_only (s : State) (op : SeOp) (b : List Byte) (n : Nat) :
    Only op.slot s (s.mapEntriesRead op b n) := by
  unfold State.mapEntriesRead
  split
  · exact s.mapInvalid_only op
  · dsimp only
    split
    · exact (Only.se _ s _).trans (State.copyBegin_only _ _)
    · split
      · exact (Only.se _ s _).trans (State.seRead_only _ _ _ _ _ _)
      · exact (Only.se _ s _).trans (State.restoreUnusable_only _ _ _)

theorem State.writeBackBegin_only (s : State) (i : Slot) (b : List Byte) : Only i s (s.writeBackBegin i b) := by
  unfold State.writeBackBegin
  dsimp only
  split
  · exact (Only.se i s _).trans (State.offer_only _ _ _ _)
  · exact (Only.se i s _).trans (State.restoreDone_only _ _)

theorem State.shadowRead_only (s : State) (id : Nat) (r : ReadResult) (op : SeOp) (h : s.se.current = some op) :
    Only op.slot s (s.shadowRead id r) := by
  unfold State.shadowRead
  split
  next op' r' w hc _ =>
    obtain rfl : op' = op := by simpa [h] using hc.symm
    split
    · split
      · exact s.seReadError_only _
      · split
        · exact s.headerRead_only _ _
        · exact s.mapHeadRead_only _ _
        · exact s.mapEntriesRead_only _ _ _
        · split
          · exact s.writeBackBegin_only _ _
          · exact Only.refl _ _
    · exact Only.refl _ _
  · exact Only.refl _ _

theorem State.shadowReadLate_only (s : State) (op : SeOp) (h : s.se.current = some op) :
    Only op.slot s s.shadowReadLate := by
  unfold State.shadowReadLate
  split
  next op' r' w hc _ =>
    obtain rfl : op' = op := by simpa [h] using hc.symm
    split
    · exact s.seReadError_only _
    · exact Only.refl _ _
  · exact Only.refl _ _

/-! ## Completions and deadlines -/

theorem State.hostCompletes_only (s : State) (i : Slot) (k : Tag) (f : OrtFields) (q : Requester) (c : CardCpl) :
    Only i s (s.hostCompletes i k f q c) := by
  unfold State.hostCompletes
  split
  · exact (Only.emits i s _).trans ((State.setEntry_only _ _ _ _).trans
      ((State.promote_only _ _).trans (State.scoreEvent_only _ _ _)))
  · split
    · exact (Only.emits i s _).trans (State.setEntry_only _ _ _ _)
    · have h : Only i s (((s.emit (.completion q c)).setEntry i k .free).promote i) :=
        (Only.emits i s _).trans ((State.setEntry_only _ _ _ _).trans (State.promote_only _ _))
      dsimp only
      split
      · exact h.trans ((State.scoreEvent_only _ _ _).trans (State.countSuccess_only _ _))
      · exact h.trans (State.scoreEvent_only _ _ _)

theorem State.engineEvent_only (s : State) (i : Slot) (b : Bool) (e : ScoreEvent) (r : AccessResult) :
    Only i s (s.engineEvent i b e r) := by
  unfold State.engineEvent
  dsimp only
  split
  · exact (s.weigh_only i e).trans ((State.accessResult_only _ _ _).trans (State.scoreChecks_only _ _ _ _))
  · exact (s.weigh_only i e).trans ((State.scoreChecks_only _ _ _ _).trans (State.accessResult_only _ _ _))

theorem State.engineCompletes_only (s : State) (i : Slot) (k : Tag) (f : OrtFields) (c : CardCpl) (b : Bool) :
    Only i s (s.engineCompletes i k f c b) := by
  unfold State.engineCompletes
  dsimp only
  split
  · exact (s.setEntry_only i k _).trans (State.engineEvent_only _ _ _ _ _)
  · split
    · exact Only.trans (Only.trans (s.setEntry_only i k _) (Only.free _ _ _)) (State.accessResult_only _ _ _)
    · exact (s.setEntry_only i k _).trans (State.engineEvent_only _ _ _ _ _)

theorem State.lateCompletes_only (s : State) (i : Slot) (k : Tag) : Only i s (s.lateCompletes i k) := by
  have h : Only i s (((s.setEntry i k .free).scoreEvent i .late).promote i) :=
    (s.setEntry_only i k _).trans ((State.scoreEvent_only _ _ _).trans (State.promote_only _ _))
  unfold State.lateCompletes
  dsimp only
  split
  · exact h.trans (State.drainEnd_only _ _)
  · exact h

theorem State.cardCompletion_only (s : State) (i : Slot) (n : Nat) (c : CardCpl) (b : Bool) :
    Only i s (s.cardCompletion i n c b) := by
  unfold State.cardCompletion
  split
  · dsimp only
    split
    · exact s.scoreEvent_only i _
    · exact s.lateCompletes_only i _
    · split
      · exact s.hostCompletes_only i _ _ _ _
      · exact s.engineCompletes_only i _ _ _ _
  · exact s.scoreEvent_only i _

theorem State.deadlineExpiry_only (s : State) (i : Slot) (k : Tag) (b : Bool) : Only i s (s.deadlineExpiry i k b) := by
  unfold State.deadlineExpiry
  split
  · split
    · split
      · exact (Only.emits i s _).trans ((State.setEntry_only _ _ _ _).trans
          ((State.scoreEvent_only _ _ _).trans (State.promote_only _ _)))
      · exact (s.setEntry_only i k _).trans (State.engineEvent_only _ _ _ _ _)
    · exact Only.refl _ _
  · exact Only.refl _ _

theorem State.heldExpiry_only (s : State) (i : Slot) (q : Requester) : Only i s (s.heldExpiry i q) := by
  unfold State.heldExpiry
  split
  · split
    · exact Only.trans (Only.modSlot s i _ (by rfl) (by rfl)) (Only.emits _ _ _)
    · exact Only.refl _ _
  · exact Only.refl _ _

/-! ## Actions -/

theorem State.startFence_only (s : State) (i : Slot) (e : ActEntry) : Only i s (s.startFence i e) := by
  unfold State.startFence
  split
  · split
    · exact s.endEntry_only i _ _
    · exact s.recoverAction_only i _
  · exact s.fence_only i _ _ _

theorem State.startPowerOff_only (s : State) (i : Slot) : Only i s (s.startPowerOff i) := by
  unfold State.startPowerOff
  split
  · exact s.endEntry_only i _ _
  · exact s.endEntry_only i _ _
  · exact s.powerDown_only i _ _

theorem State.startRetire_only (s : State) (i : Slot) : Only i s (s.startRetire i) := by
  unfold State.startRetire
  split
  · exact (s.setTrigger_only i _).trans ((State.enterRetired_only _ _ _).trans (State.endEntry_only _ _ _ _))
  · exact s.endEntry_only i _ _
  · exact s.powerDown_only i _ _

theorem State.startLoadPolicy_only (s : State) (i : Slot) : Only i s (s.startLoadPolicy i) := by
  unfold State.startLoadPolicy
  split
  · exact (s.setAd_only i _).trans (Only.issueRead _ _ _ _ _)
  · exact Only.refl _ _

theorem State.run_only (s : State) (i : Slot) (e : ActEntry) (c : ActCode) : Only i s (s.run i e c) := by
  unfold State.run
  split
  · exact s.startFence_only i e
  · exact s.recoverAction_only i _
  · exact s.bringUp_only i _
  · exact s.startPowerOff_only i
  · exact s.startRetire_only i
  · exact (s.enterProbation_only i).trans (State.endEntry_only _ _ _ _)
  · exact (s.probationEnd_only i).trans (State.endEntry_only _ _ _ _)
  · exact s.seRequest_only i _
  · exact s.startLoadPolicy_only i
  · exact s.endEntry_only i _ _
  · exact Only.setRm _ _ _

theorem State.overtake_only (s : State) (i : Slot) : Only i s (s.overtake i) := by
  unfold State.overtake
  dsimp only
  refine Only.trans ?_ (State.endEntry_only _ _ _ _)
  have h : Only i s (if (s.slot i).ad.runs .snapshot then s.seDrop i else s) := by
    split
    · exact s.seDrop_only i
    · exact Only.refl _ _
  split
  · exact h.trans (Only.setRm _ _ _)
  · exact h

theorem State.overtakeByPress_only (s : State) (i : Slot) : Only i s (s.overtakeByPress i) := by
  unfold State.overtakeByPress
  dsimp only
  split
  · exact (s.skipAll_only i _).trans (State.setAd_only _ _ _)
  · exact s.overtake_only i

theorem State.startNext_only (s : State) (i : Slot) : Only i s (s.startNext i) := by
  unfold State.startNext
  dsimp only
  split
  · split
    · exact (s.setAd_only i _).trans (State.endEntry_only _ _ _ _)
    · exact (s.setAd_only i _).trans (State.run_only _ _ _ _)
  · exact Only.refl _ _

theorem State.runPlan_only (i : Slot) (n : Nat) (s : State) : Only i s (State.runPlan i n s) := by
  induction n generalizing s with
  | zero => exact Only.refl _ _
  | succ n ih => exact (s.startNext_only i).trans (ih _)

theorem State.settle_only (s : State) (i : Slot) : Only i s (s.settle i) := State.runPlan_only _ _ _

theorem State.close_only (s : State) (i : Slot) : Only i s (s.close i) :=
  (s.settle_only i).trans (State.align_only _ _)

theorem State.passEntries_only (s : State) (i : Slot) (o : Occupant) (e : ActEntry) (es : List ActEntry) :
    Only i s (s.passEntries i o e es) := by
  unfold State.passEntries
  split
  · exact (s.giveBack_only i _ _ _).trans (State.skipAll_only _ _ _)
  · dsimp only
    refine Only.trans (Only.trans (Only.trans ?_ (State.setAd_only _ _ _)) (State.run_only _ _ _ _))
      (State.settle_only _ _)
    split
    · exact Only.refl _ _
    · exact s.overtake_only i

theorem State.alone_only (s : State) (i : Slot) (c : BitVec 8) (a : ActionArgs) : Only i s (s.alone i c a) := by
  unfold State.alone
  split
  · exact (Only.takeEntries i s _).trans ((State.passEntries_only _ _ _ _ _).trans (State.align_only _ _))
  · exact Only.refl _ _

theorem State.policyReadEnds_within (s : State) (i : Slot) (b : Option (List Byte)) :
    Within i s (s.policyReadEnds i b) := by
  unfold State.policyReadEnds
  split
  · exact (s.endEntry_only i _ _).toWithin
  · split
    · exact (s.endEntry_only i _ _).toWithin
    · split
      · exact (s.acceptPolicy_within i _).trans (State.endEntry_only _ _ _ _).toWithin
      · exact (s.endEntry_only i _ _).toWithin

theorem State.policyReadEnds_sense (s : State) (i : Slot) (b : Option (List Byte)) :
    ((s.policyReadEnds i b).slot i).sense = (s.slot i).sense := by
  unfold State.policyReadEnds
  split
  · exact (s.endEntry_only i _ _).sense
  · split
    · exact (s.endEntry_only i _ _).sense
    · split
      · rw [(State.endEntry_only _ i _ _).sense, (s.acceptPolicy_only i _).sense]
        simp
      · exact (s.endEntry_only i _ _).sense

theorem State.loadPolicyRead_within (s : State) (i : Slot) (id : Nat) (r : ReadResult) :
    Within i s (s.loadPolicyRead i id r) := by
  unfold State.loadPolicyRead
  split
  · split
    · exact (s.policyReadEnds_within i _).trans ((State.settle_only _ i).trans (State.align_only i _)).toWithin
    · exact Within.refl _ _
  · exact Within.refl _ _

theorem State.loadPolicyLate_only (s : State) (i : Slot) : Only i s (s.loadPolicyLate i) := by
  unfold State.loadPolicyLate
  split
  · split
    · exact (s.endEntry_only i _ _).trans ((State.settle_only _ i).trans (State.align_only i _))
    · exact Only.refl _ _
  · exact Only.refl _ _

theorem State.sampleResult_only (s : State) (i : Slot) (n : Nat) : Only i s (s.sampleResult i n) := by
  unfold State.sampleResult
  dsimp only
  split
  · exact s.endEntry_only i _ _
  · exact Only.refl _ _

/-! ## Sensing -/

theorem Within.modSense (s : State) (i : Slot) (f : SenseRec → SenseRec) : Within i s (s.modSense i f) :=
  Within.setSlot s i _

@[simp] theorem State.modSense_policy (s : State) (i : Slot) (f : SenseRec → SenseRec) :
    ((s.modSense i f).slot i).policy = (s.slot i).policy := by simp [State.modSense]

theorem State.emptyHeader_only (s : State) (i : Slot) : Only i s (s.emptyHeader i) := by
  unfold State.emptyHeader
  split
  · exact Only.emits _ _ _
  · exact Only.refl _ _

theorem State.presenceLost_only (s : State) (i : Slot) : Only i s (s.presenceLost i) := by
  unfold State.presenceLost
  split
  · exact Only.refl _ _
  · exact (s.presenceWork_only i).trans ((State.seDrop_only _ _).trans ((State.emptyHeader_only _ _).trans
      ((State.modPru_only _ _ _).trans ((State.resetAssertion_only _ _).trans ((Only.setRm _ _ _).trans
      ((State.enter_only _ _ _).trans ((State.modCs_only _ _ _).trans
      ((State.loseCard_only _ _).trans (Only.raise _ _ _ _ _ _)))))))))

theorem State.presenceGained_only (s : State) (i : Slot) : Only i s (s.presenceGained i) := by
  have h : Only i s (((((s.enter i .off).modCs i fun c => { c with attempts := 0, trigger := .none }).modSlot i
      SlotRec.clearScore).modPru i fun p => { p with bleed := false }).raise i .presenceOn) :=
    (s.enter_only i _).trans ((State.modCs_only _ _ _).trans ((Only.modSlot _ _ _ rfl rfl).trans
      ((State.modPru_only _ _ _).trans (Only.raise _ _ _ _ _ _))))
  unfold State.presenceGained
  split
  · dsimp only
    split
    · split
      · exact h.trans (State.bringUp_only _ _ _)
      · exact h
    · exact h
  · exact Only.refl _ _

theorem State.shortPress_only (s : State) (i : Slot) (n : Nat) : Only i s (s.shortPress i n) := by
  unfold State.shortPress
  dsimp only
  split
  · split
    · exact (Only.raise _ _ _ _ _ _).trans (State.fence_only _ _ _ _ _)
    · exact (Only.raise _ _ _ _ _ _).trans (State.fence_only _ _ _ _ _)
    · exact Only.raise _ _ _ _ _ _
  · exact Only.raise _ _ _ _ _ _

theorem State.pressActs_only (s : State) (i : Slot) : Only i s (s.pressActs i) := by
  unfold State.pressActs
  split
  · exact Only.refl _ _
  · exact (s.setTrigger_only i _).trans (State.bringUp_only _ _ _)
  · exact s.recoverRetired_only i _
  · exact (s.setTrigger_only i _).trans (State.powerDown_only _ _ _ _)
  · exact s.powerDown_only i _ _

theorem State.longPress_only (s : State) (i : Slot) (n : Nat) : Only i s (s.longPress i n) := by
  unfold State.longPress
  dsimp only
  split
  · exact (Only.raise _ _ _ _ _ _).trans ((State.overtakeByPress_only _ _).trans (State.pressActs_only _ _))
  · exact Only.raise _ _ _ _ _ _

/-- Only slot `i` has acted, and its policy stands. -/
def WithinP (i : Slot) (s t : State) : Prop := Within i s t ∧ (t.slot i).policy = (s.slot i).policy

theorem WithinP.refl (i : Slot) (s : State) : WithinP i s s := ⟨Within.refl _ _, rfl⟩

theorem WithinP.trans {i : Slot} {s t u : State} (h : WithinP i s t) (k : WithinP i t u) : WithinP i s u :=
  ⟨h.1.trans k.1, k.2.trans h.2⟩

theorem Only.withinP {i : Slot} {s t : State} (h : Only i s t) : WithinP i s t := ⟨h.toWithin, h.policy⟩

theorem WithinP.modSense (s : State) (i : Slot) (f : SenseRec → SenseRec) : WithinP i s (s.modSense i f) :=
  ⟨Within.modSense _ _ _, State.modSense_policy _ _ _⟩

theorem State.presenceSample_within (s : State) (i : Slot) (b : Bool) : WithinP i s (s.presenceSample i b) := by
  unfold State.presenceSample
  dsimp only
  split
  · split
    · exact (WithinP.modSense _ _ _).trans (State.presenceGained_only _ _).withinP
    · exact (WithinP.modSense _ _ _).trans (State.presenceLost_only _ _).withinP
  · exact WithinP.modSense _ _ _

theorem State.pressSample_within (s : State) (i : Slot) : WithinP i s (s.pressSample i) := by
  unfold State.pressSample
  dsimp only
  split
  · exact (WithinP.modSense _ _ _).trans (State.longPress_only _ _ _).withinP
  · exact WithinP.modSense _ _ _

theorem State.released_within (s : State) (i : Slot) : WithinP i s (s.released i) := by
  unfold State.released
  dsimp only
  split
  · exact WithinP.modSense _ _ _
  · exact (WithinP.modSense _ _ _).trans (State.shortPress_only _ _ _).withinP

theorem State.attentionSample_within (s : State) (i : Slot) (b : Bool) : WithinP i s (s.attentionSample i b) := by
  unfold State.attentionSample
  dsimp only
  split
  · split
    · exact (s.pressSample_within i).trans (State.released_within _ _)
    · exact (s.pressSample_within i).trans (WithinP.modSense _ _ _)
  · split <;> exact WithinP.modSense _ _ _

theorem State.slotSamples_within (s : State) (p : SensePins) (i : Slot) : WithinP i s (s.slotSamples p i) := by
  unfold State.slotSamples
  dsimp only
  split
  · exact (s.attentionSample_within i _).trans ((State.settle_only _ _).withinP.trans
      ((State.presenceSample_within _ _ _).trans (State.settle_only _ _).withinP))
  · exact (s.presenceSample_within i _).trans ((State.settle_only _ _).withinP.trans
      ((State.attentionSample_within _ _ _).trans (State.settle_only _ _).withinP))

theorem State.powerLostOutcome_only (s : State) (i : Slot) : Only i s (s.powerLostOutcome i) := by
  unfold State.powerLostOutcome
  split <;> first
    | with_reducible exact s.failAttempt_only i _ _
    | with_reducible exact (s.modCs_only i _).trans (State.shutdown_only _ _)
    | with_reducible exact Only.refl _ _

theorem State.cutTraffic_only (s : State) (i : Slot) : Only i s (s.cutTraffic i) := Only.modSlot _ _ _ rfl rfl

theorem State.powerLost_only (s : State) (i : Slot) : Only i s (s.powerLost i) := by
  have h : Only i s ((s.raise i .powerLost).setTrigger i .powerLost) :=
    (Only.raise _ _ _ _ _ _).trans (State.setTrigger_only _ _ _)
  have h1 := h.trans ((State.fenceWork_only _ _).trans ((State.cutTraffic_only _ _).trans
    ((State.cancelOp_only _ _).trans (State.powerLostOutcome_only _ _))))
  have h2 := h.trans ((State.cancelOp_only _ _).trans (State.powerLostOutcome_only _ _))
  unfold State.powerLost
  dsimp only
  split <;> first
    | with_reducible exact Only.refl _ _
    | with_reducible exact h1
    | with_reducible exact h2

theorem State.rampEnds_only (s : State) (i : Slot) (b : Bool) : Only i s (s.rampEnds i b) := by
  unfold State.rampEnds
  dsimp only
  split
  · exact s.rampFault_only i _
  · generalize (if b = true then _ else _ : Nat) = n
    split
    · exact (s.modPru_only i _).trans (State.rampFault_only _ _ _)
    · exact (s.modPru_only i _).trans (State.modPru_only _ _ _)

theorem State.powerGood_only (s : State) (i : Slot) (p b : Bool) : Only i s (s.powerGood i p b) := by
  unfold State.powerGood
  dsimp only
  split
  · exact Only.refl _ _
  · split
    · exact s.rampEnds_only i b
    · exact s.modPru_only i _
  · exact Only.refl _ _
  · exact Only.refl _ _
  · exact (s.modPru_only i _).trans (State.powerLost_only _ _)

theorem State.powerGoodSample_within (s : State) (p : TickPins) (i : Slot) : WithinP i s (s.powerGoodSample p i) := by
  unfold State.powerGoodSample
  dsimp only
  split
  · exact (WithinP.modSense _ _ _).trans (State.powerGood_only _ _ _ _).withinP
  · exact WithinP.modSense _ _ _

theorem State.linkUp_only (s : State) (i : Slot) : Only i s (s.linkUp i) := by
  unfold State.linkUp
  split
  · dsimp only
    split
    · exact (s.modPru_only i _).trans ((State.enter_only _ _ _).trans (State.seRequest_only _ _ _))
    · exact (s.modPru_only i _).trans ((State.enterHeld_only _ _).trans (State.onEntry_only _ _ _ _))
  · exact Only.refl _ _

/-! ## Timers and conversions -/

theorem State.drainTimer_only (s : State) (i : Slot) : Only i s (s.drainTimer i) := by
  unfold State.drainTimer
  split
  · exact s.drainEnd_only i
  · exact Only.refl _ _

theorem State.quietCount_only (s : State) (i : Slot) : Only i s (s.quietCount i) := by
  unfold State.quietCount
  dsimp only
  split
  · exact s.probationEnd_only i
  · exact Only.refl _ _

theorem State.isolateTimer_only (s : State) (i : Slot) : Only i s (s.isolateTimer i) := by
  unfold State.isolateTimer
  split
  · exact s.assertReset_only i
  · exact Only.refl _ _

theorem State.assertTimer_only (s : State) (i : Slot) : Only i s (s.assertTimer i) := by
  unfold State.assertTimer
  split
  · exact s.assertDone_only i
  · exact Only.refl _ _

theorem State.rampCheck_only (s : State) (i : Slot) : Only i s (s.rampCheck i) := by
  unfold State.rampCheck
  dsimp only
  split
  · exact s.rampFault_only i _
  · exact Only.refl _ _

theorem State.settleTimer_only (s : State) (i : Slot) : Only i s (s.settleTimer i) := by
  unfold State.settleTimer
  split
  · exact s.reconnect_only i
  · exact Only.refl _ _

theorem State.reconnectTimer_only (s : State) (i : Slot) : Only i s (s.reconnectTimer i) := by
  unfold State.reconnectTimer
  split
  · exact s.releaseReset_only i
  · exact Only.refl _ _

theorem State.trainingTimer_only (s : State) (i : Slot) : Only i s (s.trainingTimer i) := by
  unfold State.trainingTimer
  split
  · exact (s.modPru_only i _).trans (State.failAttempt_only _ _ _ _)
  · exact Only.refl _ _

theorem State.bleedTimer_only (s : State) (i : Slot) : Only i s (s.bleedTimer i) := by
  unfold State.bleedTimer
  split
  · exact (s.modPru_only i _).trans (Only.setRm _ _ _)
  · exact Only.refl _ _

theorem State.bleedResult_only (s : State) (i : Slot) (n : Nat) : Only i s (s.bleedResult i n) := by
  unfold State.bleedResult
  dsimp only
  split
  · exact (s.modPru_only i _).trans ((State.modPru_only _ _ _).trans (State.bleedEnd_only _ _))
  · split
    · exact (s.modPru_only i _).trans (State.modPru_only _ _ _)
    · exact (s.modPru_only i _).trans ((State.modPru_only _ _ _).trans
        ((Only.raise _ i _ _ _ _).trans (State.retireFromBleed_only _ _)))

theorem State.settlingEnds_only (i : Slot) (s : State) : Only i s s.settlingEnds := by
  unfold State.settlingEnds
  split
  · split
    · exact Only.setRm _ _ _
    · exact Only.refl _ _
  · exact Only.refl _ _

theorem State.handReading_only (s : State) (i : Slot) (n : Nat) : Only i s (s.handReading i n) := by
  unfold State.handReading
  dsimp only
  have h : Only i s (if (s.rm.req i).bleed then s.bleedResult i n else s) := by
    split
    · exact s.bleedResult_only i n
    · exact Only.refl _ _
  split
  · exact h.trans (State.sampleResult_only _ _ _)
  · exact h

theorem State.measuringEnds_only (s : State) (v : Int) (i : Slot) (h : s.rm.inService = some i) :
    Only i s (s.measuringEnds v) := by
  unfold State.measuringEnds
  split
  next j hj =>
    obtain rfl : j = i := by simpa [h] using hj.symm
    split
    · exact (s.handReading_only j _).trans ((Only.setRm _ _ _).trans (State.settle_only _ _))
    · exact Only.refl _ _
  · exact Only.refl _ _

end Sys2Proof.Machine
end

