-- ==== Sys2Proof/Tests/Slice0.lean ====
section
/-! SUPPORT. Tests: ill-formed commands, small steps of every row, and states that meet the hypotheses of the
obligations (`test_met_…`). -/

namespace Sys2Proof.Tests

open Sys2Proof Sys2Proof.Machine

/-! ## Ill-formed commands -/

theorem test_wf_order_length : (Instr.hostPortReset [0, 1, 2]).wf = false := by decide

theorem test_wf_order_twice : (Instr.hostPortReset [0, 0, 1, 2, 3, 4, 5, 6]).wf = false := by decide

theorem test_wf_order : (Instr.hostPortReset [7, 6, 5, 4, 3, 2, 1, 0]).wf = true := by decide

theorem test_wf_tick : (Instr.tick ⟨0, 0, []⟩ []).wf = false := by decide

theorem test_wf_early_sample : (Instr.tick ⟨0, 0, allSlots⟩ [.drain 0, .sense ⟨0, 0, 0, []⟩]).wf = false := by decide

theorem test_wf_sample : (Instr.senseSample ⟨0, 0, 0, []⟩).wf = false := by decide

theorem test_wf_memory_read_0 : (Instr.hostRequest (.nonPosted ⟨⟨0, 0, 0⟩, .memRead 0 0⟩)).wf = false := by decide

theorem test_wf_memory_read_129 : (Instr.hostRequest (.nonPosted ⟨⟨0, 0, 0⟩, .memRead 0 129⟩)).wf = false := by decide

theorem test_wf_config_read : (Instr.hostRequest (.nonPosted ⟨⟨0, 0, 0⟩, .cfgRead 0 1024⟩)).wf = false := by decide

theorem test_wf_config_write : (Instr.hostRequest (.nonPosted ⟨⟨0, 0, 0⟩, .cfgWrite 0 1024 0⟩)).wf = false := by decide

theorem test_wf_memory_write : (Instr.hostRequest (.posted (.memWrite 0 []))).wf = false := by decide

theorem test_wf_card_write : (Instr.cardRequest 0 (.write ⟨0, []⟩)).wf = false := by decide

theorem test_wf_card_read_0 : (Instr.cardRequest 0 (.read ⟨0, 0, 0⟩ 0 0)).wf = false := by decide

theorem test_wf_card_read_129 : (Instr.cardRequest 0 (.read ⟨0, 0, 0⟩ 0 129)).wf = false := by decide

theorem test_wf_index : (Instr.fence 0 ⟨256, 0, 0⟩).wf = false := by decide

theorem test_wf_action_code : (Instr.unknownActionCode 0 11 ⟨0, 0, 0⟩).wf = false := by decide

theorem test_wf_command : (Instr.unknownCommand 4).wf = false := by decide

/-! ## Sample records -/

def pol : Policy :=
  { autoContain := true, escalate := false, autoPowerOn := false, restore := true, fatalFence := false
    attention := true, probationTraffic := false, autoKind := .warm, maxAttempts := 3, busFirst := 16, busLast := 31
    memWindows := [⟨0x10000, 4096⟩], permitWindows := [⟨0x20000, 4096⟩], mapAddr := 0x400, areaAddr := 0x800
    outLimit := 2, probLimit := 1, bleedExt := 2, watchT := 40, fenceT := 80, probT := 20, offT := 500
    completionDeadline := 100, drain := 50, isoLead := 5, resetHold := 6, releaseLag := 7, bleedWait := 8
    bleedRecheck := 9, rampMin := 3, rampMax := 20, settle := 10, trainTimeout := 11, probQuiet := 12
    probTraffic := 2, attnLong := 4 }

def block : ControlBlock :=
  { actionBase := 0x1000, actionExp := 3, incidentExp := 3, prescaleSel := 0, divider := 0, scanInterval := 100
    senseInterval := 9, incidentBase := 0x2000, policyBase := 0x3000, intBase := 0x5000, intSize := 16, enables := 0 }

def darkPru : PruRec := SlotRec.reset.pru

def upPru : PruRec := { darkPru with isoOpen := false, asserted := false, power := true, rail := .good }

def phasePru (p : PruRec) (f : Phase) (q : Sequence) : PruRec := { p with phase := f, sequence := q, timer := some 0 }

/-- A slot with a policy, in a state, with its outputs. -/
def inState (st : SlotState) (p : PruRec) : SlotRec :=
  { SlotRec.reset with
    policy := some pol
    cs := { SlotRec.reset.cs with state := st }
    ctf := { SlotRec.reset.ctf with cls := st.cls }
    pru := p }

def online : SlotRec := inState .online upPru
def heldSlot : SlotRec := inState .held upPru
def probation : SlotRec := inState .probation upPru
def offSlot : SlotRec := inState .off darkPru
def isolatedSlot : SlotRec := inState .isolated { upPru with isoOpen := true, asserted := true }
def retiredSlot : SlotRec := inState .retired darkPru
def fenced : SlotRec :=
  { inState .fenced upPru with cs := { (inState .fenced upPru).cs with kind := .warm, drain := some 0 } }
def bleeding : SlotRec := inState .bleeding { darkPru with bleed := true, phase := .bleedCheck, sequence := .shutdown }
def training : SlotRec := inState .training (phasePru upPru .training .powerUp)
def restoring : SlotRec := inState .restoring upPru
def ramping (n : Nat) : SlotRec :=
  inState .powering { darkPru with power := true, phase := .ramp, sequence := .powerUp, rail := .unproven, rampCount := n }

def withCs (r : SlotRec) (f : CsRec → CsRec) : SlotRec := { r with cs := f r.cs }
def withHm (r : SlotRec) (n : Nat) : SlotRec := { r with hm := { r.hm with score := n } }
def withEntry (r : SlotRec) (k : Tag) (e : OrtEntry) : SlotRec := { r with tt := r.tt.setEntry k e }
def withPol (r : SlotRec) (f : Policy → Policy) : SlotRec := { r with policy := r.policy.map f }

/-- The slot with an isolation lead of 0, this recovery kind in its record and in its policy, and these attempts used. -/
def noLead (k : RecKind) (n : Nat) (r : SlotRec) : SlotRec :=
  withCs (withPol r fun p => { p with isoLead := 0, autoKind := k }) fun c => { c with kind := k, attempts := n }

def kinds : List RecKind := [.none, .warm, .cold]

def me : Requester := ⟨1, 0, 5⟩
def card : Requester := ⟨16, 0, 9⟩
def read2 : Tracked := ⟨me, .memRead 0x10000 2⟩
def entry2 : OrtFields :=
  { origin := .host me, kind := .memoryRead, dwords := 2, bytes := 8, deadline := 0, parts := 0 }
def engineEntry (k : ReqKind) (n : Nat) : OrtFields :=
  { origin := .engine, kind := k, dwords := 1, bytes := n, deadline := 0, parts := 0 }
def reply (n rem : Nat) : CardCpl := { status := .success, data := List.replicate n 0, remaining := rem }
def failure : CardCpl := { status := .unsupported, data := [], remaining := 0 }

def bench (r : SlotRec) : State := State.reset.setSlot 0 r

def running (s : State) : State :=
  { s with ri := { s.ri with state := .running, initValid := true, cb := some block } }

def working (w : RiWork) (s : State) : State := { running s with ri := { (running s).ri with work := w } }

def act (a : BitVec 16) : ActionArgs := ⟨0, a, 0⟩

/-- Slot 0's record holds this action, taken from entry 0. -/
def busyWith (code : BitVec 8) (r : SlotRec) : State :=
  let s := running (bench { r with ad := { r.ad with occupant := .action, current := some (entryOf (act 0) code) } })
  { s with ri := { s.ri with inFlight := [⟨0, 0⟩] } }

/-- The converter measures slot 0. -/
def measuring (bleed sample : Bool) (s : State) : State :=
  { s with
    rm :=
      { activity := .measuring, inService := some 0, timer := 0, channel := some 0, lastServed := 0
        reqs := s.rm.reqs.set 0 { state := .inService, bleed := bleed, sample := sample } } }

/-- The engine runs an operation of slot 0. -/
def engine (k : OpKind) (step : SeStep) (w : SeWait) (m : List MapEntry) (s : State) : State :=
  { s with
    se := { s.se with
      current := some ⟨k, 0⟩, step := step, waiting := w, map := m, mapAddr := 0x400, areaAddr := 0x800, bus := 16
      staging := [0, 0] } }

def ref0 : ReadRef := ⟨0, 0⟩

/-- What a command leads to. -/
def after (c : Instr) (s : State) : State :=
  match exec c s with
  | .next t => t
  | .fault _ => s
  | .refused _ => s

/-- The bytes of a policy record that keeps R168: bus 16, no window, every duration 1. -/
def polBytes : List Byte :=
  [1, 0, 0, 1, 16, 16, 0, 0] ++ List.replicate 88 0 ++ [1, 1, 0, 0, 1, 0, 2, 0, 1, 0, 1, 0]
    ++ (List.replicate 14 [1, 0]).flatten ++ List.replicate 120 0

/-- The bytes of a valid Control Block: rings of 8 entries at 0x100 and 0x200, the policy table at 0x1000. -/
def blockBytes : List Byte :=
  toLE 8 0x100 ++ [3, 3, 0, 0, 100, 0, 9, 0] ++ toLE 8 0x200 ++ toLE 8 0x1000 ++ toLE 8 0x5000 ++ toLE 4 16 ++ toLE 4 0
    ++ List.replicate 16 0

def mapOf (verify last : Bool) : MapEntry := { index := 4, count := 2, skip := false, last := last, verify := verify }

/-! ## The queue -/

theorem test_step_idles : step State.reset = .next State.reset := rfl

theorem test_step_front :
    step { State.reset with pending := [.start, .stop] } = exec .start { State.reset with pending := [.stop] } := rfl

theorem test_no_word_spells_a_command : decodeTableWord 8 1 = none := by decide

/-! ## One step of every row -/

theorem test_powerOnReset :
    { after .powerOnReset (bench online) with signals := [] } = State.reset
      ∧ (after .powerOnReset (bench online)).signals = [⟨0, .isolation, true⟩, ⟨0, .reset, true⟩, ⟨0, .power, false⟩] := by
  decide

theorem test_hostPortReset : ((after (.hostPortReset allSlots) (bench online)).slot 0).cs.state = .isolated := by
  decide

theorem test_tick : (after (.tick ⟨0, 0, allSlots⟩ []) State.reset).tb.counter = 1 := by decide

theorem test_tick_counts_the_ramp :
    ((after (.tick ⟨0, 0, allSlots⟩ []) (bench (ramping 19))).slot 0).pru.rampDue = true := by decide

/-- An acceptance at the tick whose step reaches the ramp minimum, taken after the step and before it. -/
theorem test_tick_acceptance_and_ramp :
    ∀ b ∈ [false, true],
      ((after (.tick ⟨1, if b then 1 else 0, allSlots⟩ [])
        (bench { ramping 2 with sense := { SlotRec.reset.sense with pgPrev := true } })).slot 0).pru.phase =
          if b then .bleedWait else .settle := by decide

theorem test_hostRequest :
    (after (.hostRequest (.nonPosted read2)) (bench online)).out = [.sendDown 0 0 (.memRead 0x10000 2)] := by
  decide

theorem test_cardCompletion :
    (after (.cardCompletion 0 0 (reply 8 0) false) (bench (withEntry online 0 (.live entry2)))).out =
      [.completion me (reply 8 0)] := by decide

theorem test_deadlineExpiry :
    ((after (.deadlineExpiry 0 0 false) (bench (withEntry online 0 (.live entry2)))).slot 0).tt.entry 0 =
      .stale entry2 := by decide

theorem test_heldRequestExpiry :
    (after (.heldRequestExpiry 0 me) (bench { online with tt := { online.tt with hold := [⟨read2, 0⟩] } })).out =
      [.completion me { status := .aborted, data := [], remaining := 0 }] := by decide

theorem test_drainTimerExpiry :
    ((after (.drainTimerExpiry 0) (bench fenced)).slot 0).cs =
      { fenced.cs with state := .resetting, attempts := 1, restoreWanted := true, drain := none } := by decide

theorem test_probationQuietExpiry :
    ((after (.probationQuietExpiry 0) (bench probation)).slot 0).cs.state = .online := by decide

theorem test_isolateEnd :
    ((after (.isolateEnd 0) (bench (inState .resetting (phasePru { upPru with isoOpen := true } .isolate .warm)))).slot
      0).pru.phase = .assert := by decide

theorem test_assertEnd :
    ((after (.assertEnd 0)
      (bench (inState .resetting (phasePru { upPru with isoOpen := true, asserted := true } .assert .warm)))).slot
      0).pru.phase = .reconnect := by decide

theorem test_rampSlow :
    (after (.rampSlow 0) (bench { ramping 20 with pru := { (ramping 20).pru with rampDue := true } })).iq.map
      (fun x => x.kind) = [.railFault, .recoveryFailed] := by decide

theorem test_settleEnd :
    ((after (.settleEnd 0) (bench (inState .powering (phasePru { upPru with isoOpen := true, asserted := true } .settle
      .powerUp)))).slot 0).pru.isoOpen = false := by decide

theorem test_reconnectEnd :
    ((after (.reconnectEnd 0) (bench (inState .powering (phasePru { upPru with asserted := true } .reconnect
      .powerUp)))).slot 0).cs.state = .training := by decide

theorem test_trainingTimeout :
    ((after (.trainingTimeout 0) (bench training)).slot 0).cs.state = .bleeding := by decide

theorem test_bleedWaitEnd :
    (after (.bleedWaitEnd 0) (bench { bleeding with pru := phasePru bleeding.pru .bleedWait .shutdown })).rm.activity =
      .settling := by decide

theorem test_settlingConversionEnd :
    (after .settlingConversionEnd
      { measuring true false (bench bleeding) with
        rm := { (measuring true false (bench bleeding)).rm with activity := .settling } }).rm.activity = .measuring := by
  decide

theorem test_measuringConversionEnd :
    ((after (.measuringConversionEnd 499) (measuring true false (bench (withCs bleeding fun c => { c with target := .off })))).slot
      0).cs.state = .off := by decide

theorem test_measuringConversionEnd_at_the_threshold :
    ((after (.measuringConversionEnd 500) (measuring true false (bench bleeding))).slot 0).pru.phase = .bleedWait := by
  decide

theorem test_senseSample :
    ((after (.senseSample ⟨1, 0, 0, allSlots⟩)
      { bench { inState .empty darkPru with sense := { SlotRec.reset.sense with presPrev := true } } with
        sampleTimer := 0 }).slot 0).cs.state = .off := by decide +kernel

/-- A press and the loss of the card in one sample: the press ends the FENCE of a plan, whose next entry starts, and is
returned DONE with the state ISOLATED, before the loss. -/
theorem test_senseSample_press_before_loss :
    let r := withPol probation fun p => { p with autoKind := .none, drain := 0, isoLead := 0 }
    let s := running (bench { r with
      sense := { r.sense with presAcc := true, attnAcc := true }
      ad := { r.ad with
        occupant := .plan, current := some { entryOf (act 0) 1 with chain := .first }
        remaining := [{ entryOf ⟨1, 0, 0⟩ 10 with chain := .last }] } })
    let t := after (.senseSample ⟨0, 0, 1, allSlots⟩)
      { s with sampleTimer := 0, ri := { s.ri with inFlight := [⟨0, 0⟩, ⟨1, 0⟩] } }
    (t.slot 0).cs.state = .empty ∧ t.out.contains (.hostWrite 0x1030 (returnBody .done .isolated 0 0 0)) = true := by
  decide +kernel

theorem test_linkUp : ((after (.linkUp 0) (bench training)).slot 0).cs.state = .held := by decide

theorem test_linkDown : ((after (.linkDown 0) (bench (withEntry online 0 (.live entry2)))).slot 0).cs.state = .fenced := by
  decide

theorem test_cardRequest :
    ((after (.cardRequest 0 (.error .nonfatal)) (bench online)).slot 0).hm.score = 8 := by decide

theorem test_hostCompletion :
    (after (.hostCompletion ⟨card, .success, [], 0⟩) (bench online)).out =
      [.completionDown 0 ⟨card, .success, [], 0⟩] := by decide

theorem test_shadowReadDone :
    (after (.shadowReadDone 0 (.data (List.replicate 16 0)))
      (engine .snapshot .readHeader (.read ref0 .header) [] (bench online))).out =
        [.hostRead .shadowEngine 0 0x400 4] := by decide

theorem test_shadowReadDeadline :
    ((after .shadowReadDeadline (engine .restore .readHeader (.read ref0 .header) [] (bench restoring))).slot
      0).cs.state = .held := by decide

theorem test_fence :
    ((after (.fence 0 (act 1)) (running (bench (withEntry online 0 (.live entry2))))).slot 0).cs.trigger = .action := by
  decide

theorem test_recover : ((after (.recover 0 (act 1)) (running (bench isolatedSlot))).slot 0).cs.attempts = 1 := by
  decide

theorem test_powerOn : ((after (.powerOn 0 (act 0)) (running (bench offSlot))).slot 0).cs.state = .powering := by
  decide

theorem test_powerOff : ((after (.powerOff 0 (act 0)) (running (bench online))).slot 0).cs.state = .bleeding := by
  decide

theorem test_powerOff_signals : (after (.powerOff 0 (act 0)) (running (bench online))).signals = powerOffSignals 0 := by
  decide

theorem test_retire : ((after (.retire 0 (act 0)) (running (bench offSlot))).slot 0).cs.state = .retired := by
  decide

theorem test_admitSlot : ((after (.admitSlot 0 (act 0)) (running (bench heldSlot))).slot 0).cs.state = .probation := by
  decide

theorem test_release : ((after (.release 0 (act 0)) (running (bench probation))).slot 0).cs.state = .online := by
  decide

theorem test_snapshot :
    (after (.snapshot 0 (act 0)) (running (bench online))).out = [.hostRead .shadowEngine 0 0x800 16] := by decide

theorem test_loadPolicy :
    (after (.loadPolicy 0 (act 0)) (running (bench online))).out = [.hostRead (.dispatcher 0) 0 0x3000 256] := by
  decide

def loading : State :=
  let r := heldSlot
  running (bench { r with ad := { r.ad with
    occupant := .action, current := some (entryOf (act 0) 9), policyRead := some ref0 } })

theorem test_loadPolicyReadDone :
    (((after (.loadPolicyReadDone 0 0 (.data polBytes)) loading).slot 0).policy.map fun p => p.busFirst) = some 16 := by
  decide +kernel

theorem test_loadPolicyReadDeadline : ((after (.loadPolicyReadDeadline 0) loading).slot 0).ad.occupant = .none := by
  decide

theorem test_readSlot :
    (after (.readSlot 0 (act 0)) (running (bench (withHm online 3)))).out =
      [.hostWrite 0x1010 [0, 0, 7, 0, 3, 0, 0, 0, 0, 0, 0, 0, 0, 0, 0, 0], .hostWrite 0x1000 [10, 0]] := by decide

theorem test_railSample : ((after (.railSample 0 (act 0)) (running (bench online))).rm.req 0).sample = true := by
  decide

theorem test_unknownActionCode :
    (after (.unknownActionCode 0 12 (act 0)) (running (bench online))).ri.causes.actionDone = true := by decide

theorem test_init : (after .init State.reset).ri.state = .initializing := by decide

theorem test_start :
    (after .start { running State.reset with ri := { (running State.reset).ri with state := .stopped } }).ri.state =
      .running := by decide

theorem test_stop : (after .stop (running State.reset)).ri.state = .stopped := by decide

theorem test_prompt : (after .prompt (running State.reset)).out = [.hostRead .ringInterface 0 0x1000 32] := by
  decide

theorem test_unknownCommand : (after (.unknownCommand 5) State.reset).ri.causes.badCommand = true := by decide

theorem test_unknownCommand_of_low_byte_1 : (after (.unknownCommand 0x101) State.reset).ri.state = .initializing := by
  decide

theorem test_kstatWrite :
    (after (.kstatWrite 0x2000) (after (.unknownCommand 5) State.reset)).ri.causes.badCommand = false := by decide

theorem test_registerWrite : (after (.registerWrite .kcbl 0x7F) State.reset).ri.kcbl = 0x40 := by decide

theorem test_controlBlockReadDone :
    (after (.controlBlockReadDone 0 (.data blockBytes)) (after .init State.reset)).out.getLast? =
      some (.hostRead .ringInterface 1 0x1000 256) := by decide

theorem test_policyRecordReadDone :
    (((after (.policyRecordReadDone 0 (.data polBytes)) (working (.policy ref0 3 0) State.reset)).slot 3).policy.map
      fun p => p.maxAttempts) = some 1 := by decide +kernel

theorem test_riReadDeadline : (after .riReadDeadline (working (.action ref0) State.reset)).ri.state = .halted := by
  decide

theorem test_scanTimerExpiry :
    (after .scanTimerExpiry
      { running State.reset with ri := { (running State.reset).ri with scanTimer := some 0 } }).ri.scanTimer =
        some 100 := by decide

theorem test_actionEntryReadDone :
    (after (.actionEntryReadDone 0 (.data ([3, 0x80] ++ List.replicate 30 0)))
      (working (.action ref0) (bench offSlot))).ri.actionPtr = 1 := by decide

theorem test_incidentEntryReadDone :
    (after (.incidentEntryReadDone 0 (.data (List.replicate 32 0xFF)))
      (working (.incident ref0) (State.reset.raise 0 .linkDown))).iq = [] := by decide

/-! ## States that meet the hypotheses of the obligations -/

theorem calm_of {r : SlotRec} {n : Nat} (p : Policy) (h : r.policy = some p)
    (k : r.hm.score + n < p.watchT ∧ r.hm.score + n < p.fenceT ∧ r.hm.score + n < p.probT ∧ r.hm.score + n ≤ 1023
      ∧ r.hm.watched = false) : r.calm n := ⟨p, h, k⟩

theorem sound_of {s : State} (h : ∀ i, (s.slot i).policy.all Policy.valid = true)
    (k : ∀ i j, i ≠ j → ((s.slot i).policy.all fun p => (s.slot j).policy.all p.apart) = true) : s.policiesSound := by
  refine ⟨fun i p hp => ?_, fun i j p q hij hp hq => ?_⟩
  · have := h i
    rw [hp] at this
    exact p.valid_iff.1 this
  · have := k i j hij
    rw [hp] at this
    simp only [Option.all_some, hq] at this
    exact (p.apart_iff q).1 this

theorem test_met_StepRunsTheFrontCommand : State.reset.pending = [] := rfl

theorem test_met_SlotCommandsActOnTheirSlotAlone :
    slotOf (.linkDown 0) = some 0 ∧ ∃ t, exec (.linkDown 0) (bench heldSlot) = .next t := ⟨rfl, _, rfl⟩

/-- A slot that a host-port reset moves with its outputs up, one that it does not, one in BLEEDING, and an Incident Queue
with room. -/
theorem test_met_HostPortResetBySlotState :
    (online.cs.state.movedByReset = true ∧ offSlot.cs.state.movedByReset = false ∧ bleeding.cs.state = .bleeding)
      ∧ online.pru.up ∧ ∀ i, queuedFor i (bench online).iq < 4 := by
  unfold PruRec.up
  decide

/-- No level is accepted, and none is new; ramps below their maximum and at it. -/
theorem test_met_TickStepsTheCounters :
    State.reset.summaryInLine
      ∧ (∀ i : Slot, (0 : BitVec 8).getLsbD i.val = (State.reset.slot i).sense.pgPrev
        ∧ accepts ((0 : BitVec 8).getLsbD i.val) (State.reset.slot i).sense.pgPrev (State.reset.slot i).sense.pgAcc = false)
      ∧ ∀ n ∈ [18, 19], (ramping n).pru.phase = .ramp ∧ (ramping n).pru.rampDue = false
        ∧ ((ramping n).pol.rampMax ≤ n + 1 ↔ n = 19) := ⟨rfl, by decide, by decide⟩

/-- A ramp whose power-good was PRESENT at the tick before. -/
def rampingGood (n : Nat) : SlotRec := { ramping n with sense := { SlotRec.reset.sense with pgPrev := true } }

/-- An acceptance at or above the ramp minimum: the count taken first, last, and last at the ramp maximum. -/
theorem test_met_AcceptedPowerGoodEndsTheRamp :
    ∀ p ∈ [(2, false), (3, true), (19, true)], let r := (bench (rampingGood p.1)).slot 0
      r.pru.phase = .ramp ∧ r.pru.rail = .unproven ∧ r.pru.rampDue = false ∧ r.pru.rampCount + 1 ≤ 65535
        ∧ (1 : BitVec 8).getLsbD 0 = true ∧ r.sense.pgPrev = true ∧ r.sense.pgAcc = false
        ∧ (p.2 = true ∨ r.pru.rampCount + 1 < r.pol.rampMax)
        ∧ r.pol.rampMin ≤ if p.2 then r.pru.rampCount else r.pru.rampCount + 1 := by decide

/-- One count below the ramp minimum, the count taken first and last, and the ramp maximum reached by the step taken first,
with and without attempts left. -/
theorem test_met_AcceptedPowerGoodEndsTheRamp_fault :
    ∀ a ∈ [2, 3], ∀ p ∈ [(1, false), (2, true), (19, false)],
      let r := (bench (withCs (rampingGood p.1) fun c => { c with attempts := a })).slot 0
      r.pru.phase = .ramp ∧ r.pru.rail = .unproven ∧ r.pru.rampDue = false ∧ r.pru.rampCount + 1 ≤ 65535
        ∧ (1 : BitVec 8).getLsbD 0 = true ∧ r.sense.pgPrev = true ∧ r.sense.pgAcc = false
        ∧ (p.1 ≠ 19 → (p.2 = true ∨ r.pru.rampCount + 1 < r.pol.rampMax)
          ∧ (if p.2 then r.pru.rampCount else r.pru.rampCount + 1) < r.pol.rampMin)
        ∧ (p.1 = 19 → p.2 = false ∧ r.pol.rampMax ≤ r.pru.rampCount + 1)
        ∧ (r.pol.maxAttempts ≤ r.cs.attempts ↔ a = 3) := by decide

def goodRail (r : SlotRec) : SlotRec :=
  { r with pru := { r.pru with rail := .good }, sense := { r.sense with pgAcc := true } }

/-- A GOOD rail that is lost, in a state of each clause. -/
theorem test_met_PowerGoodLostByState :
    ∀ r ∈ [online, heldSlot, isolatedSlot, training, probation, bleeding, offSlot], let q := (bench (goodRail r)).slot 0
      q.pru.rail = .good ∧ q.pru.phase ≠ .ramp ∧ (0 : BitVec 8).getLsbD 0 = false ∧ q.sense.pgPrev = false
        ∧ q.sense.pgAcc = true ∧ q.cs.state = r.cs.state := by decide

def routed : HostRequest := .nonPosted read2

theorem test_met_RequestBelongsToAtMostOneSlot :
    (bench online).policiesSound ∧ routed.wf = true ∧ (bench online).route routed = some 0 :=
  ⟨sound_of (by decide) (by decide), by decide, by decide⟩

/-- One LIVE entry below the limit, tag 1 the lowest FREE one. -/
theorem test_met_TrackedRequestTakesATagOrWaits_tag :
    let s := bench (withEntry online 0 (.live entry2)); let r := s.slot 0
    s.route routed = some 0 ∧ r.cs.state = .online ∧ r.tt.hold = [] ∧ r.tt.liveHost < r.pol.outLimit
      ∧ r.hm.watched = false ∧ (1 : Tag) ≠ engineTag ∧ r.tt.entry 1 = .free ∧ ∀ l : Tag, l < 1 → r.tt.entry l ≠ .free := by
  decide

def full (n : Nat) : SlotRec :=
  { withEntry probation 0 (.live entry2) with
    tt := { (withEntry probation 0 (.live entry2)).tt with hold := List.replicate n ⟨read2, 0⟩ } }

/-- The limit of PROBATION is reached, with 0, 7 and 8 requests held. -/
theorem test_met_TrackedRequestTakesATagOrWaits_wait :
    ∀ n ∈ [0, 7, 8], let s := bench (full n); let r := s.slot 0
      s.route routed = some 0 ∧ r.cs.state = .probation ∧ r.pol.probLimit ≤ r.tt.liveHost ∧ r.tt.hold.length = n := by
  decide

/-- FENCED; a state that tracks nothing; a memory read in HELD; posted writes in ONLINE and elsewhere; no slot. -/
theorem test_met_RequestsAnsweredByState :
    ((bench fenced).route routed = some 0 ∧ ((bench fenced).slot 0).cs.state = .fenced)
      ∧ ((bench offSlot).route routed = some 0 ∧ ((bench offSlot).slot 0).cs.state.tracks = false)
      ∧ ((bench heldSlot).route routed = some 0 ∧ read2.op.kind = .memoryRead)
      ∧ ((bench online).route (.posted (.memWrite 0x10FFC [0])) = some 0)
      ∧ ((bench heldSlot).route (.posted (.message 16 [])) = some 0)
      ∧ (bench online).route (.nonPosted ⟨me, .cfgRead 15 0⟩) = none
      ∧ (bench online).route (.posted (.memWrite 0x10FFC [0, 0])) = none := by decide

/-- A part of 4 of 8 bytes, the last part a request of 2 dwords may have in one entry. -/
theorem test_met_CompletionsOfALiveRequestGoUp_part :
    let s := bench (withEntry online 0 (.live { entry2 with parts := 1 })); let r := s.slot 0
    s.summaryInLine ∧ r.planSettled ∧ r.tt.entry 0 = .live { entry2 with parts := 1 } ∧ (reply 8 4).status = .success
      ∧ (reply 8 4).remaining ≠ 0 ∧ (reply 8 4).data.length ≤ entry2.bytes ∧ 1 < entry2.dwords :=
  ⟨rfl, fun _ => rfl, by decide⟩

/-- PROBATION in TRAFFIC mode, with this many Successes counted. -/
def traffic (n : Nat) : SlotRec := withCs probation fun c => { c with probMode := .traffic, probCount := n }

/-- A final completion with all the bytes, and one that fails: in ONLINE, and in PROBATION in QUIET mode and in TRAFFIC
mode, the last Success but one and the last. -/
theorem test_met_CompletionsOfALiveRequestGoUp_final :
    ∀ q ∈ [online, probation, traffic 0, traffic 1], let s := bench (withEntry q 0 (.live entry2)); let r := s.slot 0
      s.summaryInLine ∧ s.watchFollows ∧ r.planSettled ∧ r.planDone ∧ r.tt.hold = [] ∧ r.policy = some pol
        ∧ r.tt.entry 0 = .live entry2 ∧ (reply 8 0).data.length ≤ entry2.bytes ∧ (reply 8 0).remaining = 0
        ∧ (q.cs.state = .online ∨ q.cs.state = .probation ∧ (q.cs.probMode = .quiet ∨ q.cs.probMode = .traffic
          ∧ (min 65535 (q.cs.probCount + 1) < pol.probTraffic ↔ q.cs.probCount = 0)))
        ∧ failure.status ≠ .success ∧ r.calm 1 := by
  simp only [List.forall_mem_cons]
  refine ⟨?_, ?_, ?_, ?_, by simp⟩ <;>
    (refine ⟨rfl, fun i => ?_, fun _ => rfl, rfl, rfl, rfl, by decide, by decide, rfl, by decide, by decide,
      calm_of pol rfl (by decide)⟩
     fin_cases i <;> rfl)

/-- One byte too many; a part more than the request has dwords; in ONLINE and in PROBATION. -/
theorem test_met_MalformedLateAndUnexpectedCompletionsAreDiscarded_malformed :
    ∀ q ∈ [online, probation], let s := bench (withEntry q 0 (.live { entry2 with parts := 2 })); let r := s.slot 0
      s.summaryInLine ∧ r.planSettled ∧ r.tt.hold = [] ∧ r.calm 8 ∧ r.tt.entry 0 = .live { entry2 with parts := 2 }
        ∧ entry2.origin = .host me ∧ entry2.bytes < (reply 9 0).data.length ∧ entry2.kind = .memoryRead
        ∧ (reply 4 4).status = .success ∧ (reply 4 4).remaining ≠ 0 ∧ entry2.dwords ≤ 2 := by
  simp only [List.forall_mem_cons]
  exact ⟨⟨rfl, fun _ => rfl, rfl, calm_of pol rfl (by decide), by decide⟩,
    ⟨rfl, fun _ => rfl, rfl, calm_of pol rfl (by decide), by decide⟩, by simp⟩

/-- A STALE entry in ONLINE, two of them and one in FENCED, a FREE tag and the tag 32. -/
theorem test_met_MalformedLateAndUnexpectedCompletionsAreDiscarded_late :
    (let r := (bench (withEntry online 31 (.stale entry2))).slot 0;
      (bench (withEntry online 31 (.stale entry2))).summaryInLine ∧ r.planSettled ∧ r.tt.hold = []
        ∧ r.calm 1 ∧ r.tt.entry 31 = .stale entry2 ∧ r.cs.state ≠ .fenced ∧ r.tt.entry 30 = .free ∧ 32 ≤ 32)
      ∧ (let q := (bench (withEntry (withEntry fenced 0 (.stale entry2)) 31 (.stale entry2))).slot 0;
        q.planSettled ∧ q.tt.hold = [] ∧ q.calm 1 ∧ q.tt.entry 0 = .stale entry2 ∧ q.tt.entry 31 = .stale entry2
          ∧ q.cs.state = .fenced)
      ∧ let q := (bench (withEntry fenced 31 (.stale entry2))).slot 0
        q.planSettled ∧ q.tt.hold = [] ∧ q.calm 1 ∧ q.tt.entry 31 = .stale entry2
          ∧ (∀ l, l ≠ 31 → (q.tt.entry l).isStale = false) ∧ q.cs.state = .fenced ∧ q.pol.isoLead ≠ 0 :=
  ⟨⟨rfl, fun _ => rfl, rfl, calm_of pol rfl (by decide), by decide, by decide, by decide, by decide⟩,
    ⟨fun _ => rfl, rfl, calm_of pol rfl (by decide), by decide, by decide, by decide⟩,
    fun _ => rfl, rfl, calm_of pol rfl (by decide), by decide⟩

/-- The last STALE entry of a FENCED slot whose isolation lead is 0: each kind, with attempts left and used up. -/
theorem test_met_MalformedLateAndUnexpectedCompletionsAreDiscarded_lead :
    ∀ k ∈ kinds, ∀ n ∈ [0, 3], let q := noLead k n (withEntry fenced 31 (.stale entry2))
      q.ad.remaining = [] ∧ q.tt.hold = [] ∧ q.calm 1 ∧ q.tt.entry 31 = .stale entry2
        ∧ (∀ l, l ≠ 31 → (q.tt.entry l).isStale = false) ∧ q.cs.state = .fenced ∧ q.pol.isoLead = 0 := by
  intro k hk n hn
  exact ⟨rfl, rfl, calm_of { pol with isoLead := 0, autoKind := k } rfl (by decide +revert), by decide +revert⟩

/-- A deadline reached at this tick, and one reached 2^31 − 1 ticks ago, in ONLINE and in PROBATION. -/
theorem test_met_DeadlineExpiryMakesTheTagStale :
    ∀ q ∈ [online, probation], let s := bench (withEntry q 0 (.live entry2)); let r := s.slot 0
      s.summaryInLine ∧ r.planSettled ∧ r.tt.hold = [] ∧ r.calm 8 ∧ r.tt.entry 0 = .live entry2
        ∧ (s.tb.counter - entry2.deadline).toNat < 2 ^ 31 ∧ (0x7FFFFFFF - entry2.deadline).toNat < 2 ^ 31 := by
  simp only [List.forall_mem_cons]
  exact ⟨⟨rfl, fun _ => rfl, rfl, calm_of pol rfl (by decide), by decide, by decide, by decide⟩,
    ⟨rfl, fun _ => rfl, rfl, calm_of pol rfl (by decide), by decide, by decide, by decide⟩, by simp⟩

theorem test_met_HeldRequestExpiryAnswersAborted :
    let s := bench (full 1); let r := s.slot 0
    r.tt.hold = [] ++ (⟨read2, 0⟩ : Held) :: [] ∧ (∀ g ∈ ([] : List Held), g.request.req ≠ read2.req)
      ∧ (s.tb.counter - 0).toNat < 2 ^ 31 := ⟨rfl, by decide, by decide⟩

/-- CUT; a class other than CUT; a fatal error with FATAL_FENCE in TRAINING and in the states that it fences. -/
theorem test_met_CardErrorsAreScoredBySeverity :
    ((bench offSlot).summaryInLine ∧ ((bench offSlot).slot 0).ctf.cls = .cut)
      ∧ (let r := (bench probation).slot 0;
        (bench probation).summaryInLine ∧ r.planSettled ∧ r.tt.hold = [] ∧ r.ctf.cls ≠ .cut
          ∧ r.calm 1 ∧ r.calm 8 ∧ r.pol.fatalFence = false)
      ∧ ∀ q ∈ [training, online, heldSlot, probation],
        let r := (bench (withEntry (withPol q fun p => { p with fatalFence := true }) 0 (.live entry2))).slot 0
        r.planSettled ∧ r.tt.hold = [] ∧ r.ctf.cls ≠ .cut ∧ r.pol.fatalFence = true ∧ r.cs.state = q.cs.state
          ∧ r.pol.drain ≠ 0 ∧ r.tt.entry 0 ≠ .free := by
  refine ⟨⟨rfl, rfl⟩, ⟨rfl, fun _ => rfl, rfl, by decide, calm_of pol rfl (by decide), calm_of pol rfl (by decide), rfl⟩, ?_⟩
  unfold SlotRec.planSettled
  decide

/-- A fatal error whose fence finds no STALE tag, with an isolation lead and with none. -/
theorem test_met_CardErrorsAreScoredBySeverity_drained :
    ∀ q ∈ [online, heldSlot, probation], ∀ k ∈ kinds, ∀ n ∈ [0, 5],
      let r := withPol (noLead k 0 q) fun p => { p with fatalFence := true, isoLead := n }
      r.ad.remaining = [] ∧ r.tt.hold = [] ∧ r.ctf.cls ≠ .cut ∧ r.pol.fatalFence = true ∧ r.pol.isoLead = n
        ∧ r.cs.state = q.cs.state ∧ ∀ l, r.tt.entry l = .free := by decide

/-- A score 8 below the fence threshold and 1 below it, with AUTO_CONTAIN set and clear. -/
theorem test_met_ThresholdCrossedByState_fence :
    ∀ n ∈ [72, 79], ∀ b ∈ [true, false],
      let r := (bench (withHm (withEntry (withPol online fun p => { p with autoContain := b }) 0 (.live entry2)) n)).slot 0
      ∃ p, (State.reset.summaryInLine ∧ r.planSettled ∧ r.policy = some p ∧ r.cs.state = .online ∧ r.ctf.cls ≠ .cut)
        ∧ r.hm.score < p.fenceT ∧ p.fenceT ≤ r.hm.score + 8 ∧ r.hm.score + 8 ≤ 1023 ∧ p.autoContain = b ∧ p.drain ≠ 0
        ∧ r.tt.entry 0 ≠ .free ∧ r.hm.alert = false ∧ queuedFor 0 State.reset.iq ≤ 2 := by
  intro n hn b hb
  exact ⟨{ pol with autoContain := b }, ⟨rfl, fun _ => rfl, rfl, rfl, by decide +revert⟩, by decide +revert⟩

/-- A score 8 below the probation threshold and 1 below it. -/
theorem test_met_ThresholdCrossedByState_probation :
    ∀ n ∈ [12, 19], let r := (bench (withHm (withEntry probation 0 (.live entry2)) n)).slot 0
      State.reset.summaryInLine ∧ r.planSettled ∧ r.policy = some pol ∧ r.cs.state = .probation ∧ r.ctf.cls ≠ .cut
        ∧ r.hm.score < pol.probT ∧ pol.probT ≤ r.hm.score + 8 ∧ r.hm.score + 8 ≤ 1023 ∧ pol.drain ≠ 0
        ∧ r.tt.entry 0 ≠ .free := by
  intro n hn
  exact ⟨rfl, fun _ => rfl, rfl, rfl, by decide +revert⟩

/-- A slot of which no tag is STALE after the fence, whose WATCHED follows its score, in ONLINE and in PROBATION. -/
theorem test_met_ThresholdCrossedByState_drained :
    (let s := bench { withHm online 72 with hm := { (withHm online 72).hm with watched := true } }; let r := s.slot 0
      s.watchFollows ∧ r.hm.score < pol.fenceT ∧ pol.fenceT ≤ r.hm.score + 8 ∧ pol.autoContain = true ∧ pol.isoLead ≠ 0
        ∧ ∀ k, r.tt.entry k = .free)
      ∧ let s := bench (withHm probation 12); let r := s.slot 0
        s.watchFollows ∧ r.hm.score < pol.probT ∧ pol.probT ≤ r.hm.score + 8 ∧ ∀ k, r.tt.entry k = .free := by
  refine ⟨⟨fun i => ?_, by decide⟩, ⟨fun i => ?_, by decide⟩⟩ <;> fin_cases i <;> rfl

/-- The same with an isolation lead of 0 and a drain of 0, in ONLINE with each kind, and in PROBATION. -/
theorem test_met_ThresholdCrossedByState_lead :
    (∀ k ∈ kinds, let r := withPol (noLead k 0 (withEntry (withHm online 72) 0 (.live entry2))) fun p => { p with drain := 0 }
      r.ad.remaining = [] ∧ r.hm.score < r.pol.fenceT ∧ r.pol.fenceT ≤ r.hm.score + 8 ∧ r.pol.autoContain = true
        ∧ r.pol.drain = 0 ∧ r.pol.isoLead = 0 ∧ r.pol.autoKind = k)
      ∧ let r := withPol (noLead .none 0 (withHm probation 12)) fun p => { p with drain := 0 }
        r.hm.score < r.pol.probT ∧ r.pol.probT ≤ r.hm.score + 8 ∧ r.pol.drain = 0 ∧ r.pol.isoLead = 0 := by decide

/-- A score 8 below the watch threshold and 1 below it, under the other thresholds, in every state in which the card is
heard; and scores that cross it together with the fence threshold, and with the probation threshold. -/
theorem test_met_ThresholdCrossedByState_watch :
    (∀ q ∈ [online, heldSlot, probation, training, restoring], ∀ n ∈ [32, 39],
      let r := withHm (withPol q fun p => { p with probT := 60 }) n
      r.ad.remaining = [] ∧ (∃ p, r.policy = some p ∧ r.hm.score < p.watchT ∧ p.watchT ≤ r.hm.score + 8
          ∧ r.hm.score + 8 < p.fenceT ∧ r.hm.score + 8 < p.probT) ∧ r.ctf.cls ≠ .cut ∧ r.tt.hold = []
        ∧ r.hm.watched = false ∧ r.hm.score + 8 ≤ 1023)
      ∧ (let r := withHm (withPol online fun p => { p with watchT := 79 }) 72
        r.hm.watched = false ∧ r.pol.watchT ≤ r.hm.score + 8 ∧ r.pol.fenceT ≤ r.hm.score + 8 ∧ r.hm.score < r.pol.watchT)
      ∧ let r := withHm (withPol probation fun p => { p with watchT := 20 }) 12
        r.hm.watched = false ∧ r.pol.watchT ≤ r.hm.score + 8 ∧ r.pol.probT ≤ r.hm.score + 8 := by
  refine ⟨?_, by decide⟩
  intro q hq n hn
  refine ⟨?_, ⟨{ pol with probT := 60 }, ?_⟩, ?_⟩ <;> decide +revert

def message : CardWrite := ⟨0x500C, [1]⟩
def dma : CardWrite := ⟨0x20FFC, [1]⟩
def stray : CardWrite := ⟨0x20FFC, [1, 2]⟩

/-- The last dword of the interrupt window and of a permit window, and a write one dword longer, in each class. -/
theorem test_met_CardWritesByClass :
    (online.ctf.cls = .opened ∧ probation.ctf.cls = .permit ∧ heldSlot.ctf.cls = .hold ∧ offSlot.ctf.cls = .cut)
      ∧ (block.intBase.toNat ≤ message.addr.toNat ∧ message.addr.toNat < block.intBase.toNat + block.intSize)
      ∧ (∃ v ∈ pol.permitWindows, v.base.toNat ≤ dma.addr.toNat
        ∧ dma.addr.toNat + 4 * dma.data.length ≤ v.base.toNat + v.size)
      ∧ (¬ ∃ v ∈ pol.permitWindows, v.base.toNat ≤ stray.addr.toNat
        ∧ stray.addr.toNat + 4 * stray.data.length ≤ v.base.toNat + v.size)
      ∧ ¬ stray.addr.toNat < block.intBase.toNat + block.intSize := by decide

theorem test_met_CardWritesByClass_stray :
    let s := running (bench probation); let r := s.slot 0
    s.summaryInLine ∧ r.planSettled ∧ r.ctf.cls = .permit ∧ r.cs.state = .probation ∧ r.tt.hold = [] ∧ r.calm 8 :=
  ⟨rfl, fun _ => rfl, rfl, rfl, rfl, calm_of pol rfl (by decide)⟩

/-- The first and last bus number of the slot and the ones beside them; a read to the end of a permit window and past it. -/
theorem test_met_CardReadsByClass :
    (∀ n ∈ [16, 31], pol.busFirst.toNat ≤ n ∧ n ≤ pol.busLast.toNat)
      ∧ (∀ n ∈ [15, 32], ¬ (pol.busFirst.toNat ≤ n ∧ n ≤ pol.busLast.toNat))
      ∧ (∃ v ∈ pol.permitWindows, v.base.toNat ≤ 0x20FFC ∧ 0x20FFC + 4 * 1 ≤ v.base.toNat + v.size)
      ∧ (¬ ∃ v ∈ pol.permitWindows, v.base.toNat ≤ 0x20FFC ∧ 0x20FFC + 4 * 2 ≤ v.base.toNat + v.size)
      ∧ online.policy = some pol := by decide

theorem test_met_HostCompletionsByClass :
    (∀ r ∈ [online, probation, heldSlot, offSlot], r.policy = some pol) ∧ (bench online).policiesSound
      ∧ pol.busFirst.toNat ≤ card.bus.toNat ∧ card.bus.toNat ≤ pol.busLast.toNat
      ∧ ∀ i p, (State.reset.slot i).policy = some p →
        ¬ (p.busFirst.toNat ≤ card.bus.toNat ∧ card.bus.toNat ≤ p.busLast.toNat) := by
  refine ⟨by decide, sound_of (by decide) (by decide), by decide, by decide, fun i p h => ?_⟩
  have : ∀ i, (State.reset.slot i).policy = none := by decide
  rw [this] at h
  cases h

/-- A state the link-down leaves alone, and the four that it fences, with an entry to drain and with none. -/
theorem test_met_LinkDownFencesByState :
    (∀ r ∈ [online, heldSlot, probation, restoring], let q := withEntry r 0 (.stale entry2)
      (q.cs.state = .online ∨ q.cs.state = .held ∨ q.cs.state = .probation ∨ q.cs.state = .restoring)
        ∧ q.ad.remaining = [] ∧ q.pol.drain ≠ 0 ∧ q.tt.entry 0 ≠ .free ∧ (∀ k, r.tt.entry k = .free)
        ∧ q.pol.isoLead ≠ 0)
      ∧ (fenced.cs.state ≠ .online ∧ fenced.cs.state ≠ .held ∧ fenced.cs.state ≠ .probation
        ∧ fenced.cs.state ≠ .restoring)
      ∧ (busyWith 8 online).holdsEntry 0 (entryOf (act 0) 8) ⟨0, 0⟩ block ∧ (entryOf (act 0) 8).act = some .snapshot
      ∧ State.reset.summaryInLine := by
  refine ⟨by decide, by decide, ?_, by decide, rfl⟩
  unfold State.holdsEntry
  decide

/-- A slot with an isolation lead of 0, whose fence ends its drain: no STALE tag, and a drain of 0 with one. -/
theorem test_met_LinkDownFencesByState_lead :
    ∀ r ∈ [online, heldSlot, probation, restoring], ∀ k ∈ kinds, let q := noLead k 3 r
      let u := withEntry (withPol q fun p => { p with drain := 0 }) 0 (.stale entry2)
      (q.cs.state = .online ∨ q.cs.state = .held ∨ q.cs.state = .probation ∨ q.cs.state = .restoring)
        ∧ q.ad.remaining = [] ∧ q.pol.isoLead = 0 ∧ (∀ k, q.tt.entry k = .free) ∧ u.pol.isoLead = 0 ∧ u.pol.drain = 0
        ∧ u.cs.state = q.cs.state := by decide

/-- The kind NONE, WARM with an attempt left and with none, and WARM made COLD by escalation. -/
theorem test_met_DrainEndChoosesThePath :
    (∀ n ∈ [2, 3], let r := withCs fenced fun c => { c with attempts := n }
      r.ad.remaining = [] ∧ r.cs.state = .fenced ∧ r.cs.drain = some 0 ∧ r.pol.isoLead ≠ 0 ∧ r.cs.kind ≠ .none
        ∧ (r.cs.attempts < r.pol.maxAttempts ↔ n = 2))
      ∧ (withCs fenced fun c => { c with kind := .none }).cs.kind = .none
      ∧ (let r := withPol (withCs fenced fun c => { c with attempts := 1 }) fun p => { p with escalate := true };
        r.pol.escalate = true ∧ 1 < r.cs.attempts + 1) ∧ State.reset.summaryInLine :=
  ⟨by decide, by decide, by decide, rfl⟩

/-- An isolation lead of 0: each kind, with attempts left and used up, a FENCE in the record, a card in ASSERT held for 6. -/
theorem test_met_DrainEndChoosesThePath_lead :
    (∀ k ∈ kinds, ∀ n ∈ [2, 3], let r := noLead k n fenced
      r.ad.remaining = [] ∧ r.cs.state = .fenced ∧ r.cs.drain = some 0 ∧ r.pol.isoLead = 0 ∧ r.cs.kind = k
        ∧ r.pol.resetHold ≠ 0 ∧ (r.cs.attempts < r.pol.maxAttempts ↔ n = 2))
      ∧ (busyWith 1 (noLead .none 2 fenced)).holdsEntry 0 (entryOf (act 0) 1) ⟨0, 0⟩ block
      ∧ queuedFor 0 (busyWith 1 (noLead .none 2 fenced)).iq ≤ 3 := by
  unfold State.holdsEntry
  decide

/-- The drain end of the NONE path with an isolation lead of 0: ISOLATED in the same event, and the FENCE returned. -/
theorem test_drain_ends_at_isolated :
    let t := after (.drainTimerExpiry 0) (busyWith 1 (noLead .none 2 (withEntry fenced 0 (.stale entry2))))
    (t.slot 0).cs.state = .isolated ∧ (t.slot 0).tt.entry 0 = .free ∧ t.iq.map (fun x => x.kind) = [.isolated]
      ∧ t.out.contains (.hostWrite 0x1010 (returnBody .done .isolated 2 0 0)) = true := by decide +kernel

/-- ISOLATE and ASSERT at the end of their timers in the three sequences that use them. -/
theorem test_met_IsolateAndAssertEndBySequence :
    (∀ q ∈ [Sequence.warm, .isolate, .coldDown], let r := inState .resetting (phasePru { upPru with isoOpen := true } .isolate q)
      r.ad.remaining = [] ∧ r.pru.phase = .isolate ∧ r.pru.timer = some 0 ∧ r.pol.resetHold ≠ 0 ∧ r.pru.sequence = q
        ∧ r.pru.isoOpen = true ∧ r.pru.asserted = false ∧ r.pru.power = true ∧ r.pru.bleed = false)
      ∧ (∀ q ∈ [Sequence.warm, .isolate, .coldDown],
        let r := inState .resetting (phasePru { upPru with isoOpen := true, asserted := true } .assert q)
        r.pru.phase = .assert ∧ r.pru.timer = some 0 ∧ r.pru.sequence = q ∧ r.pol.releaseLag ≠ 0)
      ∧ State.reset.summaryInLine := ⟨by decide, by decide, rfl⟩

/-- SETTLE with a release lag and with none; RECONNECT. -/
theorem test_met_SettleAndReconnectEnd :
    (∀ n ∈ [0, 1], let r := withPol (inState .powering (phasePru darkPru .settle .powerUp)) fun p => { p with releaseLag := n }
      r.pru.phase = .settle ∧ r.pru.timer = some 0 ∧ r.pol.releaseLag = n)
      ∧ let r := inState .resetting (phasePru darkPru .reconnect .warm)
        r.pru.phase = .reconnect ∧ r.pru.timer = some 0 := by decide

/-- Attempts left and used up; outputs that are up. -/
theorem test_met_RampSlowAndTrainingTimeoutFailTheAttempt :
    (∀ n ∈ [2, 3], let r := withCs { ramping 20 with pru := { (ramping 20).pru with rampDue := true } } fun c =>
        { c with attempts := n }
      r.ad.remaining = [] ∧ r.pru.phase = .ramp ∧ r.pru.rampDue = true ∧ (r.pol.maxAttempts ≤ r.cs.attempts ↔ n = 3))
      ∧ (training.ad.remaining = [] ∧ training.pru.phase = .training ∧ training.pru.timer = some 0) ∧ training.pru.up
      ∧ State.reset.summaryInLine := ⟨by decide, by decide, ⟨rfl, rfl, rfl, rfl⟩, rfl⟩

/-- TRAINING with and without a restore wanted; a link-up in another phase; an engine at rest. -/
theorem test_met_LinkUpEndsTraining :
    (∀ b ∈ [true, false], let r := withCs training fun c => { c with restoreWanted := b }
      r.ad.remaining = [] ∧ r.pru.phase = .training ∧ r.cs.restoreWanted = b)
      ∧ online.pru.phase ≠ .training ∧ State.reset.se.current = none ∧ State.reset.se.queue = []
      ∧ State.reset.summaryInLine := ⟨by decide, by decide, rfl, rfl, rfl⟩

theorem test_met_QuietExpiryEndsProbation :
    (probation.ad.remaining = [] ∧ probation.cs.state = .probation ∧ probation.cs.probMode = .quiet
      ∧ probation.cs.probCount = 0 ∧ probation.tt.hold = []) ∧ State.reset.summaryInLine := ⟨by decide, rfl⟩

/-- Slots about to end ISOLATE and ASSERT, to enter HELD, PROBATION, ONLINE, and OFF or RETIRED, with each action that can
be in progress; the entries that return it, and one that does not. -/
theorem test_met_arrived :
    (∀ q ∈ [inState .resetting (phasePru { upPru with isoOpen := true } .isolate .isolate), training, restoring, probation,
        bleeding],
      ∀ c ∈ [(1, ActCode.fence), (2, .recover), (3, .powerOn), (4, .powerOff), (5, .retire)],
        (busyWith c.1 q).holdsEntry 0 (entryOf (act 0) c.1) ⟨0, 0⟩ block ∧ (entryOf (act 0) c.1).act = some c.2)
      ∧ (∀ x ∈ [(ActCode.fence, SlotState.online, ActOutcome.done), (.fence, .isolated, .done), (.recover, .held, .done),
          (.powerOn, .probation, .done), (.powerOff, .off, .done), (.powerOff, .retired, .failed),
          (.retire, .retired, .done)], x ∈ entryReturns)
      ∧ ∀ o ∈ [ActOutcome.done, .failed], (ActCode.recover, SlotState.probation, o) ∉ entryReturns := by
  unfold State.holdsEntry
  decide

/-- A FENCE in progress at the end of probation is returned DONE with the attempts used. -/
theorem test_fence_returned_at_online :
    (after (.probationQuietExpiry 0) (busyWith 1 (withCs probation fun c => { c with attempts := 2 }))).out =
      [.hostWrite 0x1010 (returnBody .done .online 2 0 0), .hostWrite 0x1000 [1, 0]] := by decide

/-- A POWER_OFF in progress is returned FAILED at RETIRED, with the reading. -/
theorem test_powerOff_returned_at_retired :
    (after (.measuringConversionEnd 499)
      (measuring true false (busyWith 4 (withCs bleeding fun c => { c with target := .retired })))).out =
      [.hostWrite 0x1010 (returnBody .failed .retired 499 0 0), .hostWrite 0x1000 [4, 0]] := by decide

/-- A converter that is IDLE with nothing pending, and one that is at work. -/
theorem test_met_BleedWaitEndPlacesABleedShare :
    (let r := inState .bleeding (phasePru darkPru .bleedWait .shutdown); r.pru.phase = .bleedWait ∧ r.pru.timer = some 0)
      ∧ State.reset.rm.activity = .idle ∧ (∀ j, (State.reset.rm.req j).state = .none)
      ∧ (measuring true false State.reset).rm.activity ≠ .idle := by decide

/-- A share present and withdrawn; two other slots PENDING, of which 3 comes before 6 after slot 0. -/
theorem test_met_ConverterServesTheSlotsInOrder :
    (∀ b ∈ [true, false], let m := { (measuring b false State.reset).rm with activity := .settling }
      m.activity = .settling ∧ m.timer = 0 ∧ m.inService = some 0 ∧ (m.req 0).bleed = b ∧ (m.req 0).sample = false
        ∧ ∀ j, j ≠ 0 → (m.req j).state ≠ .pending)
      ∧ let m := (measuring true false State.reset).rm
        let w := { m with reqs := (m.reqs.set 3 ⟨.pending, true, false⟩).set 6 ⟨.pending, false, true⟩ }
        w.activity = .measuring ∧ w.timer = 0 ∧ w.inService = some 0 ∧ w.lastServed = 0 ∧ (w.req 0).state = .inService
          ∧ (bleeding.ad.remaining = []) ∧ (3 : Slot) ≠ 0 ∧ (w.req 3).state = .pending
          ∧ ∀ j, j ≠ 0 → (w.req j).state = .pending → ((3 : Slot) - 0).val ≤ (j - 0).val := by decide

/-- A bleed share below and at the off threshold, for each target, with extensions left and with none. -/
theorem test_met_ReadingGoesToTheSharePresent_bleed :
    (∀ t ∈ [Target.off, .retired, .none], let r := withCs bleeding fun c => { c with target := t }
      (max 0 (min 14000 (499 : Int))).toNat < r.pol.offT ∧ r.pol.offT ≤ (max 0 (min 14000 (500 : Int))).toNat
        ∧ r.cs.target = t ∧ r.ad.remaining = [] ∧ r.sense.pgAcc = false ∧ r.pru.rechecks < r.pol.bleedExt)
      ∧ bleeding.pol.bleedExt ≤ 2
      ∧ (let m := (measuring true false State.reset).rm
        m.activity = .measuring ∧ m.timer = 0 ∧ m.inService = some 0 ∧ (m.req 0).bleed = true ∧ (m.req 0).sample = false)
      ∧ State.reset.summaryInLine := ⟨by decide, by decide, by decide, rfl⟩

theorem test_met_ReadingGoesToTheSharePresent_sample :
    let s := measuring false true (busyWith 11 online)
    s.holdsEntry 0 (entryOf (act 0) 11) ⟨0, 0⟩ block ∧ s.rm.activity = .measuring ∧ s.rm.timer = 0
      ∧ s.rm.inService = some 0 ∧ (s.rm.req 0).sample = true ∧ (s.rm.req 0).bleed = false
      ∧ (entryOf (act 0) 11).act = some .railSample := by
  unfold State.holdsEntry
  decide

/-- Both shares, with a target OFF and RETIRED, with a recheck left and with none. -/
theorem test_met_ReadingGoesToTheSharePresent_both :
    let s := measuring true true (busyWith 11 (withCs bleeding fun c => { c with target := .off })); let r := s.slot 0
    s.holdsEntry 0 (entryOf (act 0) 11) ⟨0, 0⟩ block ∧ s.rm.activity = .measuring ∧ s.rm.timer = 0
      ∧ s.rm.inService = some 0 ∧ (s.rm.req 0).sample = true ∧ (s.rm.req 0).bleed = true ∧ r.cs.target = .off
      ∧ r.pru.rechecks < r.pol.bleedExt ∧ r.pol.bleedExt ≤ 2 ∧ (max 0 (min 14000 (499 : Int))).toNat < r.pol.offT
      ∧ (let q := (measuring true true (busyWith 11 (withCs bleeding fun c => { c with target := .retired }))).slot 0;
        q.cs.target = .retired ∧ q.ad = r.ad)
      ∧ r.pol.offT ≤ (max 0 (min 14000 (500 : Int))).toNat := by
  unfold State.holdsEntry
  decide

/-- A sample that changes nothing accepted; the second ABSENT, with an action in the record; the second PRESENT of an EMPTY
slot, with AUTO_POWER_ON clear and set. -/
theorem test_met_PresenceIsAcceptedAtTheSecondSample :
    (∀ b ∈ [true, false],
      let r := withPol (inState .empty darkPru) fun p => { p with autoPowerOn := b }
      let q := { r with sense := { r.sense with presPrev := true } }
      q.ad.remaining = [] ∧ q.sense.attnPrev = false ∧ q.sense.attnAcc = false ∧ q.sense.presAcc = false
        ∧ q.cs.state = .empty ∧ q.pol.autoPowerOn = b ∧ q.sense.pgAcc = false
        ∧ (1 : BitVec 8).getLsbD 0 = true ∧ (0 : BitVec 8).getLsbD 0 = false)
      ∧ (let q := (busyWith 1 { online with sense := { online.sense with presAcc := true } }).slot 0;
        q.sense.presPrev = false ∧ q.sense.presAcc = true ∧ q.cs.state ≠ .empty ∧ q.ad.current ≠ none
          ∧ q.ad.runs .railSample = false ∧ q.policy = some pol ∧ q.pru = upPru)
      ∧ { State.reset with sampleTimer := 0 }.sampleTimer = 0 := by decide

/-- Slot 0's record holds the first entry of a plan with these others remaining, all in flight. -/
def planning (code : BitVec 8) (rest : List (BitVec 8)) (r : SlotRec) : State :=
  let es := rest.mapIdx fun n c => { entryOf ⟨n + 1, 0, 0⟩ c with chain := .middle }
  let s := running (bench { r with ad := { r.ad with
    occupant := .plan, current := some { entryOf (act 0) code with chain := .first }, remaining := es
    policyRead := if code = 9 then some ref0 else none } })
  { s with ri := { s.ri with inFlight := ⟨0, 0⟩ :: es.map fun e => ⟨e.index, 3⟩ } }

/-- A FENCE and a RAIL_SAMPLE alone and with two entries remaining, at the loss of the card; the other slots are free. -/
theorem test_met_PresenceIsAcceptedAtTheSecondSample_plan :
    ∀ c ∈ [(1, ActCode.fence), (11, .railSample)], ∀ rest ∈ [[], [(3 : BitVec 8), 10]],
      let s := planning c.1 rest { online with sense := { online.sense with presAcc := true } }
      (∃ e, e.act = some c.2 ∧ s.holdsPlan 0 e (s.slot 0).ad.remaining block) ∧ (s.slot 0).ad.remaining.length = rest.length
        ∧ (s.slot 0).cs.state ≠ .empty ∧ (s.slot 0).sense.presPrev = false ∧ (s.slot 0).sense.presAcc = true
        ∧ ∀ j, j ≠ 0 → (s.slot j).ad.current.toList ++ (s.slot j).ad.remaining = [] := by
  intro c hc rest hr
  unfold State.holdsPlan
  refine ⟨⟨{ entryOf (act 0) c.1 with chain := .first }, ?_⟩, ?_⟩ <;> decide +revert

/-- At the loss of the card the RECOVER of a plan is returned CARD_REMOVED and the entry after it SKIPPED. -/
theorem test_card_lost_in_a_plan :
    ((after (.senseSample ⟨0, 0, 0, allSlots⟩)
      { planning 2 [10] { online with sense := { online.sense with presAcc := true } } with sampleTimer := 0 }).out.drop
        1).take 4 =
      [.hostWrite 0x1010 (returnBody .cardRemoved .empty 0 0 0), .hostWrite 0x1000 [2, 0x10],
        .hostWrite 0x1030 (returnBody .skipped .empty 0 3 0), .hostWrite 0x1020 [10, 0x20]] := by decide +kernel

def pressed (n : Nat) (r : SlotRec) : SlotRec :=
  { r with sense := { r.sense with presAcc := true, presPrev := true, attnAcc := true, width := n } }

/-- A release at a width one below the long threshold, in ONLINE and PROBATION, with an entry to drain and with none. -/
theorem test_met_PressesActByLength_short :
    ∀ q ∈ [online, probation], let r := pressed 2 (withEntry q 0 (.live entry2))
      r.ad.remaining = [] ∧ (1 : BitVec 8).getLsbD 0 = r.sense.presAcc ∧ (0 : BitVec 8).getLsbD 0 = false
        ∧ r.sense.attnPrev = false ∧ r.sense.attnAcc = true ∧ r.sense.longMade = false ∧ r.policy = some pol
        ∧ r.sense.width + 1 < pol.attnLong ∧ r.pol.attention = true ∧ r.cs.state = q.cs.state ∧ r.pol.drain ≠ 0
        ∧ r.tt.entry 0 ≠ .free ∧ (∀ k, q.tt.entry k = .free) ∧ r.pol.isoLead ≠ 0 := by decide

/-- A press that reaches the long threshold, in a state of each clause. -/
theorem test_met_PressesActByLength_long :
    ∀ q ∈ [inState .empty darkPru, bleeding, offSlot, retiredSlot, online, fenced, isolatedSlot], let r := pressed 3 q
      r.ad.remaining = [] ∧ (1 : BitVec 8).getLsbD 0 = r.sense.presAcc ∧ (1 : BitVec 8).getLsbD 0 = true
        ∧ r.sense.attnAcc = true ∧ r.sense.longMade = false ∧ r.policy = some pol ∧ pol.attnLong = r.sense.width + 1
        ∧ pol.attention = true ∧ r.sense.pgAcc = false := by decide

/-- Presses whose fence ends its drain with an isolation lead of 0; a press that finds power-good accepted. -/
theorem test_met_PressesActByLength_lead :
    (∀ q ∈ [online, probation], ∀ k ∈ kinds, let r := pressed 2 (noLead k 0 q)
      r.ad.remaining = [] ∧ r.policy ≠ none ∧ r.sense.attnPrev = false ∧ r.sense.width + 1 < r.pol.attnLong
        ∧ r.pol.attention = true ∧ r.cs.state = q.cs.state ∧ r.pol.isoLead = 0 ∧ ∀ l, r.tt.entry l = .free)
      ∧ ∀ q ∈ [offSlot, retiredSlot],
        let r := pressed 3 { q with sense := { q.sense with pgAcc := true } }
        r.ad.remaining = [] ∧ r.policy = some pol ∧ pol.attnLong ≤ r.sense.width + 1 ∧ pol.attention = true
          ∧ r.sense.attnAcc = true ∧ r.sense.longMade = false ∧ r.sense.pgAcc = true ∧ r.cs.state = q.cs.state
          ∧ queuedFor 0 State.reset.iq ≤ 1 := by decide

/-- A long press over an entry alone and over one with two entries remaining, of which one is decided CARD_REMOVED. -/
theorem test_met_PressesActByLength_plan :
    ∀ c ∈ [(1, false), (8, false), (11, false), (11, true)], ∀ rest ∈ [[], [(3 : BitVec 8), 10]],
      let s := planning c.1 rest (pressed 3 { online with ad := { online.ad with cardRemoved := c.2 } })
      (∃ e, e.act = ActCode.ofCode c.1 ∧ s.holdsPlan 0 e (s.slot 0).ad.remaining block) ∧ (s.slot 0).ad.cardRemoved = c.2
        ∧ (s.slot 0).ad.remaining.length = rest.length
        ∧ ∀ j, j ≠ 0 → (s.slot j).ad.current.toList ++ (s.slot j).ad.remaining = [] := by
  intro c hc rest hr
  unfold State.holdsPlan
  refine ⟨⟨{ entryOf (act 0) c.1 with chain := .first }, ?_⟩, ?_⟩ <;> decide +kernel +revert

/-- A long press overtakes a plan: the FENCE of it is returned OVERTAKEN and the entry after it SKIPPED, before the slot's
own changes. -/
theorem test_long_press_overtakes :
    let s := planning 1 [3] (pressed 3 online)
    (after (.senseSample ⟨1, 1, 0, allSlots⟩) { s with sampleTimer := 0 }).out =
      [.hostWrite 0x1010 (returnBody .overtaken .online 0 0 0), .hostWrite 0x1000 [1, 0x10],
        .hostWrite 0x1030 (returnBody .skipped .online 0 3 0), .hostWrite 0x1020 [3, 0x20]] := by decide +kernel

def headBytes (n : Nat) : List Byte := [BitVec.ofNat 8 n, 0, 0, 0]

/-- A map of two entries, of which the second is taken last. -/
def map2 : List MapEntry := [mapOf false true, { mapOf true false with index := 1022 }]

def map2Bytes : List Byte := [4, 0, 2, 2, 0xFE, 3, 2, 4]

theorem map2_said : mapSays map2Bytes map2 := ((mapEntries_iff map2Bytes 2 map2).1 (by decide)).2

/-- A header of a snapshot and of a restore, of any identity; map heads of 1 and 64 entries; maps of one entry and of two;
a map of which nothing is taken. -/
theorem test_met_ShadowReadsLeadFromHeaderToCard :
    (∀ n ∈ [0, 9], let s := engine .snapshot .readHeader (.read ⟨n, 0⟩ .header) [] (bench online);
      s.summaryInLine ∧ (s.slot 0).planSettled ∧ s.se.current = some ⟨.snapshot, 0⟩
        ∧ s.se.waiting = .read ⟨n, 0⟩ .header ∧ (s.slot 0).tt.entry engineTag = .free)
      ∧ (List.replicate 16 (2 : Byte)).length = 16 ∧ (List.replicate 16 (2 : Byte)).getD 0 0 = 2
      ∧ (∀ n ∈ [1, 64], (headBytes n).length = 4 ∧ (headBytes n).getD 1 0 = 0 ∧ (headBytes n).getD 2 0 = 0
        ∧ (headBytes n).getD 3 0 = 0 ∧ ((headBytes n).getD 0 0).toNat = n)
      ∧ mapSays [4, 0, 2, 0] [mapOf false false] ∧ mapSays map2Bytes map2 ∧ map2Bytes.length = 4 * map2.length
      ∧ totalDwords map2 = 4 ∧ follows map2 .first 0 .first 1 { mapOf true false with index := 1022 }
      ∧ nothingFollows [{ mapOf false false with skip := true }] .first 0 := by
  refine ⟨?_, by decide, by decide, by decide, ((mapEntries_iff _ 1 _).1 (by decide)).2, map2_said, by decide, by decide,
    ?_, (nextPlace_none _ _ _).1 (by decide)⟩
  · simp only [List.forall_mem_cons]
    exact ⟨⟨rfl, fun _ => rfl, rfl, rfl, by decide⟩, ⟨rfl, fun _ => rfl, rfl, rfl, by decide⟩, by simp⟩
  · obtain ⟨e, h⟩ := (nextPlace_some map2 .first .first 0 1).1 (by decide)
    have he : map2[1]? = some e := h.1
    cases he
    exact h

/-- A read outstanding for a snapshot that an action awaits, and for a restore; answers one byte short, a header that is
INVALID, map heads of 0 and 65 entries, an entry of no dwords, and a map that the header does not agree with. -/
theorem test_met_ShadowReadErrorsEndTheOperation :
    (let s := engine .snapshot .readHeader (.read ref0 .header) [] (busyWith 8 online);
      s.summaryInLine ∧ (s.slot 0).planSettled ∧ s.se.current = some ⟨.snapshot, 0⟩ ∧ s.se.waiting = .read ref0 .header
        ∧ s.holdsEntry 0 (entryOf (act 0) 8) ⟨0, 0⟩ block ∧ (entryOf (act 0) 8).act = some .snapshot
        ∧ (s.tb.counter - ref0.deadline).toNat < 2 ^ 31 ∧ (s.tb.counter - 1).toNat ≥ 2 ^ 31)
      ∧ (let s := engine .restore .readHeader (.read ref0 .header) [] (bench restoring);
        s.summaryInLine ∧ (s.slot 0).planDone ∧ s.se.current = some ⟨.restore, 0⟩ ∧ s.se.hdrCount ≠ map2.length)
      ∧ ((List.replicate 15 (2 : Byte)).length < 16 ∧ (List.replicate 16 (1 : Byte)).getD 0 0 ≠ 2)
      ∧ (∀ n ∈ [0, 65], ¬ (1 ≤ leNat (headBytes n) 0 2 ∧ leNat (headBytes n) 0 2 ≤ 64 ∧ leNat (headBytes n) 2 2 = 0))
      ∧ (¬ ∃ m : List MapEntry, m.length = 1 ∧ mapSays (headBytes 4) m) ∧ mapSays map2Bytes map2 := by
  refine ⟨⟨rfl, fun _ => rfl, rfl, rfl, ?_, by decide, by decide, by decide⟩, ⟨rfl, rfl, rfl, by decide⟩, by decide,
    by decide, ?_, map2_said⟩
  · unfold State.holdsEntry
    decide
  · rintro ⟨m, h⟩
    exact absurd ((mapEntries_iff (headBytes 4) 1 m).2 h) (by rw [show mapEntries (headBytes 4) 1 = none by decide]; simp)

def copying (entry dword : Nat) (m : List MapEntry) (s : State) : State :=
  let t := engine .snapshot .copy .card m s
  { t with se := { t.se with entry := entry, dword := dword } }

def reading (s : State) : State := s.modSlot 0 fun r => withEntry r 31 (.live (engineEntry .configRead 4))

/-- A dword inside an entry, the last of an entry, and the last of the map. -/
theorem test_met_CopyWritesEachDwordAndEndsValid :
    ∀ p ∈ [(0, 0), (0, 1), (1, 1)],
      let s := reading (copying p.1 p.2 [mapOf false false, mapOf false true] (busyWith 8 online)); let r := s.slot 0
      s.summaryInLine ∧ r.planSettled ∧ s.se.current = some ⟨.snapshot, 0⟩ ∧ s.se.step = .copy ∧ s.se.waiting = .card
        ∧ r.engineWaits .configRead ∧ s.holdsEntry 0 (entryOf (act 0) 8) ⟨0, 0⟩ block
        ∧ (s.se.dword + 1 < (s.se.map.getD s.se.entry ⟨0, 0, false, false, false⟩).count ↔ p = (0, 0))
        ∧ (s.se.entry + 1 < s.se.map.length ↔ p ≠ (1, 1)) := by
  simp only [List.forall_mem_cons]
  unfold State.holdsEntry
  exact ⟨⟨rfl, fun _ => rfl, rfl, rfl, rfl, ⟨0, rfl⟩, by decide, by decide, by decide⟩,
    ⟨rfl, fun _ => rfl, rfl, rfl, rfl, ⟨0, rfl⟩, by decide, by decide, by decide⟩,
    ⟨rfl, fun _ => rfl, rfl, rfl, rfl, ⟨0, rfl⟩, by decide, by decide, by decide⟩, by simp⟩

/-- A restore of slot 1 waits behind the operation of slot 0. -/
def queued (s : State) : State := { s with se := { s.se with queue := [⟨.restore, 1⟩] } }

/-- An engine with no operation waiting, and with one of another slot; a SNAPSHOT running and a restore with a POWER_ON in
progress. -/
theorem test_met_operationEnded :
    (let s := copying 1 1 [mapOf false false, mapOf false true] (busyWith 8 online);
      s.se.queue = [] ∧ (queued s).se.queue = ⟨.restore, 1⟩ :: [] ∧ ∀ op ∈ (queued s).se.queue, op.slot ≠ 0)
      ∧ (queued (engine .snapshot .copy .card [] (busyWith 8 online))).se.current = some ⟨.snapshot, 0⟩
      ∧ let s := queued (engine .restore .readHeader (.read ref0 .header) [] (busyWith 3 restoring))
        s.se.current = some ⟨.restore, 0⟩ ∧ (s.slot 0).ad.remaining = []
          ∧ s.holdsEntry 0 (entryOf (act 0) 3) ⟨0, 0⟩ block := by
  unfold State.holdsEntry
  decide

/-- A read error of a restore returns the POWER_ON in progress DONE at HELD, and the operation that waits starts. -/
theorem test_next_operation :
    let s := queued (engine .restore .readHeader (.read ref0 .header) [] (busyWith 3 restoring))
    (after (.shadowReadDone 0 .aborted) (s.setSlot 1 restoring)).out =
      [.hostWrite 0x1010 (returnBody .done .held 0 0 0), .hostWrite 0x1000 [3, 0],
        .hostRead .shadowEngine 0 0x800 16] := by decide

def writing (step : SeStep) (dword : Nat) (m : MapEntry) (k : ReqKind) (n : Nat) : State :=
  let t := engine .restore step .card [m] (bench (withEntry restoring 31 (.live (engineEntry k n))))
  { t with se := { t.se with dword := dword } }

/-- A write of a VERIFY entry; a write inside an entry; the last write of the map; a readback that agrees and one that
differs; the last entry of the first pass, with an entry to follow in the last one. -/
theorem test_met_WriteBackVerifiesAndAdmits :
    (∀ b ∈ [true, false], ∀ d ∈ [0, 1], let s := writing .writeBack d (mapOf b false) .configWrite 0; let r := s.slot 0
      s.summaryInLine ∧ r.planDone ∧ s.se.current = some ⟨.restore, 0⟩ ∧ s.se.waiting = .card ∧ s.se.step = .writeBack
        ∧ r.engineWaits .configWrite ∧ r.tt.hold = [] ∧ s.se.map = [mapOf b false] ∧ s.se.pass = .first
        ∧ nothingFollows s.se.map s.se.pass (s.se.entry + 1) ∧ (d + 1 < (mapOf b false).count ↔ d = 0))
      ∧ (let s := writing .verifyRead 0 (mapOf true false) .configRead 4; let r := s.slot 0
        s.se.step = .verifyRead ∧ r.engineWaits .configRead ∧ 0 + 1 < (mapOf true false).count
          ∧ BitVec.ofNat 32 (leNat [0, 0, 0, 0] 0 4) = s.se.staging.getD 0 0
          ∧ BitVec.ofNat 32 (leNat [1, 0, 0, 0] 0 4) ≠ s.se.staging.getD 0 0)
      ∧ (∃ e, follows map2 .first 2 .last 0 e) ∧ (reply 0 0).status = .success ∧ (reply 0 0).data = [] := by
  refine ⟨?_, ⟨rfl, ⟨0, rfl⟩, by decide⟩, (nextPlace_some map2 .first .last 2 0).1 (by decide), by decide⟩
  intro b hb d hd
  refine ⟨?_, ?_, rfl, rfl, rfl, ⟨0, rfl⟩, rfl, rfl, rfl, (nextPlace_none _ _ _).1 (by decide +revert), by decide +revert⟩
  · unfold State.summaryInLine
    decide +revert
  · unfold SlotRec.planDone
    decide +revert

/-- A card read of a snapshot and a card write of a restore that fail, are malformed or are late, in ONLINE and RESTORING. -/
theorem test_met_FailedCardAccessEndsTheOperation :
    (let s := reading (copying 0 1 [mapOf false false] (busyWith 8 online)); let r := s.slot 0
      s.summaryInLine ∧ r.planSettled ∧ r.tt.hold = [] ∧ r.cs.state ≠ .probation ∧ s.se.current = some ⟨.snapshot, 0⟩
        ∧ s.se.waiting = .card ∧ r.tt.entry engineTag = .live (engineEntry .configRead 4)
        ∧ s.holdsEntry 0 (entryOf (act 0) 8) ⟨0, 0⟩ block ∧ r.calm 8
        ∧ (s.tb.counter - (engineEntry .configRead 4).deadline).toNat < 2 ^ 31)
      ∧ let s := writing .writeBack 0 (mapOf false false) .configWrite 0; let r := s.slot 0
        r.planSettled ∧ r.tt.hold = [] ∧ r.cs.state ≠ .probation ∧ s.se.waiting = .card
          ∧ r.tt.entry engineTag = .live (engineEntry .configWrite 0) ∧ r.calm 1 ∧ failure.data.length ≤ 0
          ∧ failure.status ≠ .success ∧ 0 < (reply 1 0).data.length := by
  unfold State.holdsEntry
  exact ⟨⟨rfl, fun _ => rfl, rfl, by decide, rfl, rfl, by decide, by decide, calm_of pol rfl (by decide), by decide⟩,
    fun _ => rfl, rfl, by decide, rfl, by decide, calm_of pol rfl (by decide), by decide, by decide, by decide⟩

/-- The first access of a snapshot and of a restore, offered while tag 31 is STALE. -/
theorem test_met_FailedCardAccessEndsTheOperation_refused :
    (let s := engine .snapshot .readMap (.read ref0 (.mapEntries 2)) []
        (busyWith 8 (withEntry online 31 (.stale (engineEntry .configRead 4)))); let r := s.slot 0
      s.summaryInLine ∧ r.planSettled ∧ r.tt.entry engineTag ≠ .free ∧ s.se.current = some ⟨.snapshot, 0⟩
        ∧ s.se.waiting = .read ref0 (.mapEntries map2.length) ∧ map2Bytes.length = 4 * map2.length
        ∧ s.holdsEntry 0 (entryOf (act 0) 8) ⟨0, 0⟩ block)
      ∧ let s := engine .restore .readData (.read ref0 .data) map2
          (bench (withEntry restoring 31 (.stale (engineEntry .configRead 4)))); let r := s.slot 0
        s.summaryInLine ∧ r.planDone ∧ r.tt.entry engineTag ≠ .free ∧ s.se.current = some ⟨.restore, 0⟩
          ∧ s.se.waiting = .read ref0 .data ∧ (List.replicate 16 (0 : Byte)).length = 4 * totalDwords s.se.map
          ∧ ∃ e, follows s.se.map .first 0 .first 1 e := by
  unfold State.holdsEntry
  exact ⟨⟨rfl, fun _ => rfl, by decide, rfl, rfl, by decide, by decide⟩,
    rfl, rfl, by decide, rfl, rfl, by decide, (nextPlace_some map2 .first .first 0 1).1 (by decide)⟩

/-- RI takes the entries 0 and 7 of a ring of 8. -/
theorem test_met_takes :
    ∀ n ∈ [0, 7], (running (bench online)).takes ⟨n, 0, 0⟩ block := by
  unfold State.takes
  decide

/-- An action for each outcome of the checks: codes 0 and 12, no policy, arguments just out of range, an occupied record,
states that do not accept. -/
theorem test_met_FailedChecksReturnAtOnce :
    ((0 : BitVec 8).toNat = 0 ∧ 11 < (12 : BitVec 8).toNat)
      ∧ (actionOf (.fence 0 (act 3)) = some (0, .fence, act 3) ∧ ActCode.fence.code = 1 ∧ 2 < (act 3).argA.toNat)
      ∧ (actionOf (.recover 0 (act 0)) = some (0, .recover, act 0) ∧ (act 0).argA.toNat = 0)
      ∧ (actionOf (.powerOn 0 (act 2)) = some (0, .powerOn, act 2) ∧ 1 < (act 2).argA.toNat)
      ∧ (actionOf (.readSlot 0 (act 1)) = some (0, .readSlot, act 1) ∧ (act 1).argA ≠ 0)
      ∧ SlotRec.reset.policy = none ∧ online.policy ≠ none
      ∧ (((busyWith 11 online).slot 0).ad.occupant ≠ .none ∧ (act 0).argA.toNat ≤ 2
        ∧ ¬ ((busyWith 11 online).slot 0).ad.runs .snapshot = true)
      ∧ (∀ r ∈ [offSlot, fenced, inState .empty darkPru], r.ad.occupant = .none ∧ r.policy ≠ none)
      ∧ (offSlot.cs.state = .off ∧ fenced.cs.state = .fenced ∧ (inState .empty darkPru).cs.state = .empty) := by decide

/-- FENCE with NONE, WARM and COLD in the three states that it fences, with an entry to drain and with none, over a SNAPSHOT
in progress, and with NONE in ISOLATED. -/
theorem test_met_FenceActionFencesTheSlot :
    (∀ r ∈ [online, probation, heldSlot], ∀ n ∈ [0, 1, 2], let q := withEntry r 0 (.live entry2)
      q.policy = some pol ∧ (act (BitVec.ofNat 16 n)).argB = 0 ∧ (act (BitVec.ofNat 16 n)).argA.toNat ≤ 2 ∧ q.ad.occupant = .none ∧ q.ad.remaining = []
        ∧ pol.drain ≠ 0 ∧ q.tt.entry 0 ≠ .free ∧ (∀ k, r.tt.entry k = .free) ∧ pol.isoLead ≠ 0)
      ∧ (let s := busyWith 8 (withEntry online 0 (.live entry2));
        s.takes ⟨1, 0, 0⟩ block ∧ s.holdsEntry 0 (entryOf (act 0) 8) ⟨0, 0⟩ block ∧ (s.slot 0).ad.occupant ≠ .none
          ∧ (entryOf (act 0) 8).act = some .snapshot)
      ∧ (isolatedSlot.cs.state = .isolated ∧ isolatedSlot.ad.occupant = .none)
      ∧ (running (bench online)).summaryInLine := by
  unfold State.takes State.holdsEntry
  exact ⟨by decide, by decide, by decide, rfl⟩

/-- An isolation lead of 0 with a drain of 0 and with nothing to drain; no operation of the engine is the slot's. -/
theorem test_met_FenceActionFencesTheSlot_lead :
    ∀ r ∈ [online, probation, heldSlot], ∀ n ∈ [0, 1, 2], let q := noLead .none 0 r
      let s := running (bench (withEntry (withPol q fun p => { p with drain := 0 }) 0 (.live entry2)))
      s.takes (act (BitVec.ofNat 16 n)) block ∧ (act (BitVec.ofNat 16 n)).argA.toNat = n ∧ (s.slot 0).pol.drain = 0
        ∧ (s.slot 0).pol.isoLead = 0 ∧ (s.slot 0).cs.state = r.cs.state ∧ (∀ op ∈ s.se.ops, op.slot ≠ 0)
        ∧ q.pol.isoLead = 0 ∧ (∀ l, q.tt.entry l = .free) ∧ q.ad.occupant = .none ∧ q.ad.remaining = [] := by
  unfold State.takes
  decide

/-- RECOVER with WARM and COLD in ISOLATED, RETIRED and HELD, there with an entry to drain and with none. -/
theorem test_met_RecoverBeginsTheFirstAttempt :
    ∀ r ∈ [isolatedSlot, retiredSlot, withEntry heldSlot 0 (.stale entry2)], ∀ n ∈ [1, 2], let a := act (BitVec.ofNat 16 n)
      r.policy = some pol ∧ a.argB = 0 ∧ (a.argA = 1 ∨ a.argA = 2) ∧ r.ad.occupant = .none
        ∧ r.ad.remaining = [] ∧ pol.releaseLag ≠ 0 ∧ r.sense.pgAcc = false ∧ pol.drain ≠ 0
        ∧ (r.cs.state = .held → r.tt.entry 0 ≠ .free) ∧ (∀ k, heldSlot.tt.entry k = .free) ∧ pol.isoLead ≠ 0 := by decide

/-- RECOVER in RETIRED with power-good accepted and a maximum of 1 and of 3 attempts; in HELD with an isolation lead of 0. -/
theorem test_met_RecoverBeginsTheFirstAttempt_lead :
    (∀ n ∈ [1, 3], let r := withPol { retiredSlot with sense := { retiredSlot.sense with pgAcc := true } } fun p =>
        { p with maxAttempts := n }
      r.policy = some { pol with maxAttempts := n } ∧ r.cs.state = .retired ∧ r.sense.pgAcc = true
        ∧ r.ad.occupant = .none ∧ r.ad.remaining = [] ∧ r.pol.releaseLag ≠ 0)
      ∧ queuedFor 0 State.reset.iq ≤ 2
      ∧ let r := noLead .none 0 heldSlot
        r.cs.state = .held ∧ r.pol.isoLead = 0 ∧ r.pol.releaseLag ≠ 0 ∧ r.ad.occupant = .none ∧ r.ad.remaining = []
          ∧ ∀ l, r.tt.entry l = .free := by decide

/-- Both arguments, with power-good not accepted and accepted. -/
theorem test_met_PowerOnStartsABringUp :
    offSlot.policy ≠ none ∧ (∀ n ∈ [0, 1], (act (BitVec.ofNat 16 n)).argA.toNat = n ∧ (act (BitVec.ofNat 16 n)).argB = 0)
      ∧ ∀ b ∈ [true, false], let r := { offSlot with sense := { offSlot.sense with pgAcc := b } }
        r.ad.occupant = .none ∧ r.ad.remaining = [] ∧ r.cs.state = .off ∧ r.sense.pgAcc = b := by decide

/-- A free record in a state of each clause; one that a RECOVER, a SNAPSHOT and a RAIL_SAMPLE occupy; outputs that are up. -/
theorem test_met_PowerOffAndRetireByState :
    (∀ r ∈ [offSlot, retiredSlot, bleeding, online], r.policy ≠ none ∧ r.cs.state ≠ .empty ∧ r.ad.occupant = .none
      ∧ r.ad.remaining = [])
      ∧ (∀ c ∈ [(2, ActCode.recover), (8, .snapshot), (11, .railSample)], let s := busyWith c.1 online
        s.takes ⟨1, 0, 0⟩ block ∧ (s.slot 0).ad.occupant ≠ .none ∧ s.holdsEntry 0 (entryOf (act 0) c.1) ⟨0, 0⟩ block
          ∧ (entryOf (act 0) c.1).act = some c.2)
      ∧ online.pru.up := by
  unfold State.takes State.holdsEntry PruRec.up
  decide

/-- HELD with an empty and a full holdover, and PROBATION. -/
theorem test_met_AdmitAndReleaseReturnDone :
    (∀ r ∈ [heldSlot, probation], r.policy = some pol ∧ (act 0).argB = 0 ∧ (act 0).argA = 0 ∧ r.ad.occupant = .none
      ∧ r.ad.remaining = [] ∧ r.tt.hold = [] ∧ r.ctf.holdover = none)
      ∧ { heldSlot with ctf := { heldSlot.ctf with holdover := some message } }.ctf.holdover = some message := by decide

/-- The largest score and attempts, in a free and in an occupied record. -/
theorem test_met_ReadSlotPacksTheFourCounts :
    (let r := withCs (withHm online 1023) fun c => { c with attempts := 7 };
      r.ad.remaining = [] ∧ r.ad.occupant = .none ∧ r.hm.score ≤ 1023 ∧ r.cs.attempts ≤ 7)
      ∧ ((busyWith 11 online).slot 0).ad.occupant ≠ .none ∧ ((busyWith 11 online).slot 0).ad.remaining = []
      ∧ (busyWith 11 online).takes ⟨1, 0, 0⟩ block := by
  unfold State.takes
  decide

theorem test_met_SnapshotLoadPolicyAndRailSampleStart :
    (online.policy ≠ none ∧ online.cs.state = .online ∧ online.cs.state.recovery = false ∧ online.ad.occupant = .none
      ∧ online.ad.remaining = [] ∧ State.reset.se.queue = [])
      ∧ (engine .restore .copy .card [] (bench online)).se.current ≠ none := by decide

/-- A LOAD_POLICY whose read is outstanding, alone and with an entry of code 0, a READ_SLOT or a RAIL_SAMPLE after it, in a
recovery state and in ONLINE; a deadline reached and one not yet. -/
theorem test_met_LoadPolicyReadEndsByTheCheck :
    (∀ rest ∈ [[], [(0 : BitVec 8), 3], [10], [11, 3]], let t := planning 9 rest (withHm online 1023)
      (∃ e, e.act = some .loadPolicy ∧ t.holdsPlan 0 e (t.slot 0).ad.remaining block)
        ∧ (t.slot 0).ad.remaining.map (fun x => x.code) = rest
        ∧ (∀ x ∈ (t.slot 0).ad.remaining, x.argA = 0 ∧ x.argB = 0) ∧ (t.slot 0).ad.policyRead = some ref0
        ∧ (t.slot 0).tt.hold = [] ∧ (t.slot 0).hm.alert = false ∧ (t.slot 0).hm.score ≤ 1023
        ∧ (t.tb.counter - ref0.deadline).toNat < 2 ^ 31 ∧ (t.tb.counter - 1).toNat ≥ 2 ^ 31)
      ∧ fenced.cs.state.recovery = true ∧ online.cs.state.recovery = false := by
  refine ⟨?_, by decide⟩
  intro rest hr
  unfold State.holdsPlan
  refine ⟨⟨{ entryOf (act 0) 9 with chain := .first }, ?_⟩, ?_⟩ <;> decide +revert

/-- A LOAD_POLICY of a plan returned DONE starts the READ_SLOT after it in the same event. -/
theorem test_plan_goes_on :
    (after (.loadPolicyReadDone 0 0 (.data polBytes)) (planning 9 [10] offSlot)).out =
      [.hostWrite 0x1010 (returnBody .done .off 0 0 0), .hostWrite 0x1000 [9, 0x10],
        .hostWrite 0x1030 (returnBody .done .off 0 3 0), .hostWrite 0x1020 [10, 0x20]] := by decide +kernel

/-- A record with AUTO_CONTAIN set and a drain of 1. -/
def containBytes : List Byte := 3 :: polBytes.tail

theorem not_acceptable {s : State} {i : Slot} {b : List Byte} (h : s.checkPolicy i b = none) : ¬ ∃ p, s.acceptable i b p := by
  rintro ⟨p, hp⟩
  rw [← s.checkPolicy_iff, h] at hp
  cases hp

/-- A record that R168 accepts and one that it does not; one that fences a slot whose score is 2 and whose alert flag is
set, in ONLINE and HELD. -/
theorem test_met_checkPolicy :
    (polBytes.length = 256 ∧ (0 :: polBytes.tail).length = 256 ∧ containBytes.length = 256)
      ∧ (∃ p, (bench online).acceptable 0 polBytes p) ∧ (¬ ∃ p, (bench online).acceptable 0 (0 :: polBytes.tail) p)
      ∧ (∃ p, (bench online).acceptable 0 containBytes p ∧ p.fenceT ≤ 2 ∧ p.autoContain = true ∧ p.drain ≠ 0)
      ∧ ∀ q ∈ [online, heldSlot], let r := withEntry { q with hm := { q.hm with score := 2, alert := true } } 0 (.live entry2)
        r.hm.alert = true ∧ r.hm.score = 2 ∧ r.tt.hold = [] ∧ r.tt.entry 0 ≠ .free
          ∧ (r.cs.state = .online ∨ r.cs.state = .held) := by
  have h : ((bench online).checkPolicy 0 polBytes).isSome = true := by decide +kernel
  have k : (((bench online).checkPolicy 0 containBytes).any fun p =>
    decide (p.fenceT ≤ 2 ∧ p.autoContain = true ∧ p.drain ≠ 0)) = true := by decide +kernel
  obtain ⟨p, hp⟩ := Option.isSome_iff_exists.1 h
  obtain ⟨q, hq, hs⟩ := (Option.any_eq_true _ _).1 k
  exact ⟨by decide +kernel, ⟨p, (State.checkPolicy_iff _ _ _ _).1 hp⟩, not_acceptable (by decide +kernel),
    ⟨q, (State.checkPolicy_iff _ _ _ _).1 hq, by simpa using hs⟩, by decide⟩

/-- A record with AUTO_CONTAIN set, a drain of 0 and an isolation lead of 0. -/
def noLeadBytes : List Byte :=
  [3] ++ (polBytes.take 110).tail ++ [0, 0, 0, 0] ++ polBytes.drop 114

/-- Records that fence a slot and end its drain: one with nothing to drain and a lead, one with neither drain nor lead. -/
theorem test_met_checkPolicy_drained :
    noLeadBytes.length = 256
      ∧ (∃ p, (bench online).acceptable 0 noLeadBytes p ∧ p.fenceT ≤ 2 ∧ p.autoContain = true ∧ p.drain = 0 ∧ p.isoLead = 0)
      ∧ (∃ p, (bench online).acceptable 0 containBytes p ∧ p.fenceT ≤ 2 ∧ p.autoContain = true ∧ p.isoLead ≠ 0)
      ∧ ∀ q ∈ [online, heldSlot], ∀ k, q.tt.entry k = .free := by
  have h : (((bench online).checkPolicy 0 noLeadBytes).any fun p =>
    decide (p.fenceT ≤ 2 ∧ p.autoContain = true ∧ p.drain = 0 ∧ p.isoLead = 0)) = true := by decide +kernel
  have k : (((bench online).checkPolicy 0 containBytes).any fun p =>
    decide (p.fenceT ≤ 2 ∧ p.autoContain = true ∧ p.isoLead ≠ 0)) = true := by decide +kernel
  obtain ⟨p, hp, hs⟩ := (Option.any_eq_true _ _).1 h
  obtain ⟨q, hq, ht⟩ := (Option.any_eq_true _ _).1 k
  exact ⟨by decide +kernel, ⟨p, (State.checkPolicy_iff _ _ _ _).1 hp, by simpa using hs⟩,
    ⟨q, (State.checkPolicy_iff _ _ _ _).1 hq, by simpa using ht⟩, by decide⟩

/-- The four interface states, with nothing in flight and with an entry in flight; low bytes that name the four commands and
ones that name none. -/
theorem test_met_CommandsByInterfaceState :
    State.reset.summaryInLine ∧ (State.reset.ri.state = .stopped ∧ State.reset.ri.inFlight = [])
      ∧ (busyWith 11 online).ri.inFlight ≠ []
      ∧ (let r := { (running State.reset).ri with state := .stopped };
        r.state = .stopped ∧ r.initValid = true ∧ r.cb = some block)
      ∧ (running State.reset).ri.state = .running ∧ (running State.reset).ri.work = .idle
      ∧ (working (.action ref0) State.reset).ri.work.scanning = true
      ∧ { State.reset.ri with state := .halted }.state = .halted
      ∧ { State.reset.ri with state := .initializing }.state = .initializing
      ∧ (∀ n ∈ [1, 2, 3, 4], (BitVec.ofNat 32 (256 + n)).toNat % 256 = n)
      ∧ (0x100 : Dword).toNat % 256 = 0 ∧ 4 < (5 : Dword).toNat % 256 :=
  ⟨rfl, by decide, by decide, by decide, by decide, by decide, by decide, by decide, by decide, by decide, by decide⟩

theorem test_met_RegisterWritesKeepTheRest : (running State.reset).summaryInLine := rfl

/-- The Control Block read outstanding: a valid block, one that is not, and one that is too short. -/
theorem test_met_InitReadsTakeWhatTheyFind_block :
    (let s := working (.controlBlock ref0) State.reset; s.summaryInLine ∧ s.ri.work = .controlBlock ref0
      ∧ (s.tb.counter - ref0.deadline).toNat < 2 ^ 31)
      ∧ blockBytes.length = 64 ∧ (∃ c : ControlBlock, c.says blockBytes ∧ c.sound blockBytes)
      ∧ (∃ c : ControlBlock, c.says (List.replicate 64 0) ∧ ¬ c.sound (List.replicate 64 0))
      ∧ (List.replicate 63 (0 : Byte)).length < 64 := by
  have h : (checkedControlBlock blockBytes).isSome = true := by decide +kernel
  obtain ⟨c, hc⟩ := Option.isSome_iff_exists.1 h
  refine ⟨⟨rfl, rfl, by decide⟩, by decide, ⟨c, (checkedControlBlock_iff _ _).1 hc⟩,
    ⟨parseControlBlock (List.replicate 64 0), (parseControlBlock_iff _ _).1 rfl, fun hs => ?_⟩, by decide⟩
  have := (checkedControlBlock_iff _ _).2 ⟨(parseControlBlock_iff _ _).1 rfl, hs⟩
  rw [show checkedControlBlock (List.replicate 64 0) = none by decide] at this
  cases this

/-- The policy read of slot 7 and of one before it. -/
theorem test_met_InitReadsTakeWhatTheyFind_policy :
    ∀ i ∈ [(6 : Slot), 7], let s := working (.policy ref0 i 0) State.reset
      s.summaryInLine ∧ (s.slot i).planSettled ∧ s.ri.work = .policy ref0 i 0 ∧ s.ri.cb = some block
        ∧ (s.slot i).tt.hold = [] ∧ (s.slot i).hm.alert = false := by
  simp only [List.forall_mem_cons]
  exact ⟨⟨rfl, fun _ => rfl, rfl, rfl, rfl, rfl⟩, ⟨rfl, fun _ => rfl, rfl, rfl, rfl, rfl⟩, by simp⟩

theorem test_met_InitReadsTakeWhatTheyFind_check :
    ∀ i ∈ [(6 : Slot), 7], (∃ p, State.reset.acceptable i polBytes p)
      ∧ ¬ ∃ p, State.reset.acceptable i (0 :: polBytes.tail) p := by
  intro i hi
  have h : (State.reset.checkPolicy i polBytes).isSome = true := by
    revert i
    decide +kernel
  have k : State.reset.checkPolicy i (0 :: polBytes.tail) = none := by
    revert i
    decide +kernel
  obtain ⟨p, hp⟩ := Option.isSome_iff_exists.1 h
  exact ⟨⟨p, (State.checkPolicy_iff _ _ _ _).1 hp⟩, not_acceptable k⟩

/-- A scan is asked for while one is in progress. -/
def owing (s : State) : State := { s with ri := { s.ri with scanRequested := true } }

/-- Entries by owner and chain position, with the Incident Queue empty and not, and with a scan owed; an entry in flight at
the pointer. -/
theorem test_met_ActionEntryReadEnds :
    (let s := working (.action ref0) (bench online); s.summaryInLine ∧ s.ri.work = .action ref0 ∧ s.ri.cb = some block
      ∧ s.ri.state = .running ∧ s.ri.scanRequested = false ∧ (owing s).ri.scanRequested = true ∧ (owing s).iq = []
      ∧ s.iq = [] ∧ (s.raise 0 .linkDown).iq ≠ []
      ∧ (∀ f ∈ s.ri.inFlight, f.index ≠ s.ri.actionPtr) ∧ s.ri.actionPtr < block.actionSize)
      ∧ (∀ c ∈ [0x80, 0x90, 0xA0, 0xB0], let b : List Byte := [0, BitVec.ofNat 8 c] ++ List.replicate 30 0
        b.length = 32 ∧ (b.getD 1 0).getLsbD 7 = true ∧ (b.getD 1 0).toNat / 16 % 4 = (c - 0x80) / 16
          ∧ b.getD 0 0 = 0)
      ∧ ((0x7F : Byte).getLsbD 7 = false)
      ∧ ∃ f ∈ (busyWith 11 online).ri.inFlight, f.index = (busyWith 11 online).ri.actionPtr :=
  ⟨⟨rfl, by decide⟩, by decide, by decide, by decide⟩

/-- The entry at place `n` of a plan, with this code. -/
def planEntry (n : Nat) (code : BitVec 8) : ActEntry :=
  { entryOf ⟨n, 0, 0⟩ code with chain := if n = 0 then .first else .middle }

/-- A look-ahead of one entry and of seven, for plans that begin with code 0, READ_SLOT and RAIL_SAMPLE; the entries that end
it: of another slot, ALONE, FIRST, MIDDLE and LAST. -/
theorem test_met_ActionEntryReadEnds_lookAhead :
    (∀ code ∈ [(0 : BitVec 8), 10, 11], ∀ n ∈ [0, 6],
      let first := planEntry 0 code; let mids := (List.range n).map fun k => planEntry (k + 1) 10
      let s := working (.lookAhead ref0 0 (first :: mids)) (bench online)
      s.ri.work = .lookAhead ref0 0 (first :: mids) ∧ s.ri.inFlight = [] ∧ (s.slot 0).policy ≠ none
        ∧ (s.slot 0).ad.occupant = .none ∧ first.code = code ∧ first.argA = 0 ∧ first.argB = 0
        ∧ (mids.length + 1 < 7 ↔ n = 0)
        ∧ (first :: (mids ++ [planEntry (n + 1) 11])).Pairwise fun x y => x.index ≠ y.index)
      ∧ (Fin.ofNat 8 0xB1 : Slot) ≠ 0
      ∧ ∀ c ∈ [0x80, 0x90, 0xA0, 0xB0], (BitVec.ofNat 8 c).toNat / 16 % 4 = (c - 0x80) / 16
        ∧ (Fin.ofNat 8 (BitVec.ofNat 8 c).toNat : Slot) = 0 := by
  decide +kernel

/-- A plan of two entries, the second with code 0, READ_SLOT and RAIL_SAMPLE. -/
theorem test_met_ActionEntryReadEnds_plan :
    ∀ code ∈ [(0 : BitVec 8), 10, 11], let second := planEntry 1 code
      [] ++ [second] = second :: [] ∧ second.code = code ∧ second.argA = 0 ∧ second.argB = 0 := by decide

theorem test_met_RingReadErrorsHalt :
    (working (.action ref0) State.reset).ri.work = .action ref0
      ∧ (working (.incident ref0) State.reset).ri.work = .incident ref0
      ∧ (working (.lookAhead ref0 0 [planEntry 0 1]) State.reset).ri.work = .lookAhead ref0 0 (planEntry 0 1 :: [])
      ∧ (List.replicate 31 (0 : Byte)).length < 32 ∧ (State.reset.tb.counter - ref0.deadline).toNat < 2 ^ 31 := by decide

/-- One incident queued, and two, with no scan owed and with one; an entry of the part and one of software. -/
theorem test_met_IncidentEntryReadEnds :
    (let s := working (.incident ref0) (State.reset.raise 0 .linkDown); s.summaryInLine ∧ s.ri.work = .incident ref0
      ∧ s.ri.cb = some block ∧ s.ri.state = .running ∧ s.ri.scanRequested = false ∧ (owing s).ri.scanRequested = true
      ∧ s.iq.length = 1 ∧ (s.raise 1 .linkDown).iq.length = 2)
      ∧ (List.replicate 32 (0x80 : Byte)).length = 32
      ∧ ((List.replicate 32 (0x80 : Byte)).getD 1 0).getLsbD 7 = true
      ∧ ((List.replicate 32 (0x7F : Byte)).getD 1 0).getLsbD 7 = false :=
  ⟨⟨rfl, by decide⟩, by decide, by decide, by decide⟩

/-- A scan that ends at an entry of software begins the one that is owed. -/
theorem test_owed_scan :
    let t := after (.incidentEntryReadDone 0 (.data (List.replicate 32 0))) (owing (working (.incident ref0) State.reset))
    t.ri.scanRequested = false ∧ t.ri.scanTimer = some 100 ∧ t.out = [.hostRead .ringInterface 0 0x1000 32] := by decide

/-- The scan timer at 0, idle and during a scan; at 1; stopped. -/
theorem test_met_ScanTimerBeginsAScan :
    (let r := { (running State.reset).ri with scanTimer := some 0 };
      r.state = .running ∧ r.scanTimer = some 0 ∧ r.work = .idle ∧ r.cb = some block)
      ∧ (working (.action ref0) State.reset).ri.work.scanning = true
      ∧ State.reset.ri.state ≠ .running ∧ (some 1 : Option Nat) ≠ some 0 := by decide

def fourOf (s : State) : State := (((s.raise 0 .linkDown).raise 0 .linkDown).raise 1 .cardFatal).raise 0 .presenceOn |>.raise 0
  .contained |>.raise 2 .linkDown

/-- The newest of slot 0 stands between incidents of other slots. -/
theorem test_met_FifthIncidentMergesIntoTheNewest :
    let q := (fourOf State.reset).iq
    ∃ before x after, q = before ++ x :: after ∧ x.slot = 0 ∧ (∀ y ∈ after, y.slot ≠ 0) ∧ 4 ≤ queuedFor 0 q ∧ after ≠ [] :=
  ⟨(fourOf State.reset).iq.take 4, State.reset.incident 0 .contained 0 0 0, (fourOf State.reset).iq.drop 5, by decide⟩

theorem test_fifth_incident_merges :
    (((fourOf State.reset).raise 0 .retired).iq.map fun x => (x.mergedCount, x.merged)) =
      [(0, 0), (0, 0), (0, 0), (0, 0), (1, 0x8000), (0, 0)] := by decide

/-- The reset state with a command waiting. -/
def waiting : State := { State.reset with pending := [.init] }

theorem waiting_sequencesSound : waiting.sequencesSound := by
  refine ⟨fun i => ?_, by decide, by decide⟩
  fin_cases i <;> exact ⟨⟨rfl, rfl, rfl⟩, rfl⟩

theorem test_met_StepsEndInLine :
    waiting.summaryInLine ∧ waiting.plansSettled ∧ ∃ t, step waiting = .next t ∧ t.ri.state = .initializing := by
  refine ⟨rfl, ?_, _, rfl, rfl⟩
  unfold State.plansSettled SlotRec.planSettled
  decide

theorem waiting_signalLaw : waiting.signalLaw := by
  refine ⟨by decide, fun l hl i => ?_⟩
  have : l = [] := List.prefix_nil.1 hl
  subst this
  simp [levelAfter, Signal.atReset]

theorem test_met_StepsKeepOutputsAndStatesInAgreement :
    waiting.sequencesSound ∧ waiting.signalLaw ∧ ∃ t, step waiting = .next t :=
  ⟨waiting_sequencesSound, waiting_signalLaw, _, rfl⟩

theorem waiting_tagsBelong : waiting.tagsBelong := by
  intro i k
  have : ∀ i k, (waiting.slot i).tt.entry k = .free := by decide
  rw [this]
  trivial

theorem test_met_StepsKeepTrafficWithTheStates :
    waiting.sequencesSound ∧ waiting.tagsBelong ∧ waiting.trafficSound ∧ waiting.heldRequestsWait
      ∧ ∃ t, step waiting = .next t := by
  refine ⟨waiting_sequencesSound, waiting_tagsBelong, ?_, ?_, _, rfl⟩
  · unfold State.trafficSound
    decide
  · unfold State.heldRequestsWait
    decide

theorem test_met_StepsKeepTheRecordsWithinBounds :
    waiting.incidentsBounded ∧ waiting.scoresBounded ∧ waiting.classesFollow ∧ waiting.tagsBelong
      ∧ waiting.policiesSound ∧ waiting.attemptsBounded ∧ waiting.watchFollows ∧ ∃ t, step waiting = .next t := by
  refine ⟨?_, ?_, ?_, waiting_tagsBelong, sound_of (by decide) (by decide), ?_, ?_, _, rfl⟩
  · unfold State.incidentsBounded
    decide
  · unfold State.scoresBounded
    decide
  · unfold State.classesFollow
    decide
  · intro i
    fin_cases i <;> rfl
  · intro i
    fin_cases i <;> rfl

/-- Two LIVE entries, tags 0 and 1, at the limit of 2, with this request held. -/
def waitingForATag (r : SlotRec) : SlotRec :=
  let q := withEntry (withEntry r 0 (.live entry2)) 1 (.live entry2)
  { withPol q fun p => { p with probLimit := 2 } with tt := { q.tt with hold := [⟨read2, 9⟩] } }

/-- A final completion frees tag 0; an expiry leaves tag 2 the lowest FREE one; an expiry that fences, in ONLINE at the fence
threshold and in PROBATION at the probation threshold. -/
theorem test_met_PromotionTakesTheOldestHeldRequest :
    (let s := bench (waitingForATag online); let r := s.slot 0
      s.summaryInLine ∧ s.watchFollows ∧ r.planSettled ∧ r.cs.state.tracks = true ∧ r.hm.watched = false
        ∧ r.tt.hold = ⟨read2, 9⟩ :: [] ∧ r.tt.entry 0 = .live entry2 ∧ r.tt.liveHost = 2 ∧ r.pol.outLimit = 2
        ∧ (∀ m : Tag, m < 0 → m ≠ 0 ∧ r.tt.entry m ≠ .free) ∧ (s.tb.counter - entry2.deadline).toNat < 2 ^ 31 ∧ r.calm 8
        ∧ r.tt.entry 2 = .free ∧ ∀ m : Tag, m < 2 → r.tt.entry m ≠ .free)
      ∧ (let s := bench (waitingForATag { withHm online 79 with hm := { (withHm online 79).hm with watched := true } })
        let r := s.slot 0
        s.watchFollows ∧ r.tt.liveHost = r.pol.probLimit ∧ r.pol.autoContain = true ∧ r.pol.drain ≠ 0
          ∧ r.hm.score < r.pol.fenceT ∧ r.pol.fenceT ≤ r.hm.score + 8)
      ∧ let s := bench (waitingForATag (withHm probation 12)); let r := s.slot 0
        s.watchFollows ∧ r.tt.liveHost = r.pol.probLimit ∧ r.cs.state = .probation ∧ r.hm.score < r.pol.probT
          ∧ r.pol.probT ≤ r.hm.score + 8 := by
  refine ⟨⟨rfl, fun i => ?_, fun _ => rfl, by decide, by decide, by decide, by decide, by decide, by decide, by decide,
    by decide, calm_of _ rfl (by decide), by decide⟩, ⟨fun i => ?_, by decide⟩, ⟨fun i => ?_, by decide⟩⟩ <;>
    fin_cases i <;> rfl

end Sys2Proof.Tests
end

section
/-! PROOFS. The scope of the part: the values after power-on reset, and what a tick steps and leaves unchanged. -/

namespace Sys2Proof.Machine

open Sys2Proof

/-! ## Power-on reset (R177) -/

@[simp] theorem State.powerOnReset_slot (s : State) (i : Slot) : s.powerOnReset.slot i = SlotRec.reset := by
  simp [State.powerOnReset, State.reset, State.slot, get_eq]

@[simp] theorem SlotRec.reset_entry (k : Tag) : SlotRec.reset.tt.entry k = .free := by
  simp [SlotRec.reset, TtRec.entry, get_eq]

@[simp] theorem State.powerOnReset_req (s : State) (i : Slot) :
    s.powerOnReset.rm.req i = { state := .none, bleed := false, sample := false } := by
  simp [State.powerOnReset, State.reset, RmRec.req, get_eq]

/-- Settles O4: every record is read off `State.reset`; the vectors by index. -/
theorem powerOnResetValues : Obligations.PowerOnResetValues := by
  intro s
  refine ⟨s.powerOnReset, rfl, fun i => ?_, rfl, rfl, rfl, rfl, rfl, rfl, rfl, rfl, rfl, rfl, rfl, rfl, rfl, rfl⟩
  rw [State.powerOnReset_slot, State.powerOnReset_req]
  exact ⟨rfl, SlotRec.reset_entry, rfl, rfl, rfl, rfl, rfl, rfl, rfl, rfl, rfl⟩

/-! ## The summary at the end of an event (R175) -/

/-- The summary is the only field of RI's record that the end of an event sets. -/
@[simp] theorem State.align_ri (s : State) : s.align.ri = { s.ri with summary := s.ri.summaryNow } := by
  unfold State.align
  dsimp only
  split
  · split
    · split <;> rfl
    · rfl
  · rfl

theorem State.align_summaryInLine (s : State) : s.align.summaryInLine := by
  unfold State.summaryInLine
  rw [State.align_ri]
  rfl

/-- With the summary in line, the end of an event finds nothing to do: no interrupt message is sent. -/
theorem State.align_of_summaryInLine {s : State} (h : s.summaryInLine) : s.align = s := by
  have hnow : s.ri.summaryNow = s.ri.summary := h.symm
  simp [State.align, hnow]

/-- The summary stays in line where the causes, the Control Block copy and the summary are unchanged. -/
theorem State.summaryInLine_of_same {s t : State} (h : s.summaryInLine) (hc : t.ri.causes = s.ri.causes)
    (hb : t.ri.cb = s.ri.cb) (hs : t.ri.summary = s.ri.summary) : t.summaryInLine := by
  unfold State.summaryInLine RiRec.summaryNow RiRec.enables at *
  rw [hc, hb, hs]
  exact h

theorem State.summaryInLine_of_ri {s t : State} (h : s.summaryInLine) (hri : t.ri = s.ri) : t.summaryInLine :=
  State.summaryInLine_of_same h (by rw [hri]) (by rw [hri]) (by rw [hri])

/-! ## The orders of the slots (log 8) -/

theorem nodup_eraseDups {α : Type} [DecidableEq α] (l : List α) : l.eraseDups.Nodup := by
  induction h : l.length using Nat.strong_induction_on generalizing l with
  | _ n ih =>
    cases l with
    | nil => simp
    | cons a l =>
      rw [List.eraseDups_cons, List.nodup_cons]
      refine ⟨by simp, ih _ ?_ _ rfl⟩
      rw [← h]
      exact Nat.lt_succ_of_le (List.length_filter_le _ _)

theorem mem_slotOrder (o : List Slot) (i : Slot) : i ∈ slotOrder o := by
  have hall : ∀ j : Slot, j ∈ allSlots := by decide
  simp [slotOrder, hall, Classical.em]

theorem nodup_slotOrder (o : List Slot) : (slotOrder o).Nodup := by
  have hall : allSlots.Nodup := by decide
  refine List.Nodup.append (nodup_eraseDups o) (hall.filter _) fun i hi hj => ?_
  simp only [List.mem_eraseDups, List.mem_filter] at hi hj
  simp [hi] at hj

/-! ## Power-good samples that accept nothing (R135, R140) -/

/-- The record after a power-good sample that accepts nothing: the raw level is remembered. -/
def SlotRec.noteGood (r : SlotRec) (raw : Bool) : SlotRec := { r with sense := { r.sense with pgPrev := raw } }

/-- The level of slot `i` at this tick is not accepted. -/
def State.goodQuiet (s : State) (p : TickPins) (i : Slot) : Prop :=
  accepts (p.powerGood.getLsbD i.val) (s.slot i).sense.pgPrev (s.slot i).sense.pgAcc = false

theorem State.powerGoodSample_of_goodQuiet {s : State} {p : TickPins} {i : Slot} (h : s.goodQuiet p i) :
    s.powerGoodSample p i = s.modSlot i fun r => r.noteGood (p.powerGood.getLsbD i.val) := by
  unfold State.goodQuiet at h
  simp only [State.powerGoodSample, State.modSense, h, Bool.false_eq_true, if_false]
  rfl

/-- The samples of a list of slots that accept nothing: each of these slots remembers its raw level, once, and nothing
else changes. -/
theorem State.powerGoodSamples_of_goodQuiet (p : TickPins) (l : List Slot) :
    ∀ s : State, l.Nodup → (∀ i ∈ l, s.goodQuiet p i) →
      let t := l.foldl (fun u i => u.powerGoodSample p i) s
      t = { s with slots := t.slots }
        ∧ (∀ i ∈ l, t.slot i = (s.slot i).noteGood (p.powerGood.getLsbD i.val)) ∧ ∀ i ∉ l, t.slot i = s.slot i := by
  induction l with
  | nil => exact fun s _ _ => ⟨rfl, by simp, fun _ _ => rfl⟩
  | cons j l ih =>
    intro s hnd hq
    obtain ⟨hj, hl⟩ := List.nodup_cons.1 hnd
    have hother : ∀ i, i ≠ j → (s.powerGoodSample p j).slot i = s.slot i :=
      (s.powerGoodSample_within p j).1.others
    have hsample := State.powerGoodSample_of_goodQuiet (hq j List.mem_cons_self)
    have hq' : ∀ i ∈ l, (s.powerGoodSample p j).goodQuiet p i := by
      intro i hi
      unfold State.goodQuiet
      rw [hother i fun e => hj (e ▸ hi)]
      exact hq i (List.mem_cons_of_mem _ hi)
    obtain ⟨hframe, hin, hout⟩ := ih (s.powerGoodSample p j) hl hq'
    refine ⟨?_, fun i hi => ?_, fun i hi => ?_⟩
    · rw [List.foldl_cons, hframe, hsample]
      rfl
    · rw [List.foldl_cons]
      rcases List.mem_cons.1 hi with rfl | hi
      · rw [hout i hj, hsample, State.modSlot_slot_self]
      · rw [hin i hi, hother i fun e => hj (e ▸ hi)]
    · obtain ⟨hij, hil⟩ : i ≠ j ∧ i ∉ l := by simpa using hi
      rw [List.foldl_cons, hout i hil, hother i hij]

/-- All the power-good samples of a tick, when none of them accepts a level. -/
theorem State.tickSamples_of_goodQuiet {s : State} {p : TickPins} (h : ∀ i, s.goodQuiet p i) :
    let t := (slotOrder p.order).foldl (fun u i => u.powerGoodSample p i) s
    t = { s with slots := t.slots } ∧ ∀ i, t.slot i = (s.slot i).noteGood (p.powerGood.getLsbD i.val) := by
  obtain ⟨hframe, hin, _⟩ := State.powerGoodSamples_of_goodQuiet p _ s (nodup_slotOrder p.order) fun i _ => h i
  exact ⟨hframe, fun i => hin i (mem_slotOrder _ i)⟩

/-- The levels are the ones seen at the tick before, and none of them is accepted. -/
def State.goodSteady (s : State) (p : TickPins) : Prop :=
  ∀ i : Slot, p.powerGood.getLsbD i.val = (s.slot i).sense.pgPrev ∧ s.goodQuiet p i

/-- Samples that bring no new level change nothing at all. -/
theorem State.tickSamples_of_goodSteady {s : State} {p : TickPins} (h : s.goodSteady p) :
    (slotOrder p.order).foldl (fun u i => u.powerGoodSample p i) s = s := by
  obtain ⟨hframe, hslot⟩ := State.tickSamples_of_goodQuiet fun i => (h i).2
  have hslots : ((slotOrder p.order).foldl (fun u i => u.powerGoodSample p i) s).slots = s.slots :=
    Vector.ext fun n hn => by
      have := hslot ⟨n, hn⟩
      rw [(h ⟨n, hn⟩).1] at this
      exact this
  rw [hframe, hslots]

/-! ## The step of the counters (R1) -/

@[simp] theorem State.count_slot (s : State) (i : Slot) : s.count.slot i = (s.slot i).tick := get_mapVec _ _ _

theorem State.count_goodQuiet {s : State} {p : TickPins} {i : Slot} (h : s.goodQuiet p i) : s.count.goodQuiet p i := by
  unfold State.goodQuiet
  rw [State.count_slot]
  exact h

theorem State.count_summaryInLine {s : State} (h : s.summaryInLine) : s.count.summaryInLine :=
  State.summaryInLine_of_same h rfl rfl rfl

/-- The sequencing record after the step, outside RAMP and in it (R69, R74, R75). -/
theorem PruRec.tick_eq (p : PruRec) (m : Nat) :
    p.tick m =
      { p with
        rampDue := p.rampDue || decide (p.phase = .ramp ∧ m ≤ min 65535 (p.rampCount + 1))
        timer := p.timer.map fun n => n - 1
        rampCount := if p.phase = .ramp then min 65535 (p.rampCount + 1) else p.rampCount } := by
  unfold PruRec.tick
  by_cases h : p.phase = .ramp
  · simp [h]
  · simp [h]

/-- A tick with no event ahead of the samples, none of which accepts a level. -/
theorem State.tick_of_goodQuiet {s : State} {p : TickPins} (hs : s.summaryInLine) (h : ∀ i, s.goodQuiet p i) :
    s.tick p [] = { s.count with slots := (s.tick p []).slots }
      ∧ ∀ i, (s.tick p []).slot i = (s.slot i).tick.noteGood (p.powerGood.getLsbD i.val) := by
  obtain ⟨hframe, hslot⟩ := State.tickSamples_of_goodQuiet fun i => State.count_goodQuiet (h i)
  have hline : ((slotOrder p.order).foldl (fun u i => u.powerGoodSample p i) s.count).summaryInLine :=
    State.summaryInLine_of_ri (State.count_summaryInLine hs) (by rw [hframe])
  have htick : s.tick p [] = (slotOrder p.order).foldl (fun u i => u.powerGoodSample p i) s.count :=
    State.align_of_summaryInLine hline
  rw [htick]
  exact ⟨hframe, fun i => by rw [hslot, State.count_slot]⟩

/-! ## What the early events leave alone: the power-good levels (R140) -/

/-- From `s` to `t` the accepted and the previous power-good level of every slot stand. -/
def SameGood (s t : State) : Prop :=
  ∀ i, (t.slot i).sense.pgPrev = (s.slot i).sense.pgPrev ∧ (t.slot i).sense.pgAcc = (s.slot i).sense.pgAcc

theorem SameGood.refl (s : State) : SameGood s s := fun _ => ⟨rfl, rfl⟩

theorem SameGood.trans {s t u : State} (h : SameGood s t) (k : SameGood t u) : SameGood s u :=
  fun i => ⟨(k i).1.trans (h i).1, (k i).2.trans (h i).2⟩

theorem SameGood.of_slots {s t : State} (h : t.slots = s.slots) : SameGood s t := by
  intro i
  simp [State.slot, h]

theorem Only.sameGood {i : Slot} {s t : State} (h : Only i s t) : SameGood s t := by
  intro j
  by_cases hj : j = i
  · subst hj
    rw [h.sense]
    exact ⟨rfl, rfl⟩
  · rw [h.others j hj]
    exact ⟨rfl, rfl⟩

theorem SameGood.align {s t : State} (h : SameGood s t) : SameGood s t.align :=
  h.trans (t.align_only 0).sameGood

theorem SameGood.close {s t : State} (h : SameGood s t) (i : Slot) : SameGood s (t.close i) :=
  h.trans (t.close_only i).sameGood

/-- An update of the sense record that keeps its two power-good levels. -/
theorem SameGood.modSense (s : State) (i : Slot) (f : SenseRec → SenseRec)
    (hp : (f (s.slot i).sense).pgPrev = (s.slot i).sense.pgPrev)
    (ha : (f (s.slot i).sense).pgAcc = (s.slot i).sense.pgAcc) : SameGood s (s.modSense i f) := by
  intro j
  by_cases hj : j = i
  · subst hj
    simpa [State.modSense] using ⟨hp, ha⟩
  · rw [State.modSense, State.modSlot_slot_ne _ _ _ _ hj]
    exact ⟨rfl, rfl⟩

theorem State.presenceSample_sameGood (s : State) (i : Slot) (raw : Bool) : SameGood s (s.presenceSample i raw) := by
  unfold State.presenceSample
  dsimp only
  split
  · split
    · exact (SameGood.modSense _ _ _ rfl rfl).trans (State.presenceGained_only _ _).sameGood
    · exact (SameGood.modSense _ _ _ rfl rfl).trans (State.presenceLost_only _ _).sameGood
  · exact SameGood.modSense _ _ _ rfl rfl

theorem State.pressSample_sameGood (s : State) (i : Slot) : SameGood s (s.pressSample i) := by
  unfold State.pressSample
  dsimp only
  split
  · exact (SameGood.modSense _ _ _ rfl rfl).trans (State.longPress_only _ _ _).sameGood
  · exact SameGood.modSense _ _ _ rfl rfl

theorem State.released_sameGood (s : State) (i : Slot) : SameGood s (s.released i) := by
  unfold State.released
  dsimp only
  split
  · exact SameGood.modSense _ _ _ rfl rfl
  · exact (SameGood.modSense _ _ _ rfl rfl).trans (State.shortPress_only _ _ _).sameGood

theorem State.attentionSample_sameGood (s : State) (i : Slot) (raw : Bool) : SameGood s (s.attentionSample i raw) := by
  unfold State.attentionSample
  dsimp only
  split
  · split
    · exact (s.pressSample_sameGood i).trans (State.released_sameGood _ _)
    · exact (s.pressSample_sameGood i).trans (SameGood.modSense _ _ _ rfl rfl)
  · split <;> exact SameGood.modSense _ _ _ rfl rfl

theorem State.slotSamples_sameGood (s : State) (p : SensePins) (i : Slot) : SameGood s (s.slotSamples p i) := by
  unfold State.slotSamples
  dsimp only
  split
  · exact (s.attentionSample_sameGood i _).trans ((State.settle_only _ _).sameGood.trans
      ((State.presenceSample_sameGood _ _ _).trans (State.settle_only _ _).sameGood))
  · exact (s.presenceSample_sameGood i _).trans ((State.settle_only _ _).sameGood.trans
      ((State.attentionSample_sameGood _ _ _).trans (State.settle_only _ _).sameGood))

/-- Steps that each keep the power-good levels keep them together. -/
theorem SameGood.foldl {α : Type} {f : State → α → State} (h : ∀ t a, SameGood t (f t a)) (l : List α) (s : State) :
    SameGood s (l.foldl f s) := by
  induction l generalizing s with
  | nil => exact SameGood.refl s
  | cons a l ih => exact (h s a).trans (ih _)

theorem State.senseSample_sameGood (s : State) (p : SensePins) : SameGood s (s.senseSample p) := by
  unfold State.senseSample
  split
  · have hsamples := SameGood.foldl (fun t i => State.slotSamples_sameGood t p i) (slotOrder p.order) s
    exact hsamples.trans (SameGood.of_slots rfl)
  · exact SameGood.refl s

theorem State.measuringEnds_sameGood (s : State) (v : Int) : SameGood s (s.measuringEnds v) := by
  cases hi : s.rm.inService with
  | some i => exact (s.measuringEnds_only v i hi).sameGood
  | none =>
    simp only [State.measuringEnds, hi]
    exact SameGood.refl s

/-! ## The reads of the engine and of the interface that are late (R103, R169) -/

/-- With no current operation no read of the engine is late. -/
theorem State.shadowReadLate_none {s : State} (h : s.se.current = none) : s.shadowReadLate = s := by
  simp [State.shadowReadLate, h]

theorem State.shadowReadLate_sameGood (s : State) :
    SameGood s (s.shadowReadLate.closeEngine s.se.current) := by
  cases h : s.se.current with
  | some op => exact (s.shadowReadLate_only op h).sameGood.close op.slot
  | none =>
    rw [State.shadowReadLate_none h]
    exact SameGood.refl s

theorem State.readPolicy_slots (s : State) (i : Slot) (b : BitVec 8) : (s.readPolicy i b).slots = s.slots := by
  unfold State.readPolicy
  split <;> rfl

theorem State.nextPolicy_slots (s : State) (i : Slot) (b : BitVec 8) : (s.nextPolicy i b).slots = s.slots := by
  unfold State.nextPolicy
  split
  · rfl
  · exact State.readPolicy_slots _ _ _

/-- A read of RI that ends at its deadline touches no slot: a policy record that was not read is a rejection. -/
theorem State.riReadLate_slots (s : State) : s.riReadLate.slots = s.slots := by
  unfold State.riReadLate
  split
  · rfl
  · split
    · split
      · rfl
      · exact State.nextPolicy_slots _ _ _
      · rfl
      · rfl
      · rfl
      · rfl
    · rfl

/-! ## Scans (R170) -/

/-- The beginning of a scan sets RI's scan timer and its work, and issues a read. -/
theorem State.beginScan_frame (s : State) :
    s.beginScan.slots = s.slots ∧ s.beginScan.ri.causes = s.ri.causes ∧ s.beginScan.ri.cb = s.ri.cb
      ∧ s.beginScan.ri.summary = s.ri.summary := by
  unfold State.beginScan
  split
  · unfold State.examine
    split <;> exact ⟨rfl, rfl, rfl, rfl⟩
  · exact ⟨rfl, rfl, rfl, rfl⟩

theorem State.scanTimerEnds_frame (s : State) :
    s.scanTimerEnds.slots = s.slots ∧ s.scanTimerEnds.ri.causes = s.ri.causes ∧ s.scanTimerEnds.ri.cb = s.ri.cb
      ∧ s.scanTimerEnds.ri.summary = s.ri.summary := by
  unfold State.scanTimerEnds
  split
  · unfold State.askScan
    split
    · exact ⟨rfl, rfl, rfl, rfl⟩
    · exact State.beginScan_frame _
  · exact ⟨rfl, rfl, rfl, rfl⟩

/-! ## The events that leave the interface alone -/

theorem State.heldExpiry_ri (s : State) (i : Slot) (q : Requester) : (s.heldExpiry i q).ri = s.ri := by
  unfold State.heldExpiry
  split
  · split <;> rfl
  · rfl

theorem State.settleTimer_ri (s : State) (i : Slot) : (s.settleTimer i).ri = s.ri := by
  unfold State.settleTimer State.reconnect
  dsimp only
  split
  · split <;> rfl
  · rfl

theorem State.reconnectTimer_ri (s : State) (i : Slot) : (s.reconnectTimer i).ri = s.ri := by
  unfold State.reconnectTimer
  split <;> rfl

theorem State.bleedTimer_ri (s : State) (i : Slot) : (s.bleedTimer i).ri = s.ri := by
  unfold State.bleedTimer
  split <;> rfl

theorem State.settlingEnds_ri (s : State) : s.settlingEnds.ri = s.ri := by
  unfold State.settlingEnds
  split
  · split <;> rfl
  · rfl

/-! ## The early events (log 7) -/

/-- An early event acts as its own row of the table does. -/
theorem exec_rowOf (e : DueEvent) (s : State) : exec (rowOf e) s = .next (s.due e) := by
  cases e <;> rfl

/-- No early event changes a power-good level: they are of the samples alone. -/
theorem State.due_sameGood (s : State) (e : DueEvent) : SameGood s (s.due e) := by
  cases e with
  | deadline i k f => exact (s.deadlineExpiry_only i k f).sameGood.close i
  | held i q => exact (s.heldExpiry_only i q).sameGood
  | drain i => exact (s.drainTimer_only i).sameGood.close i
  | quiet i => exact (s.quietCount_only i).sameGood.close i
  | isolate i => exact (s.isolateTimer_only i).sameGood.close i
  | assert i => exact (s.assertTimer_only i).sameGood.close i
  | rampSlow i => exact (s.rampCheck_only i).sameGood.close i
  | settle i => exact (s.settleTimer_only i).sameGood
  | reconnect i => exact (s.reconnectTimer_only i).sameGood
  | training i => exact (s.trainingTimer_only i).sameGood.close i
  | bleedWait i => exact (s.bleedTimer_only i).sameGood
  | settling => exact (s.settlingEnds_only 0).sameGood
  | measuring v => exact (s.measuringEnds_sameGood v).align
  | sense p => exact (s.senseSample_sameGood p).align
  | shadowRead => exact s.shadowReadLate_sameGood
  | loadPolicyRead i => exact (s.loadPolicyLate_only i).sameGood
  | riRead => exact (SameGood.of_slots s.riReadLate_slots).align
  | scanTimer => exact SameGood.of_slots s.scanTimerEnds_frame.1

theorem State.loadPolicyLate_summaryInLine {s : State} (h : s.summaryInLine) (i : Slot) :
    (s.loadPolicyLate i).summaryInLine := by
  unfold State.loadPolicyLate
  split
  · split
    · exact State.align_summaryInLine _
    · exact h
  · exact h

theorem State.shadowReadLate_summaryInLine {s : State} (h : s.summaryInLine) :
    (s.shadowReadLate.closeEngine s.se.current).summaryInLine := by
  cases hc : s.se.current with
  | some op => exact State.align_summaryInLine _
  | none =>
    rw [State.shadowReadLate_none hc]
    exact h

/-- Every early event ends with the summary in line: it brings it into line, or touches no cause. -/
theorem State.due_summaryInLine {s : State} (h : s.summaryInLine) (e : DueEvent) : (s.due e).summaryInLine := by
  cases e with
  | deadline i k f => exact State.align_summaryInLine _
  | held i q => exact State.summaryInLine_of_ri h (s.heldExpiry_ri i q)
  | drain i => exact State.align_summaryInLine _
  | quiet i => exact State.align_summaryInLine _
  | isolate i => exact State.align_summaryInLine _
  | assert i => exact State.align_summaryInLine _
  | rampSlow i => exact State.align_summaryInLine _
  | settle i => exact State.summaryInLine_of_ri h (s.settleTimer_ri i)
  | reconnect i => exact State.summaryInLine_of_ri h (s.reconnectTimer_ri i)
  | training i => exact State.align_summaryInLine _
  | bleedWait i => exact State.summaryInLine_of_ri h (s.bleedTimer_ri i)
  | settling => exact State.summaryInLine_of_ri h s.settlingEnds_ri
  | measuring v => exact State.align_summaryInLine _
  | sense p => exact State.align_summaryInLine _
  | shadowRead => exact State.shadowReadLate_summaryInLine h
  | loadPolicyRead i => exact State.loadPolicyLate_summaryInLine h i
  | riRead => exact State.align_summaryInLine _
  | scanTimer =>
    obtain ⟨_, hcauses, hcb, hsummary⟩ := s.scanTimerEnds_frame
    exact State.summaryInLine_of_same h hcauses hcb hsummary

theorem State.dues_summaryInLine {s : State} (h : s.summaryInLine) (l : List DueEvent) :
    (l.foldl State.due s).summaryInLine := by
  induction l generalizing s with
  | nil => exact h
  | cons e l ih => exact ih (State.due_summaryInLine h e)

theorem State.goodSteady_of_sameGood {s t : State} {p : TickPins} (h : s.goodSteady p) (k : SameGood s t) :
    t.goodSteady p := by
  intro i
  obtain ⟨hprev, hacc⟩ := k i
  obtain ⟨hraw, hquiet⟩ := h i
  unfold State.goodQuiet at *
  rw [hprev, hacc]
  exact ⟨hraw, hquiet⟩

theorem State.count_goodSteady {s : State} {p : TickPins} (h : s.goodSteady p) : s.count.goodSteady p :=
  State.goodSteady_of_sameGood h fun i => by rw [State.count_slot]; exact ⟨rfl, rfl⟩

/-- At a tick that brings no new level, only the step of the counters and the early events are left. -/
theorem State.tick_of_goodSteady {s : State} {p : TickPins} (hs : s.summaryInLine) (h : s.goodSteady p)
    (early : List DueEvent) : s.tick p early = early.foldl State.due s.count := by
  have hsteady : (early.foldl State.due s.count).goodSteady p :=
    State.goodSteady_of_sameGood (State.count_goodSteady h) (SameGood.foldl State.due_sameGood early s.count)
  unfold State.tick
  dsimp only
  rw [State.tickSamples_of_goodSteady hsteady]
  exact State.align_of_summaryInLine (State.dues_summaryInLine (State.count_summaryInLine hs) early)

/-- Settles O6: the samples of a tick that accept nothing only remember the raw levels, and the summary is in line already;
at a tick that brings no new level they change nothing, so that the tick is the fold of its early events. -/
theorem tickStepsTheCounters : Obligations.TickStepsTheCounters := by
  refine ⟨fun p s hs hq => ?_, fun p early e s hs hp => ?_⟩
  · obtain ⟨hframe, hslot⟩ := State.tick_of_goodQuiet hs hq
    refine ⟨s.tick p [], rfl, ?_⟩
    rw [hframe] at hslot ⊢
    refine ⟨rfl, rfl, rfl, rfl, rfl, rfl, rfl, rfl, rfl, fun i => ?_⟩
    rw [hslot i]
    exact ⟨rfl, rfl, rfl, rfl, rfl, rfl, rfl, PruRec.tick_eq _ _⟩
  · refine ⟨s.tick p early, s.tick p (early ++ [e]), rfl, ?_, rfl⟩
    rw [exec_rowOf, State.tick_of_goodSteady hs hp, State.tick_of_goodSteady hs hp, List.foldl_append]
    rfl

end Sys2Proof.Machine
end

section
/-! PROOFS. What the laws of the part read of a slot, and what an event can do to it, one thing at a time: `View` and `Change`. -/

namespace Sys2Proof.Machine

open Sys2Proof

/-! ## The view of a slot -/

/-- What the laws read of a slot: of its record the policy, the tags and the Hold Queue (the discard count is put aside), the
score and WATCHED, the state and the attempts, the class, the outputs and the phase; its bleed share; and how many
RESTOREs of it are in SE. -/
@[ext] structure View where
  policy : Option Policy
  tt : TtRec
  score : Nat
  watched : Bool
  state : SlotState
  attempts : Nat
  cls : DispClass
  isoOpen : Bool
  asserted : Bool
  power : Bool
  bleed : Bool
  phase : Phase
  share : Bool
  restores : Nat

def TtRec.tags (t : TtRec) : TtRec := { t with discard := 0 }

def SlotRec.view (r : SlotRec) (share : Bool) (restores : Nat) : View :=
  { policy := r.policy, tt := r.tt.tags, score := r.hm.score, watched := r.hm.watched, state := r.cs.state
    attempts := r.cs.attempts, cls := r.ctf.cls, isoOpen := r.pru.isoOpen, asserted := r.pru.asserted
    power := r.pru.power, bleed := r.pru.bleed, phase := r.pru.phase, share := share, restores := restores }

def State.view (s : State) (i : Slot) : View :=
  (s.slot i).view (s.rm.req i).bleed (s.se.ops.count ⟨.restore, i⟩)

/-- The record that a view stands for, as far as the laws read it. -/
def View.record (v : View) : SlotRec :=
  { policy := v.policy
    tt := v.tt
    hm := { score := v.score, watched := v.watched, alert := false, firstExpiry := false }
    cs := { SlotRec.reset.cs with state := v.state, attempts := v.attempts }
    pru := { SlotRec.reset.pru with
      isoOpen := v.isoOpen, asserted := v.asserted, power := v.power, bleed := v.bleed, phase := v.phase }
    ctf := { SlotRec.reset.ctf with cls := v.cls }
    sense := SlotRec.reset.sense
    ad := AdRec.free }

/-! ## What the operations do to a view -/

def View.enter (v : View) (st : SlotState) : View := { v with state := st, cls := st.cls }

/-- TT's work at a fence or a presence loss (R21, R23). -/
def View.cut (v : View) : View := { v with tt := v.tt.cutOff }

/-- A reset assertion (R22). -/
def View.freed (v : View) : View := { v with tt := v.tt.freeAll }

/-- The score and WATCHED cleared (R30). -/
def View.cleared (v : View) : View := { v with score := 0, watched := false }

/-- The slot's RESTORE is cancelled (R116). -/
def View.dropped (v : View) : View := { v with restores := 0 }

/-- The fence, before its drain (R21, R43). -/
def View.fenced (v : View) : View := (v.enter .fenced).cut.dropped

/-- ISOLATE begins (R71). -/
def View.resetting (v : View) : View := { v.enter .resetting with isoOpen := true, phase := .isolate }

/-- ASSERT begins (R72). -/
def View.assert (v : View) : View := { v.freed with asserted := true, phase := .assert }

/-- The entry to ISOLATED (R50). -/
def View.isolated (v : View) : View := { v.enter .isolated with phase := .idle }

/-- RECONNECT begins (R78). -/
def View.reconnect (v : View) : View := { v with isoOpen := false, phase := .reconnect }

/-- TRAINING begins (R78). -/
def View.train (v : View) : View := { v.enter .training with asserted := false, phase := .training }

/-- Power-off (R80). -/
def View.shut (v : View) : View :=
  { v.freed.enter .bleeding with
    isoOpen := true, asserted := true, power := false, bleed := true, phase := .bleedWait }

/-- RAMP begins (R74). -/
def View.up (v : View) : View := { v.enter .powering with bleed := false, power := true, phase := .ramp }

/-- The bleed is over: the record of a slot in OFF, and no bleed share (R81, R93). -/
def View.bled (v : View) : View := { v.enter .off with share := false, bleed := false, phase := .idle }

/-- The presence cut (R62, R87). -/
def View.lost (v : View) : View :=
  { v.freed.enter .empty with
    isoOpen := true, asserted := true, power := false, bleed := true, phase := .idle, share := false, restores := 0 }

/-- Host-port isolation (R66, R86). -/
def View.moved (v : View) : View :=
  { v.freed.enter .isolated with isoOpen := true, asserted := true, phase := .idle }

/-! ## The laws of a view -/

/-- Attempts are within the maximum (R46). -/
def attemptsWithin : Option Policy → Nat → Prop
  | some p, n => n ≤ p.maxAttempts ∧ 1 ≤ p.maxAttempts
  | none, n => n = 0

/-- No LIVE host entry and no held request. -/
def TtRec.quiet (t : TtRec) : Prop := (∀ k, k ≠ engineTag → (t.entry k).isLive = false) ∧ t.hold = []

/-- Outputs and phase agree with the state, a bleed share waits for a bleed check, SE has at most one RESTORE, and LIVE
host entries and held requests are in the states that track them. -/
structure View.sound (v : View) : Prop where
  agrees : v.record.phaseAgrees
  share : v.share = true → v.phase = .bleedCheck
  restores : v.restores ≤ 1
  restoring : 0 < v.restores → v.state = .restoring
  traffic : v.state.tracks = false → v.tt.quiet

/-- WATCHED is in line with the score (R31). -/
def View.watchOk (v : View) : Prop :=
  match v.policy with
  | some p => v.watched = decide (p.watchT ≤ v.score)
  | none => v.watched = false

/-- Without a policy WATCHED is clear. -/
def View.watchWeak (v : View) : Prop := v.policy = none → v.watched = false

def View.policySound (v : View) : Prop := ∀ p, v.policy = some p → p.sound

/-- Promotion has run to its end (R11). -/
def View.waits (v : View) : Prop := v.tt.hold ≠ [] → v.record.takeable = none

/-! ## The changes -/

/-- What an event can do to the view of a slot, one thing at a time, each with the condition under which it is done. -/
inductive Change : View → View → Prop
  | score (v : View) (n : Nat) (h : v.score ≤ 1023 → n ≤ 1023) : Change v { v with score := n }
  | watch (v : View) (b : Bool) (h : v.policy ≠ none) : Change v { v with watched := b }
  | clear (v : View) : Change v v.cleared
  | accept (v : View) (p : Policy) (h : p.sound) :
    Change v { v with policy := some p, attempts := min p.maxAttempts v.attempts }
  | attempts (v : View) (n : Nat) (h : attemptsWithin v.policy v.attempts → attemptsWithin v.policy n) :
    Change v { v with attempts := n }
  | entry (v : View) (k : Tag) (e : OrtEntry) (hb : (v.tt.entry k).belongs k → e.belongs k)
    (hl : e.isLive = true →
      (v.tt.entry k).isLive = true ∨ k = engineTag ∨ v.state.tracks = true ∨ v.tt.hold ≠ []) :
    Change v { v with tt := v.tt.setEntry k e }
  | hold (v : View) (l : List Held) (h : v.state.tracks = false → v.tt.hold = [] → l = []) :
    Change v { v with tt := { v.tt with hold := l } }
  | cut (v : View) : Change v v.cut
  | drop (v : View) (n : Nat) (h : n ≤ v.restores) : Change v { v with restores := n }
  | fence (v : View)
    (h : v.state = .online ∨ v.state = .held ∨ v.state = .probation ∨ v.state = .restoring) : Change v v.fenced
  | drain (v : View) (h : v.state = .fenced) : Change v v.resetting
  | assert (v : View) (h : v.phase = .isolate) : Change v v.assert
  | isolate (v : View) (h : v.phase = .assert) : Change v v.isolated
  | reconnect (v : View) (h : v.phase = .assert ∨ v.phase = .settle) : Change v v.reconnect
  | warm (v : View) (h : v.state = .isolated) : Change v (v.enter .resetting).reconnect
  | train (v : View) (h : v.phase = .reconnect) : Change v v.train
  | shut (v : View) (hs : v.state ≠ .bleeding ∨ v.phase ≠ .bleedCheck)
    (hr : v.state ≠ .restoring ∨ v.phase ≠ .idle) : Change v v.shut
  | fail (v : View) (hs : v.state ≠ .bleeding ∨ v.phase ≠ .bleedCheck ∨ 0 < v.restores) : Change v v.dropped.shut
  | up (v : View) (h : v.state = .off ∨ v.state = .retired) : Change v v.up
  | bled (v : View) (h : v.share = true) : Change v v.bled
  | recheck (v : View) (h : v.share = true) : Change v { v with share := false, phase := .bleedWait }
  | retire (v : View) (h : v.state = .off) : Change v (v.enter .retired)
  | settle (v : View) (h : v.phase = .ramp) : Change v { v with phase := .settle }
  | check (v : View) (h : v.phase = .bleedWait) : Change v { v with phase := .bleedCheck, share := true }
  | unshare (v : View) : Change v { v with share := false }
  | linked (v : View) (h : v.phase = .training) : Change v { v.enter .held with phase := .idle }
  | restore (v : View) (h : v.phase = .training) :
    Change v { v.enter .restoring with phase := .idle, restores := v.restores + 1 }
  | restored (v : View) (h : 0 < v.restores) (st : SlotState) (hst : st = .held ∨ st = .probation) :
    Change v { v.enter st with restores := v.restores - 1 }
  | trial (v : View) (h : v.state = .held) : Change v (v.enter .probation)
  | online (v : View) (h : v.state = .probation) : Change v (v.enter .online)
  | lose (v : View) : Change v v.lost
  | gain (v : View) (h : v.state = .empty) : Change v { v.enter .off with bleed := false }
  | move (v : View) (h : v.state.movedByReset = true) (h0 : v.restores = 0) : Change v v.moved

/-! ## Each change keeps the laws -/

theorem Change.score_le {v w : View} (h : Change v w) : v.score ≤ 1023 → w.score ≤ 1023 := by
  cases h with
  | score n h => exact h
  | clear => exact fun _ => Nat.zero_le _
  | _ => exact id

theorem Change.cls_eq {v w : View} (h : Change v w) : v.cls = v.state.cls → w.cls = w.state.cls := by
  cases h <;> first | exact id | exact fun _ => rfl

theorem OrtEntry.toStale_belongs {e : OrtEntry} {k : Tag} (h : e.belongs k) : e.toStale.belongs k := by
  cases e <;> exact h

theorem Change.belongs {v w : View} (h : Change v w) :
    (∀ k, (v.tt.entry k).belongs k) → ∀ k, (w.tt.entry k).belongs k := by
  have hfree : ∀ (t : TtRec) k, (t.freeAll.entry k).belongs k := by simp [OrtEntry.belongs]
  have hcut : ∀ t : TtRec, (∀ k, (t.entry k).belongs k) → ∀ k, (t.cutOff.entry k).belongs k := by
    intro t ht k
    rw [TtRec.cutOff_entry]
    exact OrtEntry.toStale_belongs (ht k)
  cases h with
  | entry k e hb hl =>
    intro hv l
    by_cases hk : l = k
    · subst hk
      simpa using hb (hv l)
    · simpa [TtRec.setEntry_ne _ _ _ _ hk] using hv l
  | cut => exact hcut _
  | fence _ => exact hcut _
  | assert _ => exact fun _ => hfree _
  | shut _ _ => exact fun _ => hfree _
  | fail _ => exact fun _ => hfree _
  | lose => exact fun _ => hfree _
  | move _ _ => exact fun _ => hfree _
  | _ => exact id

theorem Change.attempts_within {v w : View} (h : Change v w) :
    attemptsWithin v.policy v.attempts → attemptsWithin w.policy w.attempts := by
  cases h with
  | accept p h => exact fun _ => ⟨Nat.min_le_left _ _, h.1.1⟩
  | attempts n h => exact h
  | _ => exact id

theorem Change.policySound {v w : View} (h : Change v w) : v.policySound → w.policySound := by
  cases h with
  | accept p h =>
    intro _ q hq
    obtain rfl : p = q := by simpa using hq
    exact h
  | _ => exact id

theorem Change.watchWeak {v w : View} (h : Change v w) : v.watchWeak → w.watchWeak := by
  cases h with
  | watch b h => exact fun _ hn => absurd hn h
  | clear => exact fun _ _ => rfl
  | accept p h => exact fun _ hn => absurd hn (by simp)
  | _ => exact id

/-! ### Outputs, phases and traffic -/

theorem TtRec.cutOff_quiet (t : TtRec) : t.cutOff.quiet := by
  refine ⟨fun k _ => ?_, rfl⟩
  rw [TtRec.cutOff_entry]
  cases t.entry k <;> rfl

theorem TtRec.freeAll_quiet (t : TtRec) : t.freeAll.quiet := ⟨fun k _ => by rw [TtRec.freeAll_entry]; rfl, rfl⟩

section
variable {v : View} (hv : v.sound)
include hv

theorem View.sound.of_isolate (h : v.phase = .isolate) :
    v.state = .resetting ∧ v.power = true ∧ v.bleed = false ∧ v.isoOpen = true := by
  have ha := hv.agrees
  cases hst : v.state <;> simp_all [View.record, SlotRec.phaseAgrees]

theorem View.sound.of_assert (h : v.phase = .assert) :
    v.state = .resetting ∧ v.power = true ∧ v.bleed = false ∧ v.isoOpen = true ∧ v.asserted = true := by
  have ha := hv.agrees
  cases hst : v.state <;> simp_all [View.record, SlotRec.phaseAgrees]

theorem View.sound.of_ramp (h : v.phase = .ramp ∨ v.phase = .settle) :
    v.state = .powering ∧ v.power = true ∧ v.bleed = false ∧ v.isoOpen = true ∧ v.asserted = true := by
  have ha := hv.agrees
  rcases h with h | h <;> cases hst : v.state <;> simp_all [View.record, SlotRec.phaseAgrees]

theorem View.sound.of_reconnect (h : v.phase = .reconnect) :
    (v.state = .powering ∨ v.state = .resetting) ∧ v.power = true ∧ v.bleed = false ∧ v.isoOpen = false := by
  have ha := hv.agrees
  cases hst : v.state <;> simp_all [View.record, SlotRec.phaseAgrees]

theorem View.sound.of_training (h : v.phase = .training) : v.state = .training ∧ v.record.pru.up := by
  have ha := hv.agrees
  cases hst : v.state <;> simp_all [View.record, SlotRec.phaseAgrees]

theorem View.sound.of_bleed (h : v.phase = .bleedWait ∨ v.phase = .bleedCheck) :
    v.state = .bleeding ∧ v.record.pru.dark ∧ v.bleed = true := by
  have ha := hv.agrees
  rcases h with h | h <;> cases hst : v.state <;> simp_all [View.record, SlotRec.phaseAgrees, PruRec.dark]

theorem View.sound.of_up
    (h : v.state = .online ∨ v.state = .held ∨ v.state = .probation ∨ v.state = .restoring ∨ v.state = .fenced) :
    v.record.pru.up ∧ v.phase = .idle := by
  have ha := hv.agrees
  rcases h with h | h | h | h | h <;> simpa [View.record, SlotRec.phaseAgrees, h] using ha

theorem View.sound.of_dark (h : v.state = .off ∨ v.state = .retired) :
    v.record.pru.dark ∧ v.bleed = false ∧ v.phase = .idle := by
  have ha := hv.agrees
  rcases h with h | h <;> simpa [View.record, SlotRec.phaseAgrees, h] using ha

theorem View.sound.of_moved (h : v.state.movedByReset = true) : v.power = true ∧ v.bleed = false := by
  have ha := hv.agrees
  cases hst : v.state <;> simp_all [View.record, SlotRec.phaseAgrees, SlotState.movedByReset, PruRec.up]

/-- The bleed share waits only for a slot in BLEED_CHECK. -/
theorem View.sound.share_none (h : v.state ≠ .bleeding ∨ v.phase ≠ .bleedCheck) : v.share = false := by
  cases hs : v.share with
  | false => rfl
  | true =>
    have hp := hv.share hs
    have hb := (hv.of_bleed (Or.inr hp)).1
    rcases h with h | h
    · exact absurd hb h
    · exact absurd hp h

/-- SE has a RESTORE only of a slot in RESTORING, whose phase is IDLE. -/
theorem View.sound.restores_none (h : v.state ≠ .restoring ∨ v.phase ≠ .idle) : v.restores = 0 := by
  by_contra hn
  have hst := hv.restoring (Nat.pos_of_ne_zero hn)
  rcases h with h | h
  · exact h hst
  · exact h (hv.of_up (Or.inr (Or.inr (Or.inr (Or.inl hst))))).2

end

/-- A view is sound when its outputs agree, no bleed share and no RESTORE is left, and its tags are quiet where they must be. -/
theorem View.sound_of_plain {w : View} (ha : w.record.phaseAgrees) (hs : w.share = false) (hr : w.restores = 0)
    (ht : w.state.tracks = false → w.tt.quiet) : w.sound :=
  ⟨ha, fun h => by simp [hs] at h, by omega, fun h => by omega, ht⟩

/-- A change to the tags of a view that is sound. -/
theorem View.sound.withTags {v : View} (hv : v.sound) (t : TtRec) (h : v.state.tracks = false → t.quiet) :
    { v with tt := t }.sound :=
  ⟨hv.agrees, hv.share, hv.restores, hv.restoring, h⟩

theorem View.sound.entry {v : View} (hv : v.sound) (k : Tag) (e : OrtEntry)
    (hl : e.isLive = true →
      (v.tt.entry k).isLive = true ∨ k = engineTag ∨ v.state.tracks = true ∨ v.tt.hold ≠ []) :
    { v with tt := v.tt.setEntry k e }.sound := by
  refine hv.withTags _ fun ht => ⟨fun l hne => ?_, (hv.traffic ht).2⟩
  obtain ⟨hlive, hhold⟩ := hv.traffic ht
  by_cases hlk : l = k
  · subst hlk
    rw [TtRec.setEntry_self]
    by_contra hn
    rcases hl (by simpa using hn) with h | h | h | h
    · simp [hlive l hne] at h
    · exact hne h
    · simp [ht] at h
    · exact h hhold
  · rw [TtRec.setEntry_ne _ _ _ _ hlk]
    exact hlive l hne

theorem Change.sound {v w : View} (h : Change v w) (hv : v.sound) : w.sound := by
  cases h with
  | score n h => exact ⟨hv.agrees, hv.share, hv.restores, hv.restoring, hv.traffic⟩
  | watch b h => exact ⟨hv.agrees, hv.share, hv.restores, hv.restoring, hv.traffic⟩
  | clear => exact ⟨hv.agrees, hv.share, hv.restores, hv.restoring, hv.traffic⟩
  | accept p h => exact ⟨hv.agrees, hv.share, hv.restores, hv.restoring, hv.traffic⟩
  | attempts n h => exact ⟨hv.agrees, hv.share, hv.restores, hv.restoring, hv.traffic⟩
  | entry k e hb hl => exact hv.entry k e hl
  | hold l h => exact hv.withTags _ fun ht => ⟨(hv.traffic ht).1, h ht (hv.traffic ht).2⟩
  | cut => exact hv.withTags _ fun _ => TtRec.cutOff_quiet _
  | drop n h =>
    exact ⟨hv.agrees, hv.share, h.trans hv.restores, fun hn => hv.restoring (hn.trans_le h), hv.traffic⟩
  | fence h =>
    have hup := hv.of_up (by tauto)
    have hs := hv.share_none (Or.inr (by rw [hup.2]; decide))
    exact View.sound_of_plain hup hs rfl fun _ => TtRec.cutOff_quiet _
  | drain h =>
    obtain ⟨⟨hp, -, -, hb⟩, hi⟩ := hv.of_up (by tauto)
    have hs := hv.share_none (Or.inl (by rw [h]; decide))
    have hr := hv.restores_none (Or.inl (by rw [h]; decide))
    exact View.sound_of_plain ⟨hp, hb, Or.inl ⟨rfl, rfl⟩⟩ hs hr fun _ => hv.traffic (by rw [h]; rfl)
  | assert h =>
    obtain ⟨hst, hp, hb, hi⟩ := hv.of_isolate h
    have hs := hv.share_none (Or.inl (by rw [hst]; decide))
    have hr := hv.restores_none (Or.inl (by rw [hst]; decide))
    refine View.sound_of_plain ?_ hs hr fun _ => TtRec.freeAll_quiet _
    simpa [View.record, SlotRec.phaseAgrees, View.assert, View.freed, hst] using ⟨hp, hb, hi⟩
  | isolate h =>
    obtain ⟨hst, hp, hb, hi, has⟩ := hv.of_assert h
    have hs := hv.share_none (Or.inl (by rw [hst]; decide))
    have hr := hv.restores_none (Or.inl (by rw [hst]; decide))
    exact View.sound_of_plain ⟨hp, has, hi, hb, rfl⟩ hs hr fun _ => hv.traffic (by rw [hst]; rfl)
  | reconnect h =>
    rcases h with h | h
    · obtain ⟨hst, hp, hb, hi, has⟩ := hv.of_assert h
      have hs := hv.share_none (Or.inl (by rw [hst]; decide))
      have hr := hv.restores_none (Or.inl (by rw [hst]; decide))
      refine View.sound_of_plain ?_ hs hr hv.traffic
      simpa [View.record, SlotRec.phaseAgrees, View.reconnect, hst] using ⟨hp, hb, has⟩
    · obtain ⟨hst, hp, hb, hi, has⟩ := hv.of_ramp (Or.inr h)
      have hs := hv.share_none (Or.inl (by rw [hst]; decide))
      have hr := hv.restores_none (Or.inl (by rw [hst]; decide))
      refine View.sound_of_plain ?_ hs hr hv.traffic
      simpa [View.record, SlotRec.phaseAgrees, View.reconnect, hst] using ⟨hp, has, hb⟩
  | warm h =>
    have ha := hv.agrees
    simp only [SlotRec.phaseAgrees, View.record, h] at ha
    obtain ⟨hp, has, hi, hb, -⟩ := ha
    have hs := hv.share_none (Or.inl (by rw [h]; decide))
    have hr := hv.restores_none (Or.inl (by rw [h]; decide))
    exact View.sound_of_plain ⟨hp, hb, Or.inr (Or.inr ⟨rfl, has, rfl⟩)⟩ hs hr fun _ => hv.traffic (by rw [h]; rfl)
  | train h =>
    obtain ⟨hst, hp, hb, hi⟩ := hv.of_reconnect h
    have hs := hv.share_none (Or.inr (by rw [h]; decide))
    have hr := hv.restores_none (Or.inr (by rw [h]; decide))
    exact View.sound_of_plain ⟨⟨hp, rfl, hi, hb⟩, rfl⟩ hs hr fun _ => hv.traffic (by rcases hst with e | e <;> rw [e] <;> rfl)
  | shut hs hr =>
    exact View.sound_of_plain ⟨⟨rfl, rfl, rfl⟩, rfl, Or.inl rfl⟩ (hv.share_none hs) (hv.restores_none hr)
      fun _ => TtRec.freeAll_quiet _
  | fail hs =>
    have hs' : v.share = false := by
      rcases hs with h | h | h
      · exact hv.share_none (Or.inl h)
      · exact hv.share_none (Or.inr h)
      · exact hv.share_none (Or.inl (by rw [hv.restoring h]; decide))
    exact View.sound_of_plain ⟨⟨rfl, rfl, rfl⟩, rfl, Or.inl rfl⟩ hs' rfl fun _ => TtRec.freeAll_quiet _
  | up h =>
    obtain ⟨⟨hp, has, hi⟩, hb, -⟩ := hv.of_dark h
    have hs := hv.share_none (Or.inl (by rcases h with e | e <;> rw [e] <;> decide))
    have hr := hv.restores_none (Or.inl (by rcases h with e | e <;> rw [e] <;> decide))
    exact View.sound_of_plain ⟨rfl, has, rfl, Or.inl ⟨hi, Or.inl rfl⟩⟩ hs hr
      fun _ => hv.traffic (by rcases h with e | e <;> rw [e] <;> rfl)
  | bled h =>
    obtain ⟨hst, hd, hb⟩ := hv.of_bleed (Or.inr (hv.share h))
    have hr := hv.restores_none (Or.inl (by rw [hst]; decide))
    exact View.sound_of_plain ⟨hd, rfl, rfl⟩ rfl hr fun _ => hv.traffic (by rw [hst]; rfl)
  | recheck h =>
    obtain ⟨hst, hd, hb⟩ := hv.of_bleed (Or.inr (hv.share h))
    have hr := hv.restores_none (Or.inl (by rw [hst]; decide))
    refine View.sound_of_plain ?_ rfl hr hv.traffic
    simpa [View.record, SlotRec.phaseAgrees, hst] using ⟨hd, hb⟩
  | retire h =>
    have hd := hv.of_dark (Or.inl h)
    have hs := hv.share_none (Or.inl (by rw [h]; decide))
    have hr := hv.restores_none (Or.inl (by rw [h]; decide))
    exact View.sound_of_plain hd hs hr fun _ => hv.traffic (by rw [h]; rfl)
  | settle h =>
    obtain ⟨hst, hp, hb, hi, has⟩ := hv.of_ramp (Or.inl h)
    have hs := hv.share_none (Or.inl (by rw [hst]; decide))
    have hr := hv.restores_none (Or.inl (by rw [hst]; decide))
    refine View.sound_of_plain ?_ hs hr hv.traffic
    simpa [View.record, SlotRec.phaseAgrees, hst] using ⟨hp, has, hb, hi⟩
  | check h =>
    obtain ⟨hst, hd, hb⟩ := hv.of_bleed (Or.inl h)
    have ha : ({ v with phase := .bleedCheck, share := true } : View).record.phaseAgrees := by
      simpa [View.record, SlotRec.phaseAgrees, hst] using ⟨hd, hb⟩
    exact ⟨ha, fun _ => rfl, hv.restores, hv.restoring, hv.traffic⟩
  | unshare => exact ⟨hv.agrees, fun h => by simp at h, hv.restores, hv.restoring, hv.traffic⟩
  | linked h =>
    have hs := hv.share_none (Or.inr (by rw [h]; decide))
    have hr := hv.restores_none (Or.inr (by rw [h]; decide))
    exact View.sound_of_plain ⟨(hv.of_training h).2, rfl⟩ hs hr fun ht => by simp [View.enter, SlotState.tracks] at ht
  | restore h =>
    obtain ⟨hst, hup⟩ := hv.of_training h
    have hs := hv.share_none (Or.inr (by rw [h]; decide))
    have hr := hv.restores_none (Or.inr (by rw [h]; decide))
    exact ⟨⟨hup, rfl⟩, fun hn => by simp [View.enter, hs] at hn, by simp [hr], fun _ => rfl,
      fun _ => hv.traffic (by rw [hst]; rfl)⟩
  | restored h st hst =>
    have hup := hv.of_up (Or.inr (Or.inr (Or.inr (Or.inl (hv.restoring h)))))
    have hs := hv.share_none (Or.inr (by rw [hup.2]; decide))
    have hr := hv.restores
    rcases hst with rfl | rfl <;>
      exact View.sound_of_plain hup hs (by simp only; omega) fun ht => by simp [View.enter, SlotState.tracks] at ht
  | trial h =>
    have hup := hv.of_up (Or.inr (Or.inl h))
    have hs := hv.share_none (Or.inl (by rw [h]; decide))
    have hr := hv.restores_none (Or.inl (by rw [h]; decide))
    exact View.sound_of_plain hup hs hr fun ht => by simp [View.enter, SlotState.tracks] at ht
  | online h =>
    have hup := hv.of_up (Or.inr (Or.inr (Or.inl h)))
    have hs := hv.share_none (Or.inl (by rw [h]; decide))
    have hr := hv.restores_none (Or.inl (by rw [h]; decide))
    exact View.sound_of_plain hup hs hr fun ht => by simp [View.enter, SlotState.tracks] at ht
  | lose => exact View.sound_of_plain ⟨⟨rfl, rfl, rfl⟩, rfl⟩ rfl rfl fun _ => TtRec.freeAll_quiet _
  | gain h =>
    have ha := hv.agrees
    simp only [SlotRec.phaseAgrees, View.record, h] at ha
    have hs := hv.share_none (Or.inl (by rw [h]; decide))
    have hr := hv.restores_none (Or.inl (by rw [h]; decide))
    exact View.sound_of_plain ⟨ha.1, rfl, ha.2⟩ hs hr fun _ => hv.traffic (by rw [h]; rfl)
  | move h h0 =>
    obtain ⟨hp, hb⟩ := hv.of_moved h
    have hs := hv.share_none (Or.inl (by intro e; simp [e, SlotState.movedByReset] at h))
    exact View.sound_of_plain ⟨hp, rfl, rfl, hb, rfl⟩ hs h0 fun _ => TtRec.freeAll_quiet _

end Sys2Proof.Machine
end

section
/-! PROOFS. Paths of changes and what they keep, the views after an update of the state, and the operations of SE in the views. -/

namespace Sys2Proof.Machine

open Sys2Proof

/-! ## Moves -/

/-- Any number of changes. -/
def Path : View → View → Prop := Relation.ReflTransGen Change

/-- From `v` to `w` there is a path of changes, and the laws that hold between events, of WATCHED and of the held
requests, hold at its end if they held at its beginning. -/
structure Moves (v w : View) : Prop where
  path : Path v w
  watch : v.policySound → v.watchOk → w.watchOk
  waits : v.sound → (∀ k, (v.tt.entry k).belongs k) → v.waits → w.waits

/-- Each slot moves. -/
def Lawful (s t : State) : Prop := ∀ j, Moves (s.view j) (t.view j)

/-- In the middle of an event of slot `i`: the laws that hold between events are not asked of it. -/
structure Loose (i : Slot) (s t : State) : Prop where
  others : ∀ j, j ≠ i → Moves (s.view j) (t.view j)
  path : Path (s.view i) (t.view i)

/-- A law that every change keeps, a path keeps. -/
theorem Path.keeps {P : View → Prop} (hP : ∀ v w, Change v w → P v → P w) {v w : View} (h : Path v w) : P v → P w := by
  induction h with
  | refl => exact id
  | tail _ hc ih => exact fun hv => hP _ _ hc (ih hv)

theorem Path.sound {v w : View} (h : Path v w) : v.sound → w.sound := h.keeps fun _ _ => Change.sound
theorem Path.policySound {v w : View} (h : Path v w) : v.policySound → w.policySound :=
  h.keeps fun _ _ => Change.policySound
theorem Path.watchWeak {v w : View} (h : Path v w) : v.watchWeak → w.watchWeak := h.keeps fun _ _ => Change.watchWeak
theorem Path.belongs {v w : View} (h : Path v w) :
    (∀ k, (v.tt.entry k).belongs k) → ∀ k, (w.tt.entry k).belongs k :=
  h.keeps (P := fun v => ∀ k, (v.tt.entry k).belongs k) fun _ _ => Change.belongs

theorem Moves.refl (v : View) : Moves v v := ⟨.refl, fun _ => id, fun _ _ => id⟩

theorem Moves.of_eq {v w : View} (h : w = v) : Moves v w := h ▸ Moves.refl v

theorem Moves.trans {u v w : View} (h : Moves u v) (k : Moves v w) : Moves u w :=
  ⟨h.path.trans k.path, fun hp hu => k.watch (h.path.policySound hp) (h.watch hp hu),
    fun hs hb hu => k.waits (h.path.sound hs) (h.path.belongs hb) (h.waits hs hb hu)⟩

theorem Lawful.refl (s : State) : Lawful s s := fun _ => Moves.refl _

theorem Lawful.of_view {s t : State} (h : t.view = s.view) : Lawful s t := fun _ => Moves.of_eq (by rw [h])

theorem Lawful.trans {s t u : State} (h : Lawful s t) (k : Lawful t u) : Lawful s u := fun j => (h j).trans (k j)

theorem Lawful.foldl {α : Type} {f : State → α → State} (h : ∀ t a, Lawful t (f t a)) (l : List α) (s : State) :
    Lawful s (l.foldl f s) := by
  induction l generalizing s with
  | nil => exact Lawful.refl s
  | cons a l ih => exact (h s a).trans (ih _)

theorem Lawful.loose {s t : State} (i : Slot) (h : Lawful s t) : Loose i s t := ⟨fun j _ => h j, (h i).path⟩

theorem Loose.trans {i : Slot} {s t u : State} (h : Loose i s t) (k : Loose i t u) : Loose i s u :=
  ⟨fun j hj => (h.others j hj).trans (k.others j hj), h.path.trans k.path⟩

/-- An event of slot `i` is lawful once it has settled the two laws again. -/
theorem Loose.lawful {i : Slot} {s t : State} (h : Loose i s t)
    (hw : (s.view i).policySound → (s.view i).watchOk → (t.view i).watchOk)
    (hq : (s.view i).sound → (∀ k, ((s.view i).tt.entry k).belongs k) → (s.view i).waits → (t.view i).waits) :
    Lawful s t := by
  intro j
  by_cases hj : j = i
  · subst hj
    exact ⟨h.path, hw, hq⟩
  · exact h.others j hj

/-- Only the view of slot `i` has changed, and its change is a move. -/
theorem Lawful.update {s t : State} {i : Slot} {w : View} (h : t.view = Function.update s.view i w)
    (m : Moves (s.view i) w) : Lawful s t := by
  intro j
  rw [h]
  by_cases hj : j = i
  · subst hj
    simpa using m
  · rw [Function.update_of_ne hj]
    exact Moves.refl _

theorem Loose.update {s t : State} {i : Slot} {w : View} (h : t.view = Function.update s.view i w)
    (m : Path (s.view i) w) : Loose i s t := by
  refine ⟨fun j hj => ?_, ?_⟩
  · rw [h, Function.update_of_ne hj]
    exact Moves.refl _
  · rw [h, Function.update_self]
    exact m

/-- What decides whether a tag can be taken. -/
theorem SlotRec.takeable_congr {r q : SlotRec} (hp : r.policy = q.policy) (ht : r.tt.ort = q.tt.ort)
    (hw : r.hm.watched = q.hm.watched) (hs : r.cs.state = q.cs.state) : r.takeable = q.takeable := by
  unfold SlotRec.takeable SlotRec.limit SlotRec.pol TtRec.liveHost TtRec.freeTag TtRec.entry
  rw [hp, ht, hw, hs]

/-- In a state that tracks no requests nothing is held. -/
theorem View.sound.waits {v : View} (h : v.sound) (ht : v.state.tracks = false) : v.waits :=
  fun hn => absurd (h.traffic ht).2 hn

/-- A change that touches neither the score nor WATCHED and leaves a slot that tracks no requests. -/
theorem Change.moves_untracked {v w : View} (h : Change v w) (hp : w.policy = v.policy) (hs : w.score = v.score)
    (hw : w.watched = v.watched) (ht : w.state.tracks = false) : Moves v w :=
  ⟨.single h, fun _ hv => by unfold View.watchOk at *; rw [hp, hs, hw]; exact hv, fun hv _ _ => (h.sound hv).waits ht⟩

/-- A change that touches nothing that the two laws read. -/
theorem Change.moves_apart {v w : View} (h : Change v w) (hp : w.policy = v.policy) (hs : w.score = v.score)
    (hw : w.watched = v.watched) (ht : w.tt = v.tt) (hst : w.state = v.state) : Moves v w := by
  refine ⟨.single h, fun _ hv => ?_, fun _ _ hv hn => ?_⟩
  · unfold View.watchOk at *
    rw [hp, hs, hw]
    exact hv
  · rw [SlotRec.takeable_congr (q := v.record) hp (congrArg TtRec.ort ht) hw hst]
    exact hv (ht ▸ hn)

/-! ## Views after an update -/

theorem State.view_congr {s t : State} (h1 : t.slots = s.slots) (h2 : t.rm = s.rm) (h3 : t.se.ops = s.se.ops) :
    t.view = s.view := by
  funext j
  simp only [State.view, State.slot, h1, h2, h3]

theorem State.setSlot_view (s : State) (i : Slot) (r : SlotRec) :
    (s.setSlot i r).view = Function.update s.view i (r.view (s.view i).share (s.view i).restores) := by
  funext j
  by_cases hj : j = i
  · subst hj
    rw [Function.update_self, State.view, State.setSlot_slot_self]
    rfl
  · rw [Function.update_of_ne hj, State.view, State.setSlot_slot_ne _ _ _ _ hj]
    rfl

theorem State.modSlot_view (s : State) (i : Slot) (f : SlotRec → SlotRec) :
    (s.modSlot i f).view = Function.update s.view i ((f (s.slot i)).view (s.view i).share (s.view i).restores) :=
  s.setSlot_view i _

/-- An update of a slot's record that its view does not show. -/
theorem State.setSlot_view_same (s : State) (i : Slot) (r : SlotRec)
    (h : r.view (s.view i).share (s.view i).restores = s.view i) : (s.setSlot i r).view = s.view := by
  rw [State.setSlot_view, h, Function.update_eq_self]

theorem State.modSlot_view_same (s : State) (i : Slot) (f : SlotRec → SlotRec)
    (h : (f (s.slot i)).view (s.view i).share (s.view i).restores = s.view i) : (s.modSlot i f).view = s.view :=
  s.setSlot_view_same i _ h

theorem State.enter_view (s : State) (i : Slot) (st : SlotState) :
    (s.enter i st).view = Function.update s.view i ((s.view i).enter st) := s.modSlot_view i _

theorem State.modCs_view (s : State) (i : Slot) (f : CsRec → CsRec) (h : (f (s.slot i).cs).state = (s.slot i).cs.state) :
    (s.modCs i f).view =
      Function.update s.view i { s.view i with attempts := (f (s.slot i).cs).attempts } := by
  rw [State.modCs, State.modSlot_view]
  congr 1
  simp only [SlotRec.view, h]
  rfl

@[simp] theorem State.modCs_view_same (s : State) (i : Slot) (f : CsRec → CsRec)
    (h : (f (s.slot i).cs).state = (s.slot i).cs.state) (ha : (f (s.slot i).cs).attempts = (s.slot i).cs.attempts) :
    (s.modCs i f).view = s.view := by
  rw [State.modCs_view _ _ _ h, ha]
  exact Function.update_eq_self _ _

theorem State.modPru_view (s : State) (i : Slot) (f : PruRec → PruRec) :
    (s.modPru i f).view =
      Function.update s.view i
        { s.view i with
          isoOpen := (f (s.slot i).pru).isoOpen, asserted := (f (s.slot i).pru).asserted
          power := (f (s.slot i).pru).power, bleed := (f (s.slot i).pru).bleed, phase := (f (s.slot i).pru).phase } :=
  (State.view_congr rfl rfl rfl).trans (s.modSlot_view i fun r => { r with pru := f r.pru })

@[simp] theorem State.modHm_view_same (s : State) (i : Slot) (f : HmRec → HmRec)
    (hs : (f (s.slot i).hm).score = (s.slot i).hm.score) (hw : (f (s.slot i).hm).watched = (s.slot i).hm.watched) :
    (s.modHm i f).view = s.view := by
  refine s.modSlot_view_same i _ ?_
  simp only [SlotRec.view, hs, hw]
  rfl

@[simp] theorem State.setAd_view (s : State) (i : Slot) (a : AdRec) : (s.setAd i a).view = s.view :=
  s.modSlot_view_same i _ rfl

@[simp] theorem State.setTrigger_view (s : State) (i : Slot) (t : Trigger) : (s.setTrigger i t).view = s.view :=
  s.modSlot_view_same i _ rfl

@[simp] theorem State.modSense_view (s : State) (i : Slot) (f : SenseRec → SenseRec) : (s.modSense i f).view = s.view :=
  s.modSlot_view_same i _ rfl

@[simp] theorem State.emits_view (s : State) (os : List Output) : (s.emits os).view = s.view := State.view_congr rfl rfl rfl
@[simp] theorem State.raise_view (s : State) (i : Slot) (k : IncKind) (a b : Nat) (d : BitVec 64) :
    (s.raise i k a b d).view = s.view := State.view_congr rfl rfl rfl
@[simp] theorem State.issueRead_view (s : State) (w : Reader) (a : Addr) (n : Nat) : (s.issueRead w a n).view = s.view :=
  State.view_congr rfl rfl rfl
@[simp] theorem State.takeEntries_view (s : State) (es : List ActEntry) : (s.takeEntries es).view = s.view :=
  State.view_congr rfl rfl rfl
@[simp] theorem State.modRi_view (s : State) (f : RiRec → RiRec) : (s.modRi f).view = s.view := State.view_congr rfl rfl rfl
@[simp] theorem State.setCauses_view (s : State) (f : Causes → Causes) : (s.setCauses f).view = s.view :=
  State.view_congr rfl rfl rfl
@[simp] theorem State.seWrite_view (s : State) (a : Addr) (b : List Byte) : (s.seWrite a b).view = s.view :=
  State.view_congr rfl rfl rfl

@[simp] theorem State.align_view (s : State) : s.align.view = s.view := by
  unfold State.align
  dsimp only
  split
  · split
    · split <;> exact State.view_congr rfl rfl rfl
    · exact State.view_congr rfl rfl rfl
  · exact State.view_congr rfl rfl rfl

@[simp] theorem State.emptyHeader_view (s : State) (i : Slot) : (s.emptyHeader i).view = s.view := by
  unfold State.emptyHeader
  split
  · exact State.seWrite_view _ _ _
  · rfl

/-! ## Returns -/

@[simp] theorem State.giveBack_view (s : State) (i : Slot) (e : ActEntry) (o : ActOutcome) (n : Nat) :
    (s.giveBack i e o n).view = s.view := by
  unfold State.giveBack
  split
  · exact State.view_congr rfl rfl rfl
  · rfl

@[simp] theorem State.skipAll_view (s : State) (i : Slot) (es : List ActEntry) : (s.skipAll i es).view = s.view := by
  unfold State.skipAll
  induction es generalizing s with
  | nil => rfl
  | cons e es ih => rw [List.foldl_cons, ih, State.giveBack_view]

@[simp] theorem State.endEntry_view (s : State) (i : Slot) (o : ActOutcome) (n : Nat) : (s.endEntry i o n).view = s.view := by
  unfold State.endEntry
  dsimp only
  split
  · rfl
  · split <;> simp

@[simp] theorem State.onEntry_view (s : State) (i : Slot) (st : SlotState) (n : Nat) : (s.onEntry i st n).view = s.view := by
  unfold State.onEntry
  split
  · rfl
  · split
    · rfl
    · exact State.endEntry_view _ _ _ _

@[simp] theorem State.loseCard_view (s : State) (i : Slot) : (s.loseCard i).view = s.view := by
  unfold State.loseCard
  dsimp only
  split
  · simp
  · exact State.endEntry_view _ _ _ _

@[simp] theorem State.endSnapshot_view (s : State) (i : Slot) (o : ActOutcome) (n : Nat) :
    (s.endSnapshot i o n).view = s.view := by
  unfold State.endSnapshot
  split
  · exact State.endEntry_view _ _ _ _
  · rfl

/-! ## The engine -/

theorem State.view_ops {s t : State} {i : Slot} {n : Nat} (h1 : t.slots = s.slots) (h2 : t.rm = s.rm)
    (hi : t.se.ops.count ⟨.restore, i⟩ = n)
    (ho : ∀ j, j ≠ i → t.se.ops.count ⟨.restore, j⟩ = s.se.ops.count ⟨.restore, j⟩) :
    t.view = Function.update s.view i { s.view i with restores := n } := by
  funext j
  by_cases hj : j = i
  · subst hj
    rw [Function.update_self]
    simp only [State.view, State.slot, h1, h2, hi]
    rfl
  · rw [Function.update_of_ne hj]
    simp only [State.view, State.slot, h1, h2, ho j hj]

/-- With the slots and the shares as they were, operations leave SE. -/
theorem Lawful.of_fewer {s t : State} (h1 : t.slots = s.slots) (h2 : t.rm = s.rm)
    (h : ∀ j, t.se.ops.count ⟨.restore, j⟩ ≤ s.se.ops.count ⟨.restore, j⟩) : Lawful s t := by
  intro j
  have hv : t.view j = { s.view j with restores := (t.view j).restores } := by
    simp only [State.view, State.slot, h1, h2]
    rfl
  rw [hv]
  exact (Change.drop (s.view j) _ (h j)).moves_apart rfl rfl rfl rfl rfl

@[simp] theorem State.seRead_view (s : State) (i : Slot) (a : Addr) (n : Nat) (w : SeRead) :
    (s.seRead i a n w).view = s.view := State.view_congr rfl rfl rfl

@[simp] theorem State.seBegin_ops (s : State) (op : SeOp) : (s.seBegin op).se.ops = op :: s.se.queue := rfl

theorem State.seNext_ops (s : State) (h : s.se.current = none) : s.seNext.se.ops = s.se.ops := by
  unfold State.seNext
  split
  · rfl
  next op rest hq => simp [SeRec.ops, State.seBegin, State.seRead, State.issueRead, h, hq]

theorem State.seNext_slots (s : State) : s.seNext.slots = s.slots ∧ s.seNext.rm = s.rm := by
  unfold State.seNext
  split <;> exact ⟨rfl, rfl⟩

theorem State.seNext_lawful (s : State) : Lawful s s.seNext := by
  refine Lawful.of_fewer s.seNext_slots.1 s.seNext_slots.2 fun j => ?_
  unfold State.seNext
  split
  · exact le_rfl
  next op rest hq =>
    rw [State.seBegin_ops]
    simp [SeRec.ops, hq]

theorem State.seClear_lawful (s : State) : Lawful s s.seClear :=
  Lawful.of_fewer rfl rfl fun j => by simp [SeRec.ops, State.seClear]

/-- SE has as many RESTOREs of a slot as it has asked for. -/
theorem State.restores_pos {s : State} {i : Slot} (h : s.se.current = some ⟨.restore, i⟩) : 0 < (s.view i).restores := by
  simp [State.view, SlotRec.view, SeRec.ops, h]

/-- The current RESTORE is put aside. -/
theorem State.seClear_view {s : State} {i : Slot} (h : s.se.current = some ⟨.restore, i⟩) :
    s.seClear.view = Function.update s.view i { s.view i with restores := (s.view i).restores - 1 } := by
  refine State.view_ops rfl rfl ?_ fun j hj => ?_
  · simp [SeRec.ops, State.seClear, State.view, SlotRec.view, h]
  · simp [SeRec.ops, State.seClear, h, Ne.symm hj]

theorem State.seDrop_ops (s : State) (i : Slot) :
    (s.seDrop i).se.ops = s.se.ops.filter fun op => !decide (op.slot = i) := by
  unfold State.seDrop SeRec.runsFor
  dsimp only
  cases hc : s.se.current with
  | none => simp [SeRec.ops, hc]
  | some op =>
    by_cases ho : op.slot = i
    · rw [if_pos (by simpa using ho), State.seNext_ops _ rfl]
      simp [SeRec.ops, State.seClear, hc, ho]
    · rw [if_neg (by simpa using ho)]
      simp [SeRec.ops, hc, ho]

theorem State.seDrop_slots (s : State) (i : Slot) : (s.seDrop i).slots = s.slots ∧ (s.seDrop i).rm = s.rm := by
  unfold State.seDrop
  dsimp only
  split
  · exact ⟨(State.seNext_slots _).1, (State.seNext_slots _).2⟩
  · exact ⟨rfl, rfl⟩

@[simp] theorem State.seDrop_view (s : State) (i : Slot) :
    (s.seDrop i).view = Function.update s.view i (s.view i).dropped := by
  refine State.view_ops (s.seDrop_slots i).1 (s.seDrop_slots i).2 ?_ fun j hj => ?_
  · rw [State.seDrop_ops, List.count_eq_zero]
    simp
  · rw [State.seDrop_ops, List.count_filter (by simpa using hj)]

@[simp] theorem State.cancelOp_view (s : State) (i : Slot) :
    (s.cancelOp i).view = Function.update s.view i (s.view i).dropped := by
  unfold State.cancelOp
  dsimp only
  split
  · rw [State.endEntry_view, State.seDrop_view]
  · exact s.seDrop_view i

end Sys2Proof.Machine
end

section
/-! PROOFS. The changes of promotion, power-off and power-up, of the reset phases, the drain and the fence. -/

namespace Sys2Proof.Machine

open Sys2Proof

/-! ## Promotion (R9, R11) -/

/-- A tag that can be taken is a FREE tag of the host pool. -/
theorem TtRec.freeTag_spec {t : TtRec} {k : Tag} (h : t.freeTag = some k) : k ≠ engineTag ∧ t.entry k = .free := by
  have hm : k ∈ hostTags := List.mem_of_find?_eq_some h
  have hf : (t.entry k).isFree = true := List.find?_some (p := fun k => (t.entry k).isFree) h
  refine ⟨by rintro rfl; revert hm; decide, ?_⟩
  cases he : t.entry k with
  | free => rfl
  | live f => simp [he, OrtEntry.isFree] at hf
  | stale f => simp [he, OrtEntry.isFree] at hf

theorem SlotRec.takeable_spec {r : SlotRec} {k : Tag} (h : r.takeable = some k) :
    r.tt.liveHost < r.limit ∧ r.tt.freeTag = some k := by
  unfold SlotRec.takeable at h
  split at h
  next hl => exact ⟨hl, h⟩
  next => cases h

theorem hostEntry_belongs (q : Tracked) (d : Tick) {k : Tag} (h : k ≠ engineTag) : (hostEntry q d).belongs k := by
  simp [hostEntry, OrtEntry.belongs, h]

/-- A request takes a host tag where requests are tracked or held. -/
theorem Change.allocate (r : SlotRec) (b : Bool) (n : Nat) (k : Tag) (h : Held) (hk : k ≠ engineTag)
    (ht : r.cs.state.tracks = true ∨ r.tt.hold ≠ []) : Change (r.view b n) ((r.allocate k h).view b n) :=
  Change.entry (r.view b n) k (hostEntry h.request h.deadline) (fun _ => hostEntry_belongs _ _ hk)
    fun _ => Or.inr (Or.inr ht)

/-- Promotion changes the tags and the Hold Queue of the record alone, by a path. -/
theorem promoteLoop_path (i : Slot) (b : Bool) (m n : Nat) (r : SlotRec) :
    Path (r.view b m) ((promoteLoop i n r).1.view b m) ∧ ∃ t, (promoteLoop i n r).1 = r.setTt t := by
  induction n generalizing r with
  | zero => exact ⟨.refl, r.tt, rfl⟩
  | succ n ih =>
    unfold promoteLoop
    split
    next h rest k hh hk =>
      obtain ⟨hne, -⟩ := TtRec.freeTag_spec (SlotRec.takeable_spec hk).2
      obtain ⟨hp, t, ht⟩ := ih ((r.allocate k h).setTt { (r.allocate k h).tt with hold := rest })
      have hold : Change ((r.allocate k h).view b m)
          (((r.allocate k h).setTt { (r.allocate k h).tt with hold := rest }).view b m) :=
        Change.hold _ rest fun _ hn => by simp [SlotRec.view, SlotRec.allocate, SlotRec.setTt, TtRec.tags, hh] at hn
      exact ⟨(((Relation.ReflTransGen.single (Change.allocate r b m k h hne (Or.inr (by simp [hh])))).tail hold).trans hp), t,
        by rw [ht]; rfl⟩
    next => exact ⟨.refl, r.tt, rfl⟩

/-- Promotion runs to its end. -/
theorem promoteLoop_waits (i : Slot) (n : Nat) (r : SlotRec) (hn : r.tt.hold.length ≤ n) :
    (promoteLoop i n r).1.tt.hold ≠ [] → (promoteLoop i n r).1.takeable = none := by
  induction n generalizing r with
  | zero =>
    have : r.tt.hold = [] := List.eq_nil_of_length_eq_zero (by omega)
    exact fun h => absurd this h
  | succ n ih =>
    unfold promoteLoop
    split
    next h rest k hh hk =>
      rw [hh, List.length_cons] at hn
      exact ih ((r.allocate k h).setTt { (r.allocate k h).tt with hold := rest }) (show rest.length ≤ n by omega)
    next hnot =>
      intro hne
      obtain ⟨h, rest, hh⟩ := List.exists_cons_of_ne_nil hne
      cases hk : r.takeable with
      | none => rfl
      | some k => exact absurd hk (hnot h rest k hh)

theorem State.promote_view (s : State) (i : Slot) :
    (s.promote i).view = Function.update s.view i
      ((promoteLoop i (s.slot i).tt.hold.length (s.slot i)).1.view (s.view i).share (s.view i).restores) :=
  (State.view_congr rfl rfl rfl).trans (s.setSlot_view i (promoteLoop i (s.slot i).tt.hold.length (s.slot i)).1)

theorem State.promote_loose (s : State) (i : Slot) : Loose i s (s.promote i) :=
  Loose.update (s.promote_view i) (promoteLoop_path i _ _ _ _).1

/-- What promotion leaves alone. -/
theorem State.promote_frame (s : State) (i : Slot) :
    ∃ t, (s.promote i).view i = { s.view i with tt := t } := by
  obtain ⟨-, t, ht⟩ := promoteLoop_path i (s.view i).share (s.view i).restores (s.slot i).tt.hold.length (s.slot i)
  rw [State.promote_view, Function.update_self, ht]
  exact ⟨t.tags, rfl⟩

theorem State.promote_waits (s : State) (i : Slot) : ((s.promote i).view i).waits := by
  intro hn
  have h := promoteLoop_waits i _ (s.slot i) le_rfl
  rw [State.promote_view, Function.update_self] at hn ⊢
  refine (SlotRec.takeable_congr ?_ ?_ ?_ ?_).trans (h hn) <;> rfl

/-- What was loose before the promotion of an event is lawful after it. -/
theorem Loose.promote {i : Slot} {s t : State} (h : Loose i s t)
    (hw : (s.view i).policySound → (s.view i).watchOk → (t.view i).watchOk) : Lawful s (t.promote i) := by
  refine (h.trans (t.promote_loose i)).lawful (fun hp hv => ?_) fun _ _ _ => t.promote_waits i
  obtain ⟨u, hu⟩ := t.promote_frame i
  rw [hu]
  exact hw hp hv

theorem State.promote_lawful (s : State) (i : Slot) : Lawful s (s.promote i) :=
  ((Lawful.refl s).loose i).promote fun _ => id

@[simp] theorem State.enter_slot_self (s : State) (i : Slot) (st : SlotState) :
    (s.enter i st).slot i = (s.slot i).enter st := s.modSlot_slot_self i _

/-! ## Power-off and the shutdown path (R48, R51, R80) -/

@[simp] theorem State.resetAssertion_view (s : State) (i : Slot) :
    (s.resetAssertion i).view = Function.update s.view i (s.view i).freed := by
  unfold State.resetAssertion
  dsimp only
  rw [State.emits_view, State.setSlot_view]
  rfl

@[simp] theorem State.powerOffNow_view (s : State) (i : Slot) :
    (s.powerOffNow i).view = Function.update s.view i (s.view i).shut := by
  unfold State.powerOffNow
  dsimp only
  rw [State.enter_view, State.resetAssertion_view, State.modPru_view]
  simp only [Function.update_idem, Function.update_self]
  rfl

@[simp] theorem State.shutdown_view (s : State) (i : Slot) :
    (s.shutdown i).view = Function.update s.view i (s.view i).shut := by
  unfold State.shutdown
  rw [State.powerOffNow_view, State.modPru_view]
  simp only [Function.update_idem, Function.update_self]
  rfl

@[simp] theorem CsRec.failCheck_state (c : CsRec) (n : Nat) : (c.failCheck n).state = c.state := by
  unfold CsRec.failCheck
  split <;> rfl

@[simp] theorem CsRec.failCheck_attempts (c : CsRec) (n : Nat) : (c.failCheck n).attempts = c.attempts := by
  unfold CsRec.failCheck
  split <;> rfl

@[simp] theorem State.failAttempt_view (s : State) (i : Slot) (c n : Nat) :
    (s.failAttempt i c n).view = Function.update s.view i (s.view i).dropped.shut := by
  unfold State.failAttempt
  dsimp only
  rw [State.shutdown_view, State.cancelOp_view,
    State.modCs_view_same _ _ _ (CsRec.failCheck_state _ _) (CsRec.failCheck_attempts _ _), State.raise_view]
  simp only [Function.update_idem, Function.update_self]

@[simp] theorem State.rampFault_view (s : State) (i : Slot) (k : RailFault) :
    (s.rampFault i k).view = Function.update s.view i (s.view i).dropped.shut := by
  unfold State.rampFault
  dsimp only
  rw [State.failAttempt_view, State.raise_view]

theorem Moves.shut {v : View} (hs : v.state ≠ .bleeding ∨ v.phase ≠ .bleedCheck)
    (hr : v.state ≠ .restoring ∨ v.phase ≠ .idle) : Moves v v.shut :=
  (Change.shut v hs hr).moves_untracked rfl rfl rfl rfl

theorem Moves.fail {v : View} (hs : v.state ≠ .bleeding ∨ v.phase ≠ .bleedCheck ∨ 0 < v.restores) :
    Moves v v.dropped.shut :=
  (Change.fail v hs).moves_untracked rfl rfl rfl rfl

theorem State.failAttempt_lawful (s : State) (i : Slot) (c n : Nat)
    (h : (s.view i).state ≠ .bleeding ∨ (s.view i).phase ≠ .bleedCheck) : Lawful s (s.failAttempt i c n) :=
  Lawful.update (s.failAttempt_view i c n) (Moves.fail (h.imp id Or.inl))

theorem State.rampFault_lawful (s : State) (i : Slot) (k : RailFault) (h : (s.view i).phase = .ramp) :
    Lawful s (s.rampFault i k) :=
  Lawful.update (s.rampFault_view i k) (Moves.fail (Or.inr (Or.inl (by rw [h]; decide))))

/-! ## Power up (R48, R74) -/

theorem State.powerUp_view (s : State) (i : Slot) :
    (s.powerUp i).view = Function.update s.view i
      (if (s.slot i).sense.pgAcc then (s.view i).up.dropped.shut else (s.view i).up) := by
  have h : ((s.enter i .powering).modPru i PruRec.enterRamp).view = Function.update s.view i (s.view i).up := by
    rw [State.modPru_view, State.enter_view, State.enter_slot_self]
    simp only [Function.update_idem, Function.update_self]
    rfl
  unfold State.powerUp
  dsimp only
  split
  · rw [State.rampFault_view, h]
    simp only [Function.update_idem, Function.update_self]
  · exact h

theorem Moves.powerUp {v : View} (h : v.state = .off ∨ v.state = .retired) (b : Bool) :
    Moves v (if b then v.up.dropped.shut else v.up) := by
  have hup : Moves v v.up := (Change.up v h).moves_untracked rfl rfl rfl rfl
  cases b with
  | false => exact hup
  | true => exact hup.trans (Moves.fail (Or.inl (by simp [View.up, View.enter])))

theorem State.powerUp_lawful (s : State) (i : Slot) (h : (s.view i).state = .off ∨ (s.view i).state = .retired) :
    Lawful s (s.powerUp i) :=
  Lawful.update (s.powerUp_view i) (Moves.powerUp h _)

theorem Moves.attempts {v : View} (n : Nat) (h : attemptsWithin v.policy v.attempts → attemptsWithin v.policy n) :
    Moves v { v with attempts := n } :=
  (Change.attempts v n h).moves_apart rfl rfl rfl rfl rfl

/-- Attempts set to a number that the policy allows. -/
theorem State.modCs_lawful (s : State) (i : Slot) (f : CsRec → CsRec) (hs : (f (s.slot i).cs).state = (s.slot i).cs.state)
    (ha : attemptsWithin (s.slot i).policy (s.slot i).cs.attempts →
      attemptsWithin (s.slot i).policy (f (s.slot i).cs).attempts) : Lawful s (s.modCs i f) :=
  Lawful.update (s.modCs_view i f hs) (Moves.attempts _ ha)

theorem attemptsWithin_zero {p : Option Policy} {n : Nat} (h : attemptsWithin p n) : attemptsWithin p 0 := by
  cases p with
  | none => rfl
  | some p => exact ⟨Nat.zero_le _, h.2⟩

theorem attemptsWithin_one {p : Option Policy} {n : Nat} (hp : p ≠ none) (h : attemptsWithin p n) : attemptsWithin p 1 := by
  cases p with
  | none => exact absurd rfl hp
  | some p => exact ⟨h.2, h.2⟩

theorem State.modCs_policy (s : State) (i : Slot) (f : CsRec → CsRec) :
    ((s.modCs i f).slot i).policy = (s.slot i).policy := (s.modCs_only i f).policy

theorem State.modCs_state (s : State) (i : Slot) (f : CsRec → CsRec) :
    ((s.modCs i f).slot i).cs = f (s.slot i).cs := by
  rw [State.modCs, State.modSlot_slot_self]

theorem State.bringUp_lawful (s : State) (i : Slot) (b : Bool) (h : (s.slot i).cs.state = .off) :
    Lawful s (s.bringUp i b) :=
  (s.modCs_lawful i _ rfl attemptsWithin_zero).trans
    (State.powerUp_lawful _ i (Or.inl (by simpa [State.view, SlotRec.view, State.modCs_state] using h)))

theorem State.recoverRetired_lawful (s : State) (i : Slot) (t : Trigger) (h : (s.slot i).cs.state = .retired)
    (hp : (s.slot i).policy ≠ none) : Lawful s (s.recoverRetired i t) :=
  (s.modCs_lawful i _ rfl (attemptsWithin_one hp)).trans
    (State.powerUp_lawful _ i (Or.inr (by simpa [State.view, SlotRec.view, State.modCs_state, CsRec.firstAttempt] using h)))

/-! ## RECONNECT and TRAINING (R77, R78) -/

@[simp] theorem State.releaseReset_view (s : State) (i : Slot) :
    (s.releaseReset i).view = Function.update s.view i (s.view i).train := by
  unfold State.releaseReset
  dsimp only
  rw [State.enter_view, State.modPru_view]
  simp only [Function.update_idem, Function.update_self]
  rfl

theorem State.reconnect_view (s : State) (i : Slot) :
    (s.reconnect i).view = Function.update s.view i
      (if (s.pol i).releaseLag = 0 then (s.view i).reconnect.train else (s.view i).reconnect) := by
  unfold State.reconnect
  dsimp only
  split
  · rw [State.releaseReset_view, State.modPru_view]
    simp only [Function.update_idem, Function.update_self]
    rfl
  · exact State.modPru_view _ _ _

theorem Moves.train {v : View} (h : v.phase = .reconnect) : Moves v v.train :=
  (Change.train v h).moves_untracked rfl rfl rfl rfl

theorem State.releaseReset_lawful (s : State) (i : Slot) (h : (s.view i).phase = .reconnect) :
    Lawful s (s.releaseReset i) := Lawful.update (s.releaseReset_view i) (Moves.train h)

theorem Moves.thenTrain {v w : View} (h : Moves v w) (hw : w.phase = .reconnect) (p : Prop) [Decidable p] :
    Moves v (if p then w.train else w) := by
  split
  · exact h.trans (Moves.train hw)
  · exact h

theorem State.reconnect_lawful (s : State) (i : Slot) (h : (s.view i).phase = .assert ∨ (s.view i).phase = .settle) :
    Lawful s (s.reconnect i) :=
  Lawful.update (s.reconnect_view i)
    (((Change.reconnect _ h).moves_apart rfl rfl rfl rfl rfl).thenTrain rfl _)

/-! ## ISOLATE and ASSERT (R71, R72) -/

theorem State.enterIsolated_view (s : State) (i : Slot) :
    (s.enterIsolated i).view = Function.update s.view i ((s.view i).enter .isolated) := by
  unfold State.enterIsolated
  dsimp only
  rw [State.onEntry_view, State.raise_view, State.modCs_view_same _ _ _ rfl rfl, State.enter_view]

theorem State.assertDone_lawful (s : State) (i : Slot) (h : (s.view i).phase = .assert) : Lawful s (s.assertDone i) := by
  unfold State.assertDone
  split
  · exact s.reconnect_lawful i (Or.inl h)
  · refine Lawful.update (i := i) (w := (s.view i).isolated) ?_ ((Change.isolate _ h).moves_untracked rfl rfl rfl rfl)
    rw [State.enterIsolated_view, State.modPru_view]
    simp only [Function.update_idem, Function.update_self]
    rfl
  · exact Lawful.update (s.powerOffNow_view i)
      (Moves.shut (Or.inr (by rw [h]; decide)) (Or.inr (by rw [h]; decide)))
  · exact Lawful.refl s

theorem State.assertReset_lawful (s : State) (i : Slot) (h : (s.view i).phase = .isolate) : Lawful s (s.assertReset i) := by
  have hview : ∀ n, ((s.modPru i fun p => { p with asserted := true, timer := n, phase := .assert }).resetAssertion i).view
      = Function.update s.view i (s.view i).assert := by
    intro n
    rw [State.resetAssertion_view, State.modPru_view]
    simp only [Function.update_idem, Function.update_self]
    rfl
  have hassert : Moves (s.view i) (s.view i).assert :=
    ⟨.single (Change.assert _ h), fun _ => id, fun _ _ _ hn => absurd rfl hn⟩
  unfold State.assertReset
  dsimp only
  split
  · refine (Lawful.update (hview _) hassert).trans (State.assertDone_lawful _ i ?_)
    rw [hview, Function.update_self]
    rfl
  · exact Lawful.update (hview _) hassert

theorem State.startReset_lawful (s : State) (i : Slot) (q : Sequence) (h : (s.view i).state = .fenced) :
    Lawful s (s.startReset i q) := by
  have hview : ∀ n, ((s.enter i .resetting).modPru i fun p =>
      { p with sequence := q, isoOpen := true, timer := n, phase := .isolate }).view
      = Function.update s.view i (s.view i).resetting := by
    intro n
    rw [State.modPru_view, State.enter_view, State.enter_slot_self]
    simp only [Function.update_idem, Function.update_self]
    rfl
  have hreset : Moves (s.view i) (s.view i).resetting := (Change.drain _ h).moves_untracked rfl rfl rfl rfl
  unfold State.startReset
  dsimp only
  split
  · refine (Lawful.update (hview _) hreset).trans (State.assertReset_lawful _ i ?_)
    rw [hview, Function.update_self]
    rfl
  · exact Lawful.update (hview _) hreset

/-! ## The drain and the fence (R42 to R46) -/

theorem State.view_state (s : State) (i : Slot) : (s.view i).state = (s.slot i).cs.state := rfl
theorem State.view_phase (s : State) (i : Slot) : (s.view i).phase = (s.slot i).pru.phase := rfl

/-- One more attempt, where the policy allows one. -/
theorem attemptsWithin_succ {r : SlotRec} {n : Nat} (hn : n < r.pol.maxAttempts) (h : attemptsWithin r.policy n) :
    attemptsWithin r.policy (n + 1) := by
  unfold SlotRec.pol at hn
  cases hp : r.policy with
  | none => simp [hp, Policy.blank] at hn
  | some p =>
    rw [hp] at h hn
    exact ⟨hn, h.2⟩

theorem State.drainEnd_lawful (s : State) (i : Slot) (h : (s.slot i).cs.state = .fenced) : Lawful s (s.drainEnd i) := by
  have h1 : Lawful s (s.modCs i fun c => { c with drain := none }) :=
    Lawful.of_view (State.modCs_view_same _ _ _ rfl rfl)
  unfold State.drainEnd
  dsimp only
  split
  · exact h1.trans (State.startReset_lawful _ i _ (by simpa [State.view_state, State.modCs_state] using h))
  · split
    · refine h1.trans (Lawful.trans (Lawful.of_view (State.modCs_view_same _ _ _ rfl rfl)) (State.startReset_lawful _ i _ ?_))
      simpa [State.view_state, State.modCs_state] using h
    next k hk hmax =>
      refine h1.trans ((State.modCs_lawful _ i _ rfl fun ha => ?_).trans (State.startReset_lawful _ i _ ?_))
      · rw [State.modCs_policy] at ha ⊢
        rw [State.modCs_state] at ha hmax ⊢
        exact attemptsWithin_succ (Nat.lt_of_not_le hmax) ha
      · simpa [State.view_state, State.modCs_state] using h

theorem State.startDrain_lawful (s : State) (i : Slot) (h : (s.slot i).cs.state = .fenced) : Lawful s (s.startDrain i) := by
  unfold State.startDrain
  split
  · exact s.drainEnd_lawful i h
  · exact Lawful.of_view (State.modCs_view_same _ _ _ rfl rfl)

theorem State.fenceWork_view (s : State) (i : Slot) :
    (s.fenceWork i).view = Function.update s.view i (s.view i).cut := by
  unfold State.fenceWork
  dsimp only
  rw [State.emits_view, State.setSlot_view]
  rfl

theorem State.presenceWork_view (s : State) (i : Slot) :
    (s.presenceWork i).view = Function.update s.view i (s.view i).cut := by
  unfold State.presenceWork
  dsimp only
  rw [State.emits_view, State.setSlot_view]
  rfl

/-- A fence is made in a state whose slot carries traffic or is being restored. -/
def SlotState.fenceable (st : SlotState) : Prop := st = .online ∨ st = .held ∨ st = .probation ∨ st = .restoring

theorem State.fence_lawful (s : State) (i : Slot) (t : Trigger) (k : RecKind) (f : Option Nat)
    (h : (s.slot i).cs.state.fenceable) : Lawful s (s.fence i t k f) := by
  have hview : ((((s.enter i .fenced).modCs i fun c => c.fence t k).fenceWork i).cancelOp i).view
      = Function.update s.view i (s.view i).fenced := by
    rw [State.cancelOp_view, State.fenceWork_view, State.modCs_view_same _ _ _ rfl rfl, State.enter_view]
    simp only [Function.update_idem, Function.update_self]
    rfl
  have hfence : Moves (s.view i) (s.view i).fenced := (Change.fence (s.view i) h).moves_untracked rfl rfl rfl rfl
  have hdone : ∀ u : State, u.view = Function.update s.view i (s.view i).fenced → Lawful s (u.startDrain i) := by
    intro u hu
    refine (Lawful.update hu hfence).trans (u.startDrain_lawful i ?_)
    rw [← State.view_state, hu, Function.update_self]
    rfl
  unfold State.fence
  dsimp only
  apply hdone
  cases f <;> by_cases ht : t = .linkDown <;> simpa [ht] using hview

theorem State.cardFence_lawful (s : State) (i : Slot) (t : Trigger) : Lawful s (s.cardFence i t) := by
  unfold State.cardFence
  split
  next h => exact s.fence_lawful i _ _ _ (Or.inl h)
  next h => exact s.fence_lawful i _ _ _ (Or.inr (Or.inl h))
  next h => exact s.fence_lawful i _ _ _ (Or.inr (Or.inr (Or.inl h)))
  next h =>
    split
    · exact s.fence_lawful i _ _ _ (Or.inr (Or.inr (Or.inr h)))
    · exact Lawful.refl s
  · exact Lawful.refl s

end Sys2Proof.Machine
end

section
/-! PROOFS. The changes of arrivals, RECOVER and POWER_OFF, of the scoring events and the acceptance of a policy. -/

namespace Sys2Proof.Machine

open Sys2Proof

/-! ## Arrivals (R52, R55, R57, R59) -/

theorem State.enterHeld_view (s : State) (i : Slot) :
    (s.enterHeld i).view = Function.update s.view i ((s.view i).enter .held) := by
  unfold State.enterHeld
  rw [State.modSlot_view_same _ _ _ rfl, State.enter_view]

theorem State.enterRetired_view (s : State) (i : Slot) (n : Nat) :
    (s.enterRetired i n).view = Function.update s.view i ((s.view i).enter .retired) := by
  unfold State.enterRetired
  dsimp only
  rw [State.modCs_view_same _ _ _ rfl rfl, State.raise_view, State.enter_view]

theorem State.retireFromBleed_view (s : State) (i : Slot) :
    (s.retireFromBleed i).view = Function.update s.view i ((s.view i).enter .retired) := by
  unfold State.retireFromBleed
  dsimp only
  rw [State.onEntry_view, State.enterRetired_view]

theorem Moves.retire {v : View} (h : v.state = .off) : Moves v (v.enter .retired) :=
  (Change.retire v h).moves_untracked rfl rfl rfl rfl

@[simp] theorem State.sendHoldover_view (s : State) (i : Slot) : (s.sendHoldover i).view = s.view := by
  unfold State.sendHoldover
  dsimp only
  split
  · rw [State.emit_eq, State.emits_view, State.modSlot_view_same _ _ _ rfl]
  · exact s.modSlot_view_same i _ rfl

@[simp] theorem CsRec.startProbation_state (c : CsRec) (p : Policy) : (c.startProbation p).state = c.state := by
  unfold CsRec.startProbation
  split <;> rfl

@[simp] theorem CsRec.startProbation_attempts (c : CsRec) (p : Policy) : (c.startProbation p).attempts = c.attempts := by
  unfold CsRec.startProbation
  split <;> rfl

/-- A cleared score is below every watch threshold. -/
theorem View.cleared_watchOk {v : View} (h : v.policySound) : v.cleared.watchOk := by
  unfold View.watchOk View.cleared
  dsimp only
  split
  next p hp =>
    obtain ⟨-, -, -, -, -, -, -, -, -, -, -, -, ⟨hw, -⟩, -⟩ := h p hp
    exact (decide_eq_false (by omega)).symm
  · rfl

/-- The entry to PROBATION, from HELD by ADMIT or at the end of a RESTORE put aside. -/
theorem State.enterProbation_lawful {s u : State} {i : Slot} (ho : ∀ j, j ≠ i → Moves (s.view j) (u.view j))
    (hc : Change (s.view i) ((u.view i).enter .probation)) : Lawful s (u.enterProbation i) := by
  have hview : (((u.enter i .probation).modCs i fun c => c.startProbation (u.pol i)).modSlot i
      fun r => r.clearScore.clearFirstExpiry).view = Function.update u.view i ((u.view i).enter .probation).cleared := by
    rw [State.modSlot_view, State.modCs_view_same _ _ _ (CsRec.startProbation_state _ _) (CsRec.startProbation_attempts _ _),
      State.enter_view, State.modCs, State.modSlot_slot_self, State.enter_slot_self]
    simp only [Function.update_idem, Function.update_self, SlotRec.view, SlotRec.clearScore, SlotRec.clearFirstExpiry,
      CsRec.startProbation_state, CsRec.startProbation_attempts]
    rfl
  have hloose : Loose i s (((u.enter i .probation).modCs i fun c => c.startProbation (u.pol i)).modSlot i
      fun r => r.clearScore.clearFirstExpiry) := by
    refine ⟨fun j hj => ?_, ?_⟩
    · rw [hview, Function.update_of_ne hj]
      exact ho j hj
    · rw [hview, Function.update_self]
      exact (Relation.ReflTransGen.single hc).tail (Change.clear _)
  unfold State.enterProbation
  dsimp only
  refine (hloose.promote fun hp _ => ?_).trans (Lawful.of_view (by rw [State.onEntry_view, State.sendHoldover_view]))
  rw [hview, Function.update_self]
  exact View.cleared_watchOk (hc.policySound hp)

theorem State.probationEnd_lawful (s : State) (i : Slot) (h : (s.slot i).cs.state = .probation) :
    Lawful s (s.probationEnd i) := by
  have hview : ((((s.enter i .online).modSlot i fun r => r.clearScore.clearFirstExpiry).raise i .recovered
      (((s.enter i .online).modSlot i fun r => r.clearScore.clearFirstExpiry).slot i).tt.discard).modCs i
      fun c => { c with attempts := 0, kind := .none, probCount := 0 }).view
        = Function.update s.view i { ((s.view i).enter .online).cleared with attempts := 0 } := by
    rw [State.modCs_view _ _ _ rfl, State.raise_view, State.modSlot_view, State.enter_view, State.enter_slot_self]
    simp only [Function.update_idem, Function.update_self]
    rfl
  have hpath : Path (s.view i) { ((s.view i).enter .online).cleared with attempts := 0 } :=
    ((Relation.ReflTransGen.single (Change.online _ h)).tail (Change.clear _)).tail
      (Change.attempts _ 0 attemptsWithin_zero)
  unfold State.probationEnd
  dsimp only
  refine ((Loose.update hview hpath).promote fun hp _ => ?_).trans (Lawful.of_view (State.onEntry_view _ _ _ _))
  rw [hview, Function.update_self]
  exact View.cleared_watchOk (v := (s.view i).enter .online) hp

theorem State.countSuccess_lawful (s : State) (i : Slot) : Lawful s (s.countSuccess i) := by
  unfold State.countSuccess
  dsimp only
  split
  next h =>
    have hcount : ∀ n, Lawful s (s.modCs i fun c => { c with probCount := n }) := fun n =>
      Lawful.of_view (State.modCs_view_same _ _ _ rfl rfl)
    split
    · exact (hcount _).trans (State.probationEnd_lawful _ i (by rw [State.modCs_state]; exact h.1))
    · exact hcount _
  · exact Lawful.refl s

/-! ## RECOVER, POWER_OFF and RETIRE (R54, R60) -/

theorem Moves.warm {v : View} (h : v.state = .isolated) : Moves v (v.enter .resetting).reconnect :=
  (Change.warm v h).moves_untracked rfl rfl rfl rfl

theorem State.recoverWarm_lawful (s : State) (i : Slot) (h : (s.slot i).cs.state = .isolated)
    (hp : (s.slot i).policy ≠ none) : Lawful s (s.recoverWarm i) := by
  unfold State.recoverWarm
  dsimp only
  refine (s.modCs_lawful i (fun c => c.firstAttempt .warm (s.pol i).restore .action) rfl (attemptsWithin_one hp)).trans ?_
  generalize hu : s.modCs i (fun c => c.firstAttempt .warm (s.pol i).restore .action) = u
  have hst : (u.view i).state = .isolated := by
    rw [← hu, State.view_state, State.modCs_state]
    exact h
  have hview : ((u.enter i .resetting).modPru i fun p => { p with sequence := .reconnect }).view
      = Function.update u.view i ((u.view i).enter .resetting) := by
    rw [State.modPru_view, State.enter_view, State.enter_slot_self]
    simp only [Function.update_idem, Function.update_self]
    rfl
  generalize hv : (u.enter i .resetting).modPru i (fun p => { p with sequence := .reconnect }) = v at hview ⊢
  refine Lawful.update (i := i) (w := if (v.pol i).releaseLag = 0 then ((u.view i).enter .resetting).reconnect.train
    else ((u.view i).enter .resetting).reconnect) ?_ ((Moves.warm hst).thenTrain rfl _)
  rw [State.reconnect_view, hview]
  simp only [Function.update_idem, Function.update_self]

theorem State.recoverCold_lawful (s : State) (i : Slot) (h : (s.slot i).cs.state = .isolated)
    (hp : (s.slot i).policy ≠ none) : Lawful s (s.recoverCold i) := by
  unfold State.recoverCold
  dsimp only
  refine (s.modCs_lawful i (fun c => { c.firstAttempt .cold (s.pol i).restore .action with target := .none, retryPending := false })
    rfl (attemptsWithin_one hp)).trans ?_
  refine Lawful.update (State.shutdown_view _ i) (Moves.shut (Or.inl ?_) (Or.inl ?_)) <;>
    rw [State.view_state, State.modCs_state] <;> simp [CsRec.firstAttempt, h]

theorem State.recoverAction_lawful (s : State) (i : Slot) (a : BitVec 16) (hp : (s.slot i).policy ≠ none) :
    Lawful s (s.recoverAction i a) := by
  unfold State.recoverAction
  split
  next h =>
    split
    · exact s.recoverWarm_lawful i h hp
    · exact s.recoverCold_lawful i h hp
  next h =>
    refine (s.modCs_lawful i _ rfl attemptsWithin_zero).trans (State.fence_lawful _ i _ _ _ ?_)
    rw [State.modCs_state]
    exact Or.inr (Or.inl h)
  next h => exact s.recoverRetired_lawful i _ h hp
  · exact Lawful.refl s

/-- A cancelled operation and power-off, in any state but BLEEDING. -/
theorem State.cancel_shutdown_lawful {s u : State} {i : Slot} (hu : u.view = s.view)
    (h : (s.slot i).cs.state ≠ .bleeding) : Lawful s ((u.cancelOp i).shutdown i) := by
  refine Lawful.update (i := i) (w := (s.view i).dropped.shut) ?_ (Moves.fail (Or.inl h))
  rw [State.shutdown_view, State.cancelOp_view, hu]
  simp only [Function.update_idem, Function.update_self]

theorem State.powerDown_lawful (s : State) (i : Slot) (g : Target) (t : Trigger) : Lawful s (s.powerDown i g t) := by
  have hview : ∀ f : CsRec → CsRec, (f (s.slot i).cs).state = (s.slot i).cs.state →
      (f (s.slot i).cs).attempts = (s.slot i).cs.attempts → (s.modCs i f).view = s.view := fun f => s.modCs_view_same i f
  by_cases hb : (s.slot i).cs.state = .bleeding
  · simp only [State.powerDown, hb]
    exact Lawful.of_view (hview _ rfl rfl)
  · unfold State.powerDown
    split
    case h_10 h => exact absurd h hb
    case h_11 => exact Lawful.refl s
    all_goals exact State.cancel_shutdown_lawful (hview _ rfl rfl) hb

/-! ## Health (R28 to R36) -/

@[simp] theorem State.noteExpiry_view (s : State) (i : Slot) (e : ScoreEvent) : (s.noteExpiry i e).view = s.view := by
  unfold State.noteExpiry
  split
  · split
    · rfl
    · rw [State.modHm_view_same _ _ _ rfl rfl, State.raise_view]
  · rfl

@[simp] theorem State.alignAlert_view (s : State) (i : Slot) : (s.alignAlert i).view = s.view := by
  unfold State.alignAlert
  split
  · rfl
  · split
    · exact s.modHm_view_same i _ rfl rfl
    · rfl

@[simp] theorem State.scoreIncrease_view (s : State) (i : Slot) : (s.scoreIncrease i).view = s.view := by
  refine s.modCs_view_same i _ ?_ ?_ <;> split <;> rfl

theorem ScoreEvent.apply_le (e : ScoreEvent) {n : Nat} (h : n ≤ 1023) : e.apply n ≤ 1023 := by
  cases e <;> simp only [ScoreEvent.apply] <;> omega

theorem State.modHm_view (s : State) (i : Slot) (f : HmRec → HmRec) :
    (s.modHm i f).view = Function.update s.view i
      { s.view i with score := (f (s.slot i).hm).score, watched := (f (s.slot i).hm).watched } :=
  s.modSlot_view i _

theorem State.weigh_loose (s : State) (i : Slot) (e : ScoreEvent) : Loose i s (s.weigh i e) :=
  Loose.update (s.modHm_view i _) (.single (Change.score _ _ fun h => e.apply_le h))

/-- WATCHED is in line after the comparison of R31, whatever it was before. -/
theorem State.alignWatch_spec (s : State) (i : Slot) :
    Loose i s (s.alignWatch i) ∧ ((s.view i).watchWeak → ((s.alignWatch i).view i).watchOk) := by
  unfold State.alignWatch
  split
  next hp =>
    refine ⟨(Lawful.refl s).loose i, fun h => ?_⟩
    have hp' : (s.view i).policy = none := hp
    simp only [View.watchOk, hp']
    exact h hp
  next p hp =>
    have hp' : (s.view i).policy = some p := hp
    dsimp only
    split
    next h =>
      refine ⟨(Lawful.refl s).loose i, fun _ => ?_⟩
      simp only [View.watchOk, hp']
      exact h.symm
    next h =>
      have hview : ∀ b, (s.modHm i fun h => { h with watched := b }).view
          = Function.update s.view i { s.view i with watched := b } := fun b => s.modHm_view i _
      have hloose : ∀ b, Loose i s (s.modHm i fun h => { h with watched := b }) := fun b =>
        Loose.update (hview b) (.single (Change.watch _ _ (by simp [hp'])))
      have hok : ({ s.view i with watched := decide (p.watchT ≤ (s.slot i).hm.score) } : View).watchOk := by
        simp only [View.watchOk, hp']
        rfl
      split
      · refine ⟨(hloose _).trans ((Lawful.of_view (State.raise_view _ _ _ _ _ _)).loose i), fun _ => ?_⟩
        rw [State.raise_view, hview, Function.update_self]
        exact hok
      · refine ⟨(hloose _).trans (State.promote_loose _ i), fun _ => ?_⟩
        obtain ⟨t, ht⟩ := State.promote_frame (s.modHm i fun h => { h with watched := decide (p.watchT ≤ (s.slot i).hm.score) }) i
        rw [ht, hview, Function.update_self]
        exact hok

theorem State.fenceEvent_lawful (s : State) (i : Slot) (p : Policy) (h : (s.slot i).cs.state.fenceable) :
    Lawful s (s.fenceEvent i p) := by
  unfold State.fenceEvent
  split
  · exact s.fence_lawful i _ _ _ h
  · exact Lawful.of_view (by rw [State.modHm_view_same _ _ _ rfl rfl, State.raise_view])

theorem State.checkThresholds_lawful (s : State) (i : Slot) (e : ScoreEvent) (n : Nat) :
    Lawful s (s.checkThresholds i e n) := by
  unfold State.checkThresholds
  split
  · exact Lawful.refl s
  · dsimp only
    split
    next h =>
      split
      · exact s.fenceEvent_lawful i _ (Or.inl h)
      · exact Lawful.refl s
    next h =>
      split
      · exact s.fenceEvent_lawful i _ (Or.inr (Or.inl h))
      · exact Lawful.refl s
    next h =>
      split
      · exact s.fence_lawful i _ _ _ (Or.inr (Or.inr (Or.inl h)))
      · split
        · exact Lawful.of_view (s.scoreIncrease_view i)
        · exact Lawful.refl s
    · exact Lawful.refl s

/-- HM's steps after the weight make an event lawful that was loose so far. -/
theorem Loose.scoreChecks {i : Slot} {s t : State} (h : Loose i s t) (e : ScoreEvent) (n : Nat)
    (hw : (s.view i).watchWeak → (t.view i).watchWeak := h.path.watchWeak) : Lawful s (t.scoreChecks i e n) := by
  have hnote : Loose i s (t.noteExpiry i e) := h.trans ((Lawful.of_view (t.noteExpiry_view i e)).loose i)
  obtain ⟨hl, hok⟩ := State.alignWatch_spec (t.noteExpiry i e) i
  have halert : Lawful ((t.noteExpiry i e).alignWatch i) (((t.noteExpiry i e).alignWatch i).alignAlert i) :=
    Lawful.of_view (State.alignAlert_view _ i)
  have hcheck := halert.trans (State.checkThresholds_lawful _ i e n)
  refine ((hnote.trans hl).trans (hcheck.loose i)).promote fun hp hv => ?_
  refine (hcheck i).watch ((hnote.trans hl).path.policySound hp) (hok ?_)
  rw [State.noteExpiry_view]
  refine hw fun hn => ?_
  simp only [View.watchOk, hn] at hv
  exact hv

theorem State.scoreEvent_lawful (s : State) (i : Slot) (e : ScoreEvent) : Lawful s (s.scoreEvent i e) :=
  (s.weigh_loose i e).scoreChecks e _

theorem State.scoreWith_lawful (s : State) (i : Slot) (e : ScoreEvent) (f : State → State)
    (hf : ∀ t : State, (f t).view = t.view) : Lawful s (s.scoreWith i e f) :=
  ((s.weigh_loose i e).trans ((Lawful.of_view (hf _)).loose i)).scoreChecks e _

theorem State.alertAtAcceptance_lawful (s : State) (i : Slot) (p : Policy) : Lawful s (s.alertAtAcceptance i p) := by
  have halert : Lawful s (s.alignAlert i) := Lawful.of_view (s.alignAlert_view i)
  unfold State.alertAtAcceptance
  dsimp only
  split
  next h =>
    obtain ⟨-, -, hst⟩ := h
    refine halert.trans ((Lawful.of_view (State.modHm_view_same _ _ _ rfl rfl)).trans (State.fence_lawful _ i _ _ _ ?_))
    rw [State.modHm, State.modSlot_slot_self]
    exact hst.imp id Or.inl
  · exact halert

theorem State.acceptPolicy_lawful (s : State) (i : Slot) (p : Policy) (hp : p.sound) : Lawful s (s.acceptPolicy i p) := by
  have hview : (s.modSlot i fun r => { r with
      policy := some p, cs := { r.cs with attempts := min p.maxAttempts r.cs.attempts } }).view
        = Function.update s.view i { s.view i with policy := some p, attempts := min p.maxAttempts (s.view i).attempts } :=
    s.modSlot_view i _
  have hloose := (Loose.update hview (.single (Change.accept _ p hp))).trans (State.promote_loose _ i)
  obtain ⟨hl, hok⟩ := State.alignWatch_spec ((s.modSlot i fun r => { r with
      policy := some p, cs := { r.cs with attempts := min p.maxAttempts r.cs.attempts } }).promote i) i
  have halert := State.alertAtAcceptance_lawful (((s.modSlot i fun r => { r with
      policy := some p, cs := { r.cs with attempts := min p.maxAttempts r.cs.attempts } }).promote i).alignWatch i) i p
  unfold State.acceptPolicy
  dsimp only
  refine ((hloose.trans hl).trans (halert.loose i)).promote fun hs _ => ?_
  refine (halert i).watch ((hloose.trans hl).path.policySound hs) (hok fun hn => ?_)
  obtain ⟨t, ht⟩ := State.promote_frame (s.modSlot i fun r => { r with
      policy := some p, cs := { r.cs with attempts := min p.maxAttempts r.cs.attempts } }) i
  rw [ht, hview, Function.update_self] at hn
  simp at hn

end Sys2Proof.Machine
end

section
/-! PROOFS. The changes of an engine operation: its ends, its card accesses, and its host memory reads. -/

namespace Sys2Proof.Machine

open Sys2Proof

/-! ## The ends of an operation (R106) -/

/-- A RESTORE ends and the slot goes on to HELD. -/
theorem Moves.restoredHeld {v : View} (h : 0 < v.restores) :
    Moves v { v.enter .held with restores := v.restores - 1 } := by
  refine ⟨.single (Change.restored v h _ (Or.inl rfl)), fun _ => id, fun hs _ _ hn => absurd ?_ hn⟩
  exact (hs.traffic (by rw [hs.restoring h]; rfl)).2

theorem State.restoreUnusable_lawful (s : State) (i : Slot) (n : Nat) (h : s.se.current = some ⟨.restore, i⟩) :
    Lawful s (s.restoreUnusable i n) := by
  unfold State.restoreUnusable
  dsimp only
  refine Lawful.trans (Lawful.update (i := i) ?_ (Moves.restoredHeld (State.restores_pos h))) (State.seNext_lawful _)
  rw [State.onEntry_view, State.raise_view, State.enterHeld_view, State.seClear_view h]
  simp only [Function.update_idem, Function.update_self]
  rfl

theorem State.restoreDone_lawful (s : State) (i : Slot) (h : s.se.current = some ⟨.restore, i⟩) :
    Lawful s (s.restoreDone i) := by
  unfold State.restoreDone
  refine Lawful.trans (State.enterProbation_lawful (s := s) (fun j hj => ?_) ?_) (State.seNext_lawful _)
  · rw [State.seClear_view h, Function.update_of_ne hj]
    exact Moves.refl _
  · rw [State.seClear_view h, Function.update_self]
    exact Change.restored _ (State.restores_pos h) _ (Or.inr rfl)

theorem State.snapshotEnds_lawful (s : State) (i : Slot) (o : ActOutcome) (n : Nat) : Lawful s (s.snapshotEnds i o n) := by
  unfold State.snapshotEnds
  exact (s.seClear_lawful.trans (Lawful.of_view (State.endSnapshot_view _ _ _ _))).trans (State.seNext_lawful _)

theorem State.accessFailed_lawful (s : State) (i : Slot) (k : OpKind) (n : Nat) (h : s.se.current = some ⟨k, i⟩) :
    Lawful s (s.accessFailed i k n) := by
  cases k with
  | snapshot => exact s.snapshotEnds_lawful i _ _
  | restore =>
    refine Lawful.trans (Lawful.update (i := i) ?_ (Moves.fail (Or.inr (Or.inr (State.restores_pos h)))))
      (State.seNext_lawful _)
    rw [State.failAttempt_view, State.seClear_view h]
    simp only [Function.update_idem, Function.update_self]
    rfl

/-! ## Entries of the tag table -/

/-- Only which host tags are LIVE and FREE decides whether a tag can be taken. -/
theorem SlotRec.takeable_of_entries {r q : SlotRec} (hp : r.policy = q.policy) (hw : r.hm.watched = q.hm.watched)
    (hs : r.cs.state = q.cs.state)
    (ht : ∀ k, k ≠ engineTag → (r.tt.entry k).isLive = (q.tt.entry k).isLive ∧ (r.tt.entry k).isFree = (q.tt.entry k).isFree) :
    r.takeable = q.takeable := by
  have hne : ∀ k ∈ hostTags, k ≠ engineTag := by decide
  have hlive : r.tt.liveHost = q.tt.liveHost :=
    List.countP_congr fun k hk => by simp only [(ht k (hne k hk)).1]
  have hfree : r.tt.freeTag = q.tt.freeTag := List.find?_congr fun k hk => (ht k (hne k hk)).2
  unfold SlotRec.takeable SlotRec.limit SlotRec.pol
  rw [hp, hw, hs, hlive, hfree]

/-- A new entry that is as LIVE and as FREE as the old one, or one on the engine tag, changes nothing for host requests. -/
theorem Moves.entry {v : View} {k : Tag} {e : OrtEntry} (hc : Change v { v with tt := v.tt.setEntry k e })
    (h : (v.tt.entry k).belongs k → k = engineTag ∨ (e.isLive = (v.tt.entry k).isLive ∧ e.isFree = (v.tt.entry k).isFree)) :
    Moves v { v with tt := v.tt.setEntry k e } := by
  refine ⟨.single hc, fun _ => id, fun _ hb hv hn => ?_⟩
  refine (SlotRec.takeable_of_entries (r := View.record { v with tt := v.tt.setEntry k e }) (q := v.record) rfl rfl rfl
    fun l hl => ?_).trans (hv hn)
  by_cases hk : l = k
  · subst hk
    rcases h (hb l) with h | h
    · exact absurd h hl
    · simpa [View.record] using h
  · simp [View.record, TtRec.setEntry_ne _ _ _ _ hk]

theorem State.setEntry_view (s : State) (i : Slot) (k : Tag) (e : OrtEntry) :
    (s.setEntry i k e).view = Function.update s.view i { s.view i with tt := (s.view i).tt.setEntry k e } :=
  s.modSlot_view i _

/-! ## Card accesses (R16, R104) -/

theorem engineEntry_belongs (b : Bool) (d : Tick) : (engineEntry b d).belongs engineTag := by
  simp [engineEntry, OrtEntry.belongs]

/-- Whatever an access of the engine makes of tag 31, host requests do not see it. -/
theorem State.setEngine_lawful (s : State) (i : Slot) (e : OrtEntry) (h : e.belongs engineTag) :
    Lawful s (s.setEntry i engineTag e) :=
  Lawful.update (s.setEntry_view i engineTag e)
    (Moves.entry (Change.entry _ _ _ (fun _ => h) fun _ => Or.inr (Or.inl rfl)) fun _ => Or.inl rfl)

theorem State.offer_lawful (s : State) (i : Slot) (k : OpKind) (w : Option Dword) (h : s.se.current = some ⟨k, i⟩) :
    Lawful s (s.offer i k w) := by
  unfold State.offer
  dsimp only
  split
  · refine (s.setEngine_lawful i (engineEntry w.isSome (deadlineIn s.now (s.pol i).completionDeadline))
      (engineEntry_belongs _ _)).trans (Lawful.of_view ?_)
    rw [State.emit_eq, State.emits_view]
    exact State.view_congr rfl rfl rfl
  · exact s.accessFailed_lawful i k 4 h

/-- What SE holds apart from its operations is in no view. -/
theorem State.setSe_view (s : State) (e : SeRec) (h : e.ops = s.se.ops) : ({ s with se := e } : State).view = s.view :=
  State.view_congr rfl rfl h

theorem SeRec.copyNext_ops {e f : SeRec} (h : e.copyNext = some f) : f.current = e.current ∧ f.queue = e.queue := by
  unfold SeRec.copyNext at h
  split at h
  · cases h
    exact ⟨rfl, rfl⟩
  · split at h
    · cases h
      exact ⟨rfl, rfl⟩
    · cases h

theorem SeRec.restoreNext_ops {e f : SeRec} (h : e.restoreNext = some f) : f.current = e.current ∧ f.queue = e.queue := by
  unfold SeRec.restoreNext at h
  split at h
  · cases h
    exact ⟨rfl, rfl⟩
  · obtain ⟨q, -, hq⟩ := Option.map_eq_some_iff.mp h
    subst hq
    exact ⟨rfl, rfl⟩

theorem SeRec.ops_congr {e f : SeRec} (h : f.current = e.current ∧ f.queue = e.queue) : f.ops = e.ops := by
  rw [SeRec.ops, SeRec.ops, h.1, h.2]

/-- SE takes another position and offers the access there. -/
theorem State.offerAt_lawful (s : State) (e : SeRec) (i : Slot) (k : OpKind) (w : Option Dword)
    (he : e.current = s.se.current ∧ e.queue = s.se.queue) (h : s.se.current = some ⟨k, i⟩) :
    Lawful s (({ s with se := e } : State).offer i k w) :=
  (Lawful.of_view (s.setSe_view e (SeRec.ops_congr he))).trans (State.offer_lawful _ i k w (he.1.trans h))

theorem State.snapshotDone_lawful (s : State) (i : Slot) : Lawful s (s.snapshotDone i) := by
  unfold State.snapshotDone
  dsimp only
  exact (Lawful.of_view (State.seWrite_view _ _ _)).trans (State.snapshotEnds_lawful _ _ _ _)

theorem State.copyDword_lawful (s : State) (i : Slot) (d : Dword) (h : s.se.current = some ⟨.snapshot, i⟩) :
    Lawful s (s.copyDword i d) := by
  have hw : Lawful s (s.seWrite s.se.dataAddr (toLE 4 d.toNat)) := Lawful.of_view (State.seWrite_view _ _ _)
  unfold State.copyDword
  dsimp only
  split
  next e he => exact hw.trans (State.offerAt_lawful _ e i _ _ (SeRec.copyNext_ops he) h)
  next => exact hw.trans (State.snapshotDone_lawful _ i)

theorem State.nextWrite_lawful (s : State) (i : Slot) (h : s.se.current = some ⟨.restore, i⟩) :
    Lawful s (s.nextWrite i) := by
  unfold State.nextWrite
  split
  next e he => exact s.offerAt_lawful e i _ _ (SeRec.restoreNext_ops he) h
  next => exact s.restoreDone_lawful i h

theorem State.accessSucceeded_lawful (s : State) (i : Slot) (k : OpKind) (d : Dword) (h : s.se.current = some ⟨k, i⟩) :
    Lawful s (s.accessSucceeded i k d) := by
  unfold State.accessSucceeded
  split
  · exact s.copyDword_lawful i d h
  · split
    · exact s.offerAt_lawful { s.se with step := .verifyRead } i _ _ ⟨rfl, rfl⟩ h
    · exact s.nextWrite_lawful i h
  · split
    · exact s.nextWrite_lawful i h
    · exact s.accessFailed_lawful i _ _ h
  · exact Lawful.refl s

theorem State.accessResult_lawful (s : State) (i : Slot) (res : AccessResult) : Lawful s (s.accessResult i res) := by
  unfold State.accessResult
  split
  · exact Lawful.refl s
  next op hop =>
    split
    next h =>
      have hc : s.se.current = some ⟨op.kind, i⟩ := by rw [hop, ← h.1]
      cases res with
      | success d => exact s.accessSucceeded_lawful i _ d hc
      | nonSuccess => exact s.accessFailed_lawful i _ _ hc
      | timeout => exact s.accessFailed_lawful i _ _ hc
    · exact Lawful.refl s

/-! ## Host memory reads (R103, R107, R111) -/

theorem State.seReadError_lawful (s : State) (op : SeOp) (h : s.se.current = some op) : Lawful s (s.seReadError op) := by
  obtain ⟨k, i⟩ := op
  cases k with
  | snapshot => exact s.snapshotEnds_lawful i _ _
  | restore => exact s.restoreUnusable_lawful i _ h

theorem State.mapInvalid_lawful (s : State) (op : SeOp) (h : s.se.current = some op) : Lawful s (s.mapInvalid op) := by
  obtain ⟨k, i⟩ := op
  cases k with
  | snapshot => exact s.snapshotEnds_lawful i _ _
  | restore => exact s.restoreUnusable_lawful i _ h

/-- SE takes another step and reads for it. -/
theorem State.seReadAt_lawful (s : State) (e : SeRec) (i : Slot) (a : Addr) (n : Nat) (w : SeRead)
    (he : e.current = s.se.current ∧ e.queue = s.se.queue) : Lawful s (({ s with se := e } : State).seRead i a n w) :=
  Lawful.of_view ((State.seRead_view _ _ _ _ _).trans (s.setSe_view e (SeRec.ops_congr he)))

theorem State.headerRead_lawful (s : State) (op : SeOp) (b : List Byte) (h : s.se.current = some op) :
    Lawful s (s.headerRead op b) := by
  obtain ⟨k, i⟩ := op
  cases k with
  | snapshot => exact s.seReadAt_lawful _ _ _ _ _ ⟨rfl, rfl⟩
  | restore =>
    simp only [State.headerRead]
    split
    · exact s.seReadAt_lawful _ _ _ _ _ ⟨rfl, rfl⟩
    · exact s.restoreUnusable_lawful i _ h

theorem State.mapHeadRead_lawful (s : State) (op : SeOp) (b : List Byte) (h : s.se.current = some op) :
    Lawful s (s.mapHeadRead op b) := by
  unfold State.mapHeadRead
  split
  · exact Lawful.of_view (State.seRead_view _ _ _ _ _)
  · exact s.mapInvalid_lawful op h

theorem State.copyBegin_lawful (s : State) (i : Slot) (h : s.se.current = some ⟨.snapshot, i⟩) :
    Lawful s (s.copyBegin i) := by
  unfold State.copyBegin
  dsimp only
  exact Lawful.trans (Lawful.of_view (State.seWrite_view _ _ _))
    (State.offerAt_lawful (s.seWrite _ _) _ i _ _ ⟨rfl, rfl⟩ h)

theorem State.mapEntriesRead_lawful (s : State) (op : SeOp) (b : List Byte) (n : Nat) (h : s.se.current = some op) :
    Lawful s (s.mapEntriesRead op b n) := by
  unfold State.mapEntriesRead
  split
  · exact s.mapInvalid_lawful op h
  next m hm =>
    have ht : Lawful s { s with se := { s.se with map := m } } := Lawful.of_view (s.setSe_view _ rfl)
    obtain ⟨k, i⟩ := op
    cases k with
    | snapshot => exact ht.trans (State.copyBegin_lawful _ i h)
    | restore =>
      dsimp only
      split
      · exact s.seReadAt_lawful { s.se with map := m, step := .readData } _ _ _ _ ⟨rfl, rfl⟩
      · exact ht.trans (State.restoreUnusable_lawful _ i _ h)

theorem State.writeBackBegin_lawful (s : State) (i : Slot) (b : List Byte) (h : s.se.current = some ⟨.restore, i⟩) :
    Lawful s (s.writeBackBegin i b) := by
  unfold State.writeBackBegin
  dsimp only
  split
  · exact s.offerAt_lawful _ i _ _ ⟨rfl, rfl⟩ h
  · refine Lawful.trans (Lawful.of_view (s.setSe_view _ ?_)) (State.restoreDone_lawful _ i h)
    rfl

theorem State.shadowRead_lawful (s : State) (id : Nat) (res : ReadResult) : Lawful s (s.shadowRead id res) := by
  unfold State.shadowRead
  split
  next op r what hop hw =>
    split
    · split
      · exact s.seReadError_lawful op hop
      · cases what with
        | header => exact s.headerRead_lawful op _ hop
        | mapHead => exact s.mapHeadRead_lawful op _ hop
        | mapEntries c => exact s.mapEntriesRead_lawful op _ _ hop
        | data =>
          obtain ⟨k, i⟩ := op
          cases k with
          | snapshot => exact Lawful.refl s
          | restore => exact s.writeBackBegin_lawful i _ hop
    · exact Lawful.refl s
  · exact Lawful.refl s

theorem State.shadowReadLate_lawful (s : State) : Lawful s s.shadowReadLate := by
  unfold State.shadowReadLate
  split
  next op r what hop hw =>
    split
    · exact s.seReadError_lawful op hop
    · exact Lawful.refl s
  · exact Lawful.refl s

end Sys2Proof.Machine
end

section
/-! PROOFS. The changes of host requests, card traffic, completions and deadlines. -/

namespace Sys2Proof.Machine

open Sys2Proof

/-! ## Host requests (R4, R9, R10) -/

@[simp] theorem State.emit_view (s : State) (o : Output) : (s.emit o).view = s.view := State.view_congr rfl rfl rfl

@[simp] theorem State.discardOne_view (s : State) (i : Slot) : (s.modSlot i SlotRec.discardOne).view = s.view :=
  s.modSlot_view_same i _ rfl

/-- A tracked request takes a tag, waits, or is refused. -/
theorem State.track_lawful (s : State) (i : Slot) (q : Tracked) (h : (s.slot i).cs.state.tracks = true) :
    Lawful s (s.setSlot i ((s.slot i).track i q s.now).1) := by
  refine Lawful.update (s.setSlot_view i _) ?_
  unfold SlotRec.track
  dsimp only
  split
  next k hh hk =>
    have hc := Change.allocate (s.slot i) (s.view i).share (s.view i).restores k
      ⟨q, deadlineIn s.now (s.slot i).pol.completionDeadline⟩ (TtRec.freeTag_spec (SlotRec.takeable_spec hk).2).1 (Or.inl h)
    exact ⟨.single hc, fun _ => id, fun _ _ _ hn => absurd hh hn⟩
  next hnot =>
    split
    · refine ⟨.single (Change.hold (s.view i) ((s.slot i).tt.hold ++ [_]) fun ht => absurd ht (by simp [State.view_state, h])),
        fun _ => id, fun _ _ hw _ => ?_⟩
      have htake : (s.slot i).takeable = none := by
        by_cases hh : (s.slot i).tt.hold = []
        · cases hk : (s.slot i).takeable with
          | none => rfl
          | some k => exact absurd hk (hnot k hh)
        · refine (SlotRec.takeable_congr ?_ ?_ ?_ ?_).trans (hw hh) <;> rfl
      refine (SlotRec.takeable_congr ?_ ?_ ?_ ?_).trans htake <;> rfl
    · exact Moves.refl _

theorem disposition_track {st : SlotState} {r : HostRequest} (h : disposition st r = .track) : st.tracks = true := by
  unfold disposition at h
  cases r with
  | posted p => cases st <;> simp at h
  | nonPosted q => cases st <;> simp_all [SlotState.tracks]

theorem State.dispose_lawful (s : State) (i : Slot) (r : HostRequest) : Lawful s (s.dispose i r) := by
  unfold State.dispose
  cases r with
  | nonPosted q =>
    dsimp only
    split
    next h => exact (s.track_lawful i q (disposition_track h)).trans (Lawful.of_view (State.emits_view _ _))
    · exact Lawful.of_view (State.emit_view _ _)
    · exact Lawful.of_view (State.emit_view _ _)
  | posted p =>
    dsimp only
    split
    · exact Lawful.of_view (State.emit_view _ _)
    · exact Lawful.of_view (State.discardOne_view _ _)

theorem State.hostRequest_lawful (s : State) (r : HostRequest) : Lawful s (s.hostRequest r) := by
  unfold State.hostRequest
  split
  · exact s.dispose_lawful _ r
  · cases r with
    | nonPosted q => exact Lawful.of_view (State.emit_view _ _)
    | posted p => exact Lawful.refl s

/-! ## Card traffic (R121 to R131) -/

theorem State.blocked_lawful (s : State) (i : Slot) (a : Addr) (k n : Nat) : Lawful s (s.blocked i a k n) := by
  refine s.scoreWith_lawful i _ _ fun t => ?_
  dsimp only
  split
  · rfl
  · rw [State.modSlot_view_same _ _ _ rfl, State.raise_view]

theorem State.cardWrite_lawful (s : State) (i : Slot) (w : CardWrite) : Lawful s (s.cardWrite i w) := by
  unfold State.cardWrite
  split
  · exact Lawful.of_view (State.emit_view _ _)
  · exact Lawful.of_view (State.emit_view _ _)
  · split
    · exact Lawful.of_view (State.emit_view _ _)
    · exact s.blocked_lawful i _ _ _
  · exact Lawful.of_view (s.modSlot_view_same i _ rfl)
  · exact Lawful.refl s
  · exact Lawful.refl s

theorem State.cardRead_lawful (s : State) (i : Slot) (q : Requester) (a : Addr) (n : Nat) :
    Lawful s (s.cardRead i q a n) := by
  have hrefuse : Lawful s (s.emit (.refuseDown i q)) := Lawful.of_view (State.emit_view _ _)
  unfold State.cardRead
  split
  · split
    · exact Lawful.of_view (State.emit_view _ _)
    · split
      · exact Lawful.of_view (State.emit_view _ _)
      · exact hrefuse.trans (State.blocked_lawful _ i _ _ _)
    · exact hrefuse
    · exact hrefuse
  · exact hrefuse

theorem State.cardError_lawful (s : State) (i : Slot) (sev : Severity) : Lawful s (s.cardError i sev) := by
  unfold State.cardError
  split
  · exact Lawful.refl s
  · cases sev with
    | correctable => exact s.scoreEvent_lawful i _
    | nonfatal => exact s.scoreEvent_lawful i _
    | fatal =>
      dsimp only
      split
      · exact (Lawful.of_view (State.raise_view _ _ _ _ _ _)).trans (State.cardFence_lawful _ i _)
      · exact s.scoreWith_lawful i _ _ fun t => State.raise_view _ _ _ _ _ _

theorem State.cardRequest_lawful (s : State) (i : Slot) (r : CardRequest) : Lawful s (s.cardRequest i r) := by
  cases r with
  | write w => exact s.cardWrite_lawful i w
  | read q a n => exact s.cardRead_lawful i q a n
  | error sev => exact s.cardError_lawful i sev

@[simp] theorem State.hostCompletion_view (s : State) (c : HostCpl) : (s.hostCompletion c).view = s.view := by
  unfold State.hostCompletion
  split
  · rfl
  · split <;> simp

/-! ## Completions and deadlines (R12 to R20) -/

/-- A tag is FREE or STALE from now on. -/
theorem State.setEntry_loose (s : State) (i : Slot) (k : Tag) (e : OrtEntry)
    (hb : ((s.slot i).tt.entry k).belongs k → e.belongs k) (he : e.isLive = false) : Loose i s (s.setEntry i k e) :=
  Loose.update (s.setEntry_view i k e) (.single (Change.entry _ _ _ hb fun h => by simp [he] at h))

/-- An entry that is as LIVE and as FREE as before, or is the engine's. -/
theorem State.setEntry_lawful (s : State) (i : Slot) (k : Tag) (e : OrtEntry)
    (hb : ((s.slot i).tt.entry k).belongs k → e.belongs k)
    (hl : e.isLive = true → ((s.slot i).tt.entry k).isLive = true)
    (h : ((s.slot i).tt.entry k).belongs k → k = engineTag
      ∨ (e.isLive = ((s.slot i).tt.entry k).isLive ∧ e.isFree = ((s.slot i).tt.entry k).isFree)) :
    Lawful s (s.setEntry i k e) :=
  Lawful.update (s.setEntry_view i k e) (Moves.entry (Change.entry _ _ _ hb fun he => Or.inl (hl he)) h)

/-- The final completion of a host request frees its tag, and TT promotes. -/
theorem State.freeEntry_lawful (s : State) (o : Output) (i : Slot) (k : Tag) :
    Lawful s (((s.emit o).setEntry i k .free).promote i) := by
  refine (Lawful.of_view (s.emit_view o)).trans (Loose.promote (State.setEntry_loose _ i k _ (fun _ => trivial) rfl) ?_)
  rw [State.setEntry_view, Function.update_self]
  exact fun _ => id

/-- A tag that is no longer LIVE, the score of its event, and the promotion after it. -/
theorem State.scoredEntry_lawful (s : State) (i : Slot) (k : Tag) (e : OrtEntry) (v : ScoreEvent)
    (hb : ((s.slot i).tt.entry k).belongs k → e.belongs k) (he : e.isLive = false) :
    Lawful s (((s.setEntry i k e).scoreEvent i v).promote i) := by
  have hscore := State.scoreEvent_lawful (s.setEntry i k e) i v
  refine ((s.setEntry_loose i k e hb he).trans (hscore.loose i)).promote fun hp hv => (hscore i).watch ?_ ?_ <;>
    rw [State.setEntry_view, Function.update_self]
  · exact hp
  · exact hv

theorem State.hostCompletes_lawful (s : State) (i : Slot) (k : Tag) (f : OrtFields) (q : Requester) (c : CardCpl)
    (h : (s.slot i).tt.entry k = .live f) : Lawful s (s.hostCompletes i k f q c) := by
  unfold State.hostCompletes
  split
  · exact (s.freeEntry_lawful _ i k).trans (State.scoreEvent_lawful _ i _)
  · split
    · refine (Lawful.of_view (s.emit_view _)).trans (State.setEntry_lawful _ i k _ ?_ ?_ ?_) <;>
        rw [State.emit_eq, State.emits_slot, h]
      · exact id
      · exact id
      · exact fun _ => Or.inr ⟨rfl, rfl⟩
    · dsimp only
      split
      · exact ((s.freeEntry_lawful _ i k).trans (State.scoreEvent_lawful _ i _)).trans (State.countSuccess_lawful _ i)
      · exact (s.freeEntry_lawful _ i k).trans (State.scoreEvent_lawful _ i _)

theorem State.engineEvent_lawful (s : State) (i : Slot) (b : Bool) (e : ScoreEvent) (res : AccessResult) :
    Lawful s (s.engineEvent i b e res) := by
  unfold State.engineEvent
  dsimp only
  split
  · exact Loose.scoreChecks ((s.weigh_loose i e).trans ((State.accessResult_lawful _ i res).loose i)) e _
  · exact (Loose.scoreChecks (s.weigh_loose i e) e _).trans (State.accessResult_lawful _ i res)

/-- The engine's tag is no longer LIVE. -/
theorem State.engineEntry_lawful (s : State) (i : Slot) (k : Tag) (f : OrtFields) (e : OrtEntry)
    (h : (s.slot i).tt.entry k = .live f) (hf : f.origin = .engine)
    (hb : (OrtEntry.live f).belongs k → e.belongs k) (he : e.isLive = false) : Lawful s (s.setEntry i k e) := by
  refine s.setEntry_lawful i k e (h ▸ hb) (fun hl => by simp [he] at hl) fun hk => Or.inl ?_
  rw [h] at hk
  exact hk.mp hf

theorem State.engineCompletes_lawful (s : State) (i : Slot) (k : Tag) (f : OrtFields) (c : CardCpl) (b : Bool)
    (h : (s.slot i).tt.entry k = .live f) (hf : f.origin = .engine) : Lawful s (s.engineCompletes i k f c b) := by
  have hfree : Lawful s (s.setEntry i k .free) := s.engineEntry_lawful i k f _ h hf (fun _ => trivial) rfl
  unfold State.engineCompletes
  dsimp only
  split
  · exact hfree.trans (State.engineEvent_lawful _ i _ _ _)
  · split
    · exact (hfree.trans (Lawful.of_view (State.view_congr rfl rfl rfl))).trans
        (State.accessResult_lawful { s.setEntry i k .free with free := (s.setEntry i k .free).free + 4 } i _)
    · exact hfree.trans (State.engineEvent_lawful _ i _ _ _)

theorem State.lateCompletes_lawful (s : State) (i : Slot) (k : Tag) : Lawful s (s.lateCompletes i k) := by
  have hlate := s.scoredEntry_lawful i k .free .late (fun _ => trivial) rfl
  unfold State.lateCompletes
  dsimp only
  split
  next h => exact hlate.trans (State.drainEnd_lawful _ i h.1)
  next => exact hlate

theorem State.cardCompletion_lawful (s : State) (i : Slot) (n : Nat) (c : CardCpl) (b : Bool) :
    Lawful s (s.cardCompletion i n c b) := by
  unfold State.cardCompletion
  split
  · dsimp only
    split
    · exact s.scoreEvent_lawful i _
    · exact s.lateCompletes_lawful i _
    next f hf =>
      split
      · exact s.hostCompletes_lawful i _ f _ c hf
      next ho => exact s.engineCompletes_lawful i _ f c b hf ho
  · exact s.scoreEvent_lawful i _

theorem State.deadlineExpiry_lawful (s : State) (i : Slot) (k : Tag) (b : Bool) : Lawful s (s.deadlineExpiry i k b) := by
  unfold State.deadlineExpiry
  split
  next f hf =>
    split
    · split
      · refine (Lawful.of_view (s.emit_view _)).trans (State.scoredEntry_lawful _ i k (.stale f) _ ?_ rfl)
        rw [State.emit_eq, State.emits_slot, hf]
        exact id
      next ho =>
        exact (s.engineEntry_lawful i k f (.stale f) hf ho id rfl).trans (State.engineEvent_lawful _ i _ _ _)
    · exact Lawful.refl s
  · exact Lawful.refl s

theorem State.heldExpiry_lawful (s : State) (i : Slot) (q : Requester) : Lawful s (s.heldExpiry i q) := by
  unfold State.heldExpiry
  split
  next h hh =>
    split
    · have hview := s.modSlot_view i fun r => r.setTt { r.tt with hold := r.tt.hold.erase h }
      have hnil : (s.slot i).tt.hold = [] → (s.slot i).tt.hold.erase h = [] := fun hn => by rw [hn]; rfl
      have hwait : (s.view i).waits → View.waits { s.view i with tt :=
          { (s.view i).tt with hold := (s.slot i).tt.hold.erase h } } := fun hv hn =>
        (SlotRec.takeable_congr (q := (s.view i).record) rfl rfl rfl rfl).trans (hv fun hv0 => hn (hnil hv0))
      exact (Lawful.update hview ⟨.single (Change.hold _ _ fun _ => hnil), fun _ => id, fun _ _ => hwait⟩).trans
        (Lawful.of_view (State.emit_view _ _))
    · exact Lawful.refl s
  · exact Lawful.refl s

end Sys2Proof.Machine
end

section
/-! PROOFS. The bleed shares of RM and the end of a bleed. -/

namespace Sys2Proof.Machine

open Sys2Proof

/-! ## Bleed shares (R89 to R94) -/

/-- Which slots have a bleed share. -/
def RmRec.bleeds (m : RmRec) : Slot → Bool := fun j => (m.req j).bleed

theorem RmRec.setReq_bleeds (m : RmRec) (i : Slot) (q : RailReq) :
    (m.setReq i q).bleeds = Function.update m.bleeds i q.bleed := by
  funext j
  by_cases hj : j = i
  · subst hj
    simp [RmRec.bleeds]
  · rw [Function.update_of_ne hj, RmRec.bleeds, RmRec.setReq_ne _ _ _ _ hj]
    rfl

theorem RmRec.setReq_bleeds_same (m : RmRec) (i : Slot) (q : RailReq) (h : q.bleed = (m.req i).bleed) :
    (m.setReq i q).bleeds = m.bleeds := by
  rw [RmRec.setReq_bleeds, h]
  exact Function.update_eq_self _ _

theorem RmRec.serve_bleeds (m : RmRec) (i : Slot) : (m.serve i).bleeds = m.bleeds := by
  have h := m.setReq_bleeds_same i { m.req i with state := .inService } rfl
  unfold RmRec.serve
  dsimp only
  split <;> exact h

theorem RmRec.arbitrate_bleeds (m : RmRec) : m.arbitrate.bleeds = m.bleeds := by
  unfold RmRec.arbitrate
  split
  · split
    · exact m.serve_bleeds _
    · rfl
  · rfl

theorem RmRec.place_bleeds (m : RmRec) (i : Slot) (k : Share) :
    (m.place i k).bleeds = Function.update m.bleeds i ((m.req i).setShare k true).bleed := by
  unfold RmRec.place
  dsimp only
  split
  · rw [RmRec.arbitrate_bleeds, RmRec.setReq_bleeds]
  · exact m.setReq_bleeds i _
  · exact m.setReq_bleeds i _

theorem RmRec.withdraw_bleeds (m : RmRec) (i : Slot) (k : Share) :
    (m.withdraw i k).bleeds = Function.update m.bleeds i ((m.req i).setShare k false).bleed := by
  unfold RmRec.withdraw
  dsimp only
  split
  · split
    · exact m.setReq_bleeds i _
    next h =>
      rw [RmRec.setReq_bleeds]
      congr 1
      simp only [Bool.or_eq_true, not_or, Bool.not_eq_true] at h
      exact h.1.symm
  · exact m.setReq_bleeds i _
  · exact m.setReq_bleeds i _

theorem RmRec.endService_bleeds (m : RmRec) (i : Slot) :
    (m.endService i).bleeds = Function.update m.bleeds i false := by
  unfold RmRec.endService
  rw [RmRec.arbitrate_bleeds]
  exact m.setReq_bleeds i RailReq.none

/-- A new record of RM shows in the bleed shares alone. -/
theorem State.setRm_view {s : State} {m : RmRec} {i : Slot} {b : Bool} (h : m.bleeds = Function.update s.rm.bleeds i b) :
    (s.setRm m).view = Function.update s.view i { s.view i with share := b } := by
  funext j
  have hj := congrFun h j
  by_cases hji : j = i
  · subst hji
    rw [Function.update_self] at hj ⊢
    have hview : (s.setRm m).view j = { s.view j with share := m.bleeds j } := rfl
    rw [hview, hj]
  · rw [Function.update_of_ne hji] at hj ⊢
    have hview : (s.setRm m).view j = { s.view j with share := m.bleeds j } := rfl
    rw [hview, hj]
    rfl

theorem State.setRm_view_same {s : State} {m : RmRec} (h : m.bleeds = s.rm.bleeds) : (s.setRm m).view = s.view := by
  funext j
  have hview : (s.setRm m).view j = { s.view j with share := m.bleeds j } := rfl
  rw [hview, h]
  rfl

theorem State.placeBleed_view (s : State) (i : Slot) :
    (s.placeShare i .bleed).view = Function.update s.view i { s.view i with share := true } :=
  State.setRm_view (s.rm.place_bleeds i .bleed)

@[simp] theorem State.placeSample_view (s : State) (i : Slot) : (s.placeShare i .sample).view = s.view :=
  State.setRm_view_same ((s.rm.place_bleeds i .sample).trans (Function.update_eq_self _ _))

theorem State.withdrawBleed_view (s : State) (i : Slot) :
    (s.withdrawShare i .bleed).view = Function.update s.view i { s.view i with share := false } :=
  State.setRm_view (s.rm.withdraw_bleeds i .bleed)

@[simp] theorem State.withdrawSample_view (s : State) (i : Slot) : (s.withdrawShare i .sample).view = s.view :=
  State.setRm_view_same ((s.rm.withdraw_bleeds i .sample).trans (Function.update_eq_self _ _))

@[simp] theorem State.serviceEnds_view (s : State) (i : Slot) :
    (s.serviceEnds i).view = Function.update s.view i { s.view i with share := false } :=
  State.setRm_view (s.rm.endService_bleeds i)

theorem Moves.unshare (v : View) : Moves v { v with share := false } :=
  (Change.unshare v).moves_apart rfl rfl rfl rfl rfl

theorem State.settlingEnds_lawful (s : State) : Lawful s s.settlingEnds := by
  unfold State.settlingEnds
  split
  · split
    · unfold RmRec.endSettling
      split
      · exact Lawful.of_view (State.setRm_view_same rfl)
      · exact Lawful.update (s.serviceEnds_view _) (Moves.unshare _)
    · exact Lawful.refl s
  · exact Lawful.refl s

theorem State.bleedTimer_lawful (s : State) (i : Slot) : Lawful s (s.bleedTimer i) := by
  unfold State.bleedTimer
  split
  next h =>
    simp only [PruRec.ends, Bool.and_eq_true, decide_eq_true_eq] at h
    refine Lawful.update (i := i) (w := { s.view i with phase := .bleedCheck, share := true }) ?_
      ((Change.check _ h.1).moves_apart rfl rfl rfl rfl rfl)
    rw [State.placeBleed_view, State.modPru_view]
    simp only [Function.update_idem, Function.update_self]
    rfl
  · exact Lawful.refl s

/-! ## The end of a bleed (R49, R81 to R83) -/

/-- Only slot `i` has changed, and its change is a move once its bleed share is withdrawn. -/
def BleedMoves (i : Slot) (s t : State) : Prop :=
  ∃ w, t.view = Function.update s.view i w ∧ Moves (s.view i) { w with share := false }

theorem BleedMoves.serviceEnds {i : Slot} {s t : State} (h : BleedMoves i s t) : Lawful s (t.serviceEnds i) := by
  obtain ⟨w, hw, hm⟩ := h
  refine Lawful.update (i := i) ?_ hm
  rw [State.serviceEnds_view, hw]
  simp only [Function.update_idem, Function.update_self]

theorem Moves.bled {v : View} (h : v.share = true) : Moves v v.bled :=
  (Change.bled v h).moves_untracked rfl rfl rfl rfl

theorem Moves.bledRetired {v : View} (h : v.share = true) : Moves v (v.bled.enter .retired) :=
  (Moves.bled h).trans (Moves.retire rfl)

theorem State.endBleed_view (s : State) (i : Slot) :
    (s.modPru i PruRec.endBleed).view = Function.update s.view i { s.view i with bleed := false, phase := .idle } :=
  s.modPru_view i _

/-- A retry at the end of a bleed is within the maximum (R51). -/
theorem attemptsWithin_retry {r : SlotRec} {n : Nat} (h : attemptsWithin r.policy n) :
    attemptsWithin r.policy (min r.pol.maxAttempts (n + 1)) := by
  unfold SlotRec.pol
  cases hp : r.policy with
  | none => simp [attemptsWithin, Policy.blank]
  | some p =>
    rw [hp] at h
    exact ⟨Nat.min_le_left _ _, h.2⟩

/-- Power-up at the end of a bleed, the attempts counted. -/
theorem State.bledUp_moves {s u : State} {i : Slot} {n : Nat} (h : (s.view i).share = true)
    (hu : u.view = Function.update s.view i { s.view i with attempts := n, bleed := false, phase := .idle })
    (ha : attemptsWithin (s.view i).policy (s.view i).attempts → attemptsWithin (s.view i).policy n) :
    BleedMoves i s (u.powerUp i) := by
  have hm : Moves (s.view i) (View.bled { s.view i with attempts := n }) :=
    (Moves.attempts n ha).trans (Moves.bled h)
  refine ⟨if (u.slot i).sense.pgAcc then (u.view i).up.dropped.shut else (u.view i).up, ?_,
    (hm.trans (Moves.powerUp (Or.inl rfl) (u.slot i).sense.pgAcc)).trans (Moves.of_eq ?_)⟩
  · rw [State.powerUp_view, hu]
    simp only [Function.update_idem]
  · rw [hu, Function.update_self]
    cases (u.slot i).sense.pgAcc <;> rfl

theorem State.bleedEnd_moves {s u : State} {i : Slot} (h : (s.view i).share = true)
    (hu : u.view = Function.update s.view i { s.view i with bleed := false, phase := .idle })
    (hs : u.slot i = { s.slot i with pru := (u.slot i).pru }) : BleedMoves i s (u.bleedEnd i) := by
  have hpol : u.pol i = (s.slot i).pol := by
    rw [State.pol, hs]
    rfl
  have hcs : (u.slot i).cs = (s.slot i).cs := by rw [hs]
  unfold State.bleedEnd
  dsimp only
  split
  · refine ⟨{ (s.view i).enter .retired with bleed := false, phase := .idle }, ?_, Moves.bledRetired h⟩
    rw [State.retireFromBleed_view, hu]
    simp only [Function.update_idem, Function.update_self]
    rfl
  · refine ⟨{ (s.view i).enter .off with bleed := false, phase := .idle }, ?_, Moves.bled h⟩
    rw [State.onEntry_view, State.modCs_view_same _ _ _ rfl rfl, State.enter_view, hu]
    simp only [Function.update_idem, Function.update_self]
    rfl
  · split
    · refine State.bledUp_moves (n := min (s.slot i).pol.maxAttempts ((s.slot i).cs.attempts + 1)) h ?_ attemptsWithin_retry
      rw [State.modCs_view _ _ _ rfl, hu, hpol, hcs]
      simp only [Function.update_idem, Function.update_self]
    · exact State.bledUp_moves (n := (s.view i).attempts) h hu id

theorem State.bleedResult_moves (s : State) (i : Slot) (mv : Nat) (h : (s.view i).share = true) :
    BleedMoves i s (s.bleedResult i mv) := by
  have hread : (s.modPru i fun q => { q with lastReading := mv }).view = s.view := by
    rw [State.modPru_view]
    exact Function.update_eq_self _ _
  have hend : ((s.modPru i fun q => { q with lastReading := mv }).modPru i PruRec.endBleed).view
      = Function.update s.view i { s.view i with bleed := false, phase := .idle } := by
    rw [State.endBleed_view, hread]
  unfold State.bleedResult
  dsimp only
  split
  · refine State.bleedEnd_moves h hend ?_
    simp
  · split
    · refine ⟨{ s.view i with phase := .bleedWait }, ?_, (Change.recheck _ h).moves_apart rfl rfl rfl rfl rfl⟩
      rw [State.modPru_view, hread]
      simp
      rfl
    · refine ⟨{ (s.view i).enter .retired with bleed := false, phase := .idle }, ?_, Moves.bledRetired h⟩
      rw [State.retireFromBleed_view, State.raise_view, hend]
      simp only [Function.update_idem, Function.update_self]
      rfl

@[simp] theorem State.sampleResult_view (s : State) (i : Slot) (mv : Nat) : (s.sampleResult i mv).view = s.view := by
  unfold State.sampleResult
  dsimp only
  split
  · exact State.endEntry_view _ _ _ _
  · rfl

theorem State.handReading_moves (s : State) (i : Slot) (mv : Nat) : BleedMoves i s (s.handReading i mv) := by
  have hsample : ∀ t : State, BleedMoves i s t → BleedMoves i s (if (s.rm.req i).sample then t.sampleResult i mv else t) := by
    rintro t ⟨w, hw, hm⟩
    refine ⟨w, ?_, hm⟩
    split
    · rw [State.sampleResult_view, hw]
    · exact hw
  unfold State.handReading
  dsimp only
  apply hsample
  split
  next h => exact s.bleedResult_moves i mv h
  next => exact ⟨s.view i, (Function.update_eq_self _ _).symm, Moves.unshare _⟩

end Sys2Proof.Machine
end

section
/-! PROOFS. The changes of actions and plans, and of presence, attention, power-good and the link reports. -/

namespace Sys2Proof.Machine

open Sys2Proof

/-! ## Actions (R144 to R160) -/

theorem State.view_policy (s : State) (i : Slot) : (s.view i).policy = (s.slot i).policy := rfl

/-- An action that passes its checks is accepted in the slot state, and has a policy where it needs one. -/
theorem SlotRec.check_ok {r : SlotRec} {e : ActEntry} {own : Bool} {c : ActCode} (h : r.check e own = .ok c) :
    c.accepts r.cs.state = true ∧ (c = .loadPolicy ∨ c = .readSlot ∨ r.policy ≠ none) := by
  unfold SlotRec.check at h
  split at h
  · cases h
  next d hd =>
    split at h
    · cases h
    next hpol =>
      split at h
      · cases h
      · split at h
        · cases h
        · split at h
          · cases h
          next hacc =>
            cases h
            refine ⟨by simpa using hacc, ?_⟩
            by_contra hn
            simp only [not_or, not_not] at hn
            obtain ⟨hl, hr, hp⟩ := hn
            simp [hl, hr, hp] at hpol

theorem State.startFence_lawful (s : State) (i : Slot) (e : ActEntry)
    (h : ActCode.fence.accepts (s.slot i).cs.state = true) (hp : (s.slot i).policy ≠ none) : Lawful s (s.startFence i e) := by
  unfold State.startFence
  split
  · split
    · exact Lawful.of_view (State.endEntry_view _ _ _ _)
    · exact s.recoverAction_lawful i _ hp
  next hst =>
    refine s.fence_lawful i _ _ _ ?_
    cases hs : (s.slot i).cs.state <;> simp_all [ActCode.accepts, SlotState.fenceable]

theorem State.startPowerOff_lawful (s : State) (i : Slot) : Lawful s (s.startPowerOff i) := by
  unfold State.startPowerOff
  split
  · exact Lawful.of_view (State.endEntry_view _ _ _ _)
  · exact Lawful.of_view (State.endEntry_view _ _ _ _)
  · exact s.powerDown_lawful i _ _

theorem State.startRetire_lawful (s : State) (i : Slot) : Lawful s (s.startRetire i) := by
  unfold State.startRetire
  split
  next h =>
    refine Lawful.update (i := i) ?_ (Moves.retire h)
    rw [State.endEntry_view, State.enterRetired_view, State.setTrigger_view]
  · exact Lawful.of_view (State.endEntry_view _ _ _ _)
  · exact s.powerDown_lawful i _ _

theorem State.startAdmit_lawful (s : State) (i : Slot) (h : (s.slot i).cs.state = .held) : Lawful s (s.startAdmit i) :=
  (State.enterProbation_lawful (fun _ _ => Moves.refl _) (Change.trial (s.view i) h)).trans
    (Lawful.of_view (State.endEntry_view _ _ _ _))

theorem State.startRelease_lawful (s : State) (i : Slot) (h : (s.slot i).cs.state = .probation) :
    Lawful s (s.startRelease i) :=
  (s.probationEnd_lawful i h).trans (Lawful.of_view (State.endEntry_view _ _ _ _))

/-- A new operation shows in the views where it is a RESTORE. -/
theorem State.seRequest_ops_count (s : State) (op q : SeOp) :
    (s.seRequest op).se.ops.count q = s.se.ops.count q + if op = q then 1 else 0 := by
  unfold State.seRequest
  split
  next h =>
    rw [State.seBegin_ops]
    simp [SeRec.ops, h, List.count_cons]
  next o h => simp [SeRec.ops, List.count_cons, Nat.add_assoc]

theorem State.seRequest_slots (s : State) (op : SeOp) :
    (s.seRequest op).slots = s.slots ∧ (s.seRequest op).rm = s.rm := by
  unfold State.seRequest
  split <;> exact ⟨rfl, rfl⟩

theorem State.startSnapshot_lawful (s : State) (i : Slot) : Lawful s (s.startSnapshot i) :=
  Lawful.of_fewer (s.seRequest_slots _).1 (s.seRequest_slots _).2 fun j => by
    rw [State.startSnapshot, State.seRequest_ops_count]
    simp

@[simp] theorem State.startLoadPolicy_view (s : State) (i : Slot) : (s.startLoadPolicy i).view = s.view := by
  unfold State.startLoadPolicy
  split
  · rw [State.issueRead_view, State.setAd_view]
  · rfl

theorem State.run_lawful (s : State) (i : Slot) (e : ActEntry) (c : ActCode) (h : c.accepts (s.slot i).cs.state = true)
    (hp : c = .loadPolicy ∨ c = .readSlot ∨ (s.slot i).policy ≠ none) : Lawful s (s.run i e c) := by
  cases c with
  | fence => exact s.startFence_lawful i e h (by simpa using hp)
  | recover => exact s.recoverAction_lawful i _ (by simpa using hp)
  | powerOn => exact s.bringUp_lawful i _ (by simpa [ActCode.accepts] using h)
  | powerOff => exact s.startPowerOff_lawful i
  | retire => exact s.startRetire_lawful i
  | admitSlot => exact s.startAdmit_lawful i (by simpa [ActCode.accepts] using h)
  | release => exact s.startRelease_lawful i (by simpa [ActCode.accepts] using h)
  | snapshot => exact s.startSnapshot_lawful i
  | loadPolicy => exact Lawful.of_view (s.startLoadPolicy_view i)
  | readSlot => exact Lawful.of_view (State.endEntry_view _ _ _ _)
  | railSample => exact Lawful.of_view (s.placeSample_view i)

/-! ## Overtaking and plans (R158 to R160) -/

/-- Overtaking withdraws a SNAPSHOT or a sample share: of the slot's view it leaves everything but the RESTOREs. -/
theorem State.overtake_lawful (s : State) (i : Slot) :
    Lawful s (s.overtake i) ∧ ∃ n, (s.overtake i).view i = { s.view i with restores := n } := by
  have hdrop : Lawful s (s.seDrop i) :=
    Lawful.update (s.seDrop_view i) ((Change.drop (s.view i) 0 (Nat.zero_le _)).moves_apart rfl rfl rfl rfl rfl)
  unfold State.overtake
  dsimp only
  rw [Lawful, State.endEntry_view]
  have hshare : ∀ t : State, (if (s.slot i).ad.runs .railSample then t.withdrawShare i .sample else t).view = t.view := by
    intro t
    split
    · exact t.withdrawSample_view i
    · rfl
  rw [hshare]
  split
  · exact ⟨hdrop, 0, by rw [State.seDrop_view, Function.update_self]; rfl⟩
  · exact ⟨Lawful.refl s, (s.view i).restores, rfl⟩

theorem State.overtakeByPress_lawful (s : State) (i : Slot) :
    Lawful s (s.overtakeByPress i) ∧ ∃ n, (s.overtakeByPress i).view i = { s.view i with restores := n } := by
  unfold State.overtakeByPress
  dsimp only
  split
  · have hview : ((s.skipAll i (s.slot i).ad.remaining).setAd i { (s.slot i).ad with remaining := [] }).view = s.view := by
      rw [State.setAd_view, State.skipAll_view]
    exact ⟨Lawful.of_view hview, (s.view i).restores, by rw [hview]⟩
  · exact s.overtake_lawful i

/-- An action that has passed its checks on the record, in a state whose slot has kept what they read. -/
theorem State.run_lawful_of_view {s u : State} {i : Slot} {e : ActEntry} {own : Bool} {c : ActCode} {n : Nat}
    (hc : (s.slot i).check e own = .ok c) (hu : u.view i = { s.view i with restores := n }) : Lawful u (u.run i e c) := by
  obtain ⟨hacc, hpol⟩ := SlotRec.check_ok hc
  have hst : (u.slot i).cs.state = (s.slot i).cs.state := congrArg View.state hu
  have hp : (u.slot i).policy = (s.slot i).policy := congrArg View.policy hu
  exact u.run_lawful i e c (by rw [hst]; exact hacc) (by rw [hp]; exact hpol)

theorem State.startNext_lawful (s : State) (i : Slot) : Lawful s (s.startNext i) := by
  unfold State.startNext
  dsimp only
  split
  · split
    · exact Lawful.of_view (by rw [State.endEntry_view, State.setAd_view])
    next c hc =>
      refine (Lawful.of_view (State.setAd_view _ _ _)).trans (State.run_lawful_of_view (n := (s.view i).restores) hc ?_)
      rw [State.setAd_view]
  · exact Lawful.refl s

theorem State.runPlan_lawful (i : Slot) (n : Nat) (s : State) : Lawful s (State.runPlan i n s) := by
  induction n generalizing s with
  | zero => exact Lawful.refl s
  | succ n ih => exact (s.startNext_lawful i).trans (ih _)

theorem State.settle_lawful (s : State) (i : Slot) : Lawful s (s.settle i) := State.runPlan_lawful i _ s

theorem Lawful.close {s t : State} (h : Lawful s t) (i : Slot) : Lawful s (t.close i) :=
  (h.trans (t.settle_lawful i)).trans (Lawful.of_view (State.align_view _))

theorem Lawful.align {s t : State} (h : Lawful s t) : Lawful s t.align := h.trans (Lawful.of_view t.align_view)

theorem State.passEntries_lawful (s : State) (i : Slot) (occ : Occupant) (e : ActEntry) (rest : List ActEntry) :
    Lawful s (s.passEntries i occ e rest) := by
  unfold State.passEntries
  split
  · exact Lawful.of_view (by rw [State.skipAll_view, State.giveBack_view])
  next c hc =>
    have htake : Lawful s (if (s.slot i).ad.occupant = .none then s else s.overtake i)
        ∧ ∃ n, (if (s.slot i).ad.occupant = .none then s else s.overtake i).view i = { s.view i with restores := n } := by
      split
      · exact ⟨Lawful.refl s, (s.view i).restores, rfl⟩
      · exact s.overtake_lawful i
    obtain ⟨htake, n, hn⟩ := htake
    dsimp only
    refine ((htake.trans (Lawful.of_view (State.setAd_view _ _ _))).trans
      (State.run_lawful_of_view (n := n) hc ?_)).trans (State.settle_lawful _ i)
    rw [State.setAd_view, hn]

theorem State.alone_lawful (s : State) (i : Slot) (code : BitVec 8) (a : ActionArgs) : Lawful s (s.alone i code a) := by
  unfold State.alone
  split
  · exact Lawful.align ((Lawful.of_view (State.takeEntries_view _ _)).trans (State.passEntries_lawful _ i _ _ _))
  · exact Lawful.refl s

/-! ## The ends of LOAD_POLICY (R155) -/

theorem State.policyReadEnds_lawful (s : State) (i : Slot) (b : Option (List Byte)) : Lawful s (s.policyReadEnds i b) := by
  unfold State.policyReadEnds
  split
  · exact Lawful.of_view (State.endEntry_view _ _ _ _)
  · split
    · exact Lawful.of_view (State.endEntry_view _ _ _ _)
    · split
      next p hp =>
        obtain ⟨-, hs, -⟩ := (s.checkPolicy_iff i _ p).1 hp
        exact (s.acceptPolicy_lawful i p hs).trans (Lawful.of_view (State.endEntry_view _ _ _ _))
      · exact Lawful.of_view (State.endEntry_view _ _ _ _)

theorem State.loadPolicyRead_lawful (s : State) (i : Slot) (id : Nat) (res : ReadResult) :
    Lawful s (s.loadPolicyRead i id res) := by
  unfold State.loadPolicyRead
  split
  · split
    · exact (s.policyReadEnds_lawful i _).close i
    · exact Lawful.refl s
  · exact Lawful.refl s

theorem State.loadPolicyLate_lawful (s : State) (i : Slot) : Lawful s (s.loadPolicyLate i) := by
  unfold State.loadPolicyLate
  split
  · split
    · exact (s.policyReadEnds_lawful i _).close i
    · exact Lawful.refl s
  · exact Lawful.refl s

/-! ## Presence (R62, R63) -/

theorem State.presenceLost_lawful (s : State) (i : Slot) : Lawful s (s.presenceLost i) := by
  unfold State.presenceLost
  split
  · exact Lawful.refl s
  · dsimp only
    refine Lawful.update (i := i) (w := (s.view i).lost) ?_ ((Change.lose _).moves_untracked rfl rfl rfl rfl)
    rw [State.raise_view, State.loseCard_view, State.modCs_view_same _ _ _ rfl rfl, State.enter_view,
      State.withdrawBleed_view, State.resetAssertion_view, State.modPru_view, State.emptyHeader_view, State.seDrop_view,
      State.presenceWork_view]
    simp only [Function.update_idem, Function.update_self]
    rfl

/-- A slot that presence has just reached. -/
def View.gained (v : View) : View := { (v.enter .off).cleared with bleed := false, attempts := 0 }

theorem Moves.gain {v : View} (h : v.state = .empty) : Moves v v.gained := by
  have hpath : Path v v.gained :=
    ((Relation.ReflTransGen.single (Change.gain v h)).tail (Change.clear _)).tail (Change.attempts _ 0 attemptsWithin_zero)
  exact ⟨hpath, fun hp _ => View.cleared_watchOk (v := { v.enter .off with bleed := false, attempts := 0 }) hp,
    fun hs _ _ => (hpath.sound hs).waits rfl⟩

theorem State.presenceGained_lawful (s : State) (i : Slot) : Lawful s (s.presenceGained i) := by
  unfold State.presenceGained
  split
  next h =>
    dsimp only
    generalize hg : ((((s.enter i .off).modCs i fun c => { c with attempts := 0, trigger := .none }).modSlot i
      SlotRec.clearScore).modPru i fun p => { p with bleed := false }).raise i .presenceOn = t
    have hview : t.view = Function.update s.view i (s.view i).gained := by
      rw [← hg, State.raise_view, State.modPru_view, State.modSlot_view, State.modCs_view _ _ _ rfl, State.enter_view,
        State.modSlot_slot_self, State.modCs, State.modSlot_slot_self, State.enter_slot_self]
      simp only [Function.update_idem, Function.update_self]
      rfl
    have hgain : Lawful s t := Lawful.update hview (Moves.gain h)
    have hoff : (t.slot i).cs.state = .off := by
      rw [← State.view_state, hview, Function.update_self]
      rfl
    split
    · split
      · exact hgain.trans (t.bringUp_lawful i _ hoff)
      · exact hgain
    · exact hgain
  · exact Lawful.refl s

theorem State.presenceSample_lawful (s : State) (i : Slot) (raw : Bool) : Lawful s (s.presenceSample i raw) := by
  unfold State.presenceSample
  dsimp only
  split
  · split
    · exact (Lawful.of_view (State.modSense_view _ _ _)).trans (State.presenceGained_lawful _ i)
    · exact (Lawful.of_view (State.modSense_view _ _ _)).trans (State.presenceLost_lawful _ i)
  · exact Lawful.of_view (State.modSense_view _ _ _)

/-! ## Attention (R64, R65, R137) -/

theorem State.shortPress_lawful (s : State) (i : Slot) (n : Nat) : Lawful s (s.shortPress i n) := by
  have hr : Lawful s (s.raise i .attentionShort n) := Lawful.of_view (State.raise_view _ _ _ _ _ _)
  unfold State.shortPress
  dsimp only
  split
  · split
    next h => exact hr.trans (State.fence_lawful _ i _ _ _ (Or.inl h))
    next h => exact hr.trans (State.fence_lawful _ i _ _ _ (Or.inr (Or.inr (Or.inl h))))
    · exact hr
  · exact hr

theorem State.pressActs_lawful (s : State) (i : Slot) (hp : (s.slot i).policy ≠ none) : Lawful s (s.pressActs i) := by
  have ht : Lawful s (s.setTrigger i .attention) := Lawful.of_view (State.setTrigger_view _ _ _)
  unfold State.pressActs
  split
  · exact Lawful.refl s
  next h =>
    refine ht.trans (State.bringUp_lawful _ i _ ?_)
    rw [← State.view_state, State.setTrigger_view]
    exact h
  next h => exact s.recoverRetired_lawful i _ h hp
  · exact ht.trans (State.powerDown_lawful _ i _ _)
  · exact s.powerDown_lawful i _ _

theorem State.longPress_lawful (s : State) (i : Slot) (n : Nat) : Lawful s (s.longPress i n) := by
  have hr : Lawful s (s.raise i .attentionLong n) := Lawful.of_view (State.raise_view _ _ _ _ _ _)
  unfold State.longPress
  dsimp only
  split
  next h =>
    obtain ⟨ho, m, hm⟩ := (s.raise i .attentionLong n).overtakeByPress_lawful i
    refine hr.trans (ho.trans (State.pressActs_lawful _ i ?_))
    rw [← State.view_policy, hm, State.raise_view]
    intro hn
    have hn' : (s.slot i).policy = none := hn
    simp [SlotRec.attentionSet, hn'] at h
  · exact hr

theorem State.pressSample_lawful (s : State) (i : Slot) : Lawful s (s.pressSample i) := by
  unfold State.pressSample
  dsimp only
  split
  · exact (Lawful.of_view (State.modSense_view _ _ _)).trans (State.longPress_lawful _ i _)
  · exact Lawful.of_view (State.modSense_view _ _ _)

theorem State.released_lawful (s : State) (i : Slot) : Lawful s (s.released i) := by
  unfold State.released
  dsimp only
  split
  · exact Lawful.of_view (State.modSense_view _ _ _)
  · exact (Lawful.of_view (State.modSense_view _ _ _)).trans (State.shortPress_lawful _ i _)

theorem State.attentionSample_lawful (s : State) (i : Slot) (raw : Bool) : Lawful s (s.attentionSample i raw) := by
  unfold State.attentionSample
  dsimp only
  split
  · split
    · exact (s.pressSample_lawful i).trans (State.released_lawful _ i)
    · exact (s.pressSample_lawful i).trans (Lawful.of_view (State.modSense_view _ _ _))
  · split <;> exact Lawful.of_view (State.modSense_view _ _ _)

theorem State.slotSamples_lawful (s : State) (p : SensePins) (i : Slot) : Lawful s (s.slotSamples p i) := by
  unfold State.slotSamples
  dsimp only
  split
  · exact ((s.attentionSample_lawful i _).trans (State.settle_lawful _ i)).trans
      ((State.presenceSample_lawful _ i _).trans (State.settle_lawful _ i))
  · exact ((s.presenceSample_lawful i _).trans (State.settle_lawful _ i)).trans
      ((State.attentionSample_lawful _ i _).trans (State.settle_lawful _ i))

theorem State.senseSample_lawful (s : State) (p : SensePins) : Lawful s (s.senseSample p) := by
  unfold State.senseSample
  split
  · exact (Lawful.foldl (fun t i => t.slotSamples_lawful p i) (slotOrder p.order) s).trans
      (Lawful.of_view (State.view_congr rfl rfl rfl))
  · exact Lawful.refl s

/-! ## Power-good (R61, R73, R75) -/

/-- The states that have power-good to lose (R61). -/
def SlotState.powered (st : SlotState) : Prop := st ≠ .empty ∧ st ≠ .off ∧ st ≠ .bleeding ∧ st ≠ .retired

theorem State.powerLostOutcome_view {s u : State} {i : Slot} {v : View} (hu : u.view = Function.update s.view i v)
    (hr : v.restores = 0) (hst : v.state.powered) :
    (u.powerLostOutcome i).view = Function.update s.view i v.shut := by
  obtain ⟨he, ho, hb, hret⟩ := hst
  have hself : u.view i = v := by rw [hu, Function.update_self]
  have hstate : (u.slot i).cs.state = v.state := congrArg View.state hself
  have hdrop : v.dropped = v := View.ext rfl rfl rfl rfl rfl rfl rfl rfl rfl rfl rfl rfl rfl hr.symm
  have hcs : ∀ f : CsRec → CsRec, (f (u.slot i).cs).state = (u.slot i).cs.state →
      (f (u.slot i).cs).attempts = (u.slot i).cs.attempts →
      ((u.modCs i f).shutdown i).view = Function.update s.view i v.shut := by
    intro f hf ha
    rw [State.shutdown_view, State.modCs_view_same _ _ _ hf ha, hself, hu, Function.update_idem]
  have hfail : (u.failAttempt i 6 0).view = Function.update s.view i v.shut := by
    rw [State.failAttempt_view, hself, hu, Function.update_idem, hdrop]
  unfold State.powerLostOutcome
  split <;> rename_i h <;> rw [hstate] at h
  case h_7 | h_8 => exact hcs _ rfl rfl
  case h_9 => exact hcs _ rfl rfl
  case h_10 => exact absurd h he
  case h_11 => exact absurd h ho
  case h_12 => exact absurd h hb
  case h_13 => exact absurd h hret
  all_goals exact hfail

theorem State.cutTraffic_view (s : State) (i : Slot) :
    (s.cutTraffic i).view = Function.update s.view i { s.view i with cls := .cut } := s.modSlot_view i _

theorem State.powerLost_lawful (s : State) (i : Slot) : Lawful s (s.powerLost i) := by
  have ht : ((s.raise i .powerLost).setTrigger i .powerLost).view = s.view := by
    rw [State.setTrigger_view, State.raise_view]
  have hcut : (((((s.raise i .powerLost).setTrigger i .powerLost).fenceWork i).cutTraffic i).cancelOp i).view
      = Function.update s.view i { (s.view i).cut.dropped with cls := .cut } := by
    rw [State.cancelOp_view, State.cutTraffic_view, State.fenceWork_view, ht]
    simp only [Function.update_idem, Function.update_self]
    rfl
  have hcancel : (((s.raise i .powerLost).setTrigger i .powerLost).cancelOp i).view
      = Function.update s.view i (s.view i).dropped := by rw [State.cancelOp_view, ht]
  have hmoves : (s.slot i).cs.state.powered → Moves (s.view i) (s.view i).dropped.shut := fun h =>
    Moves.fail (Or.inl h.2.2.1)
  unfold State.powerLost
  dsimp only
  split
  case h_1 | h_2 | h_3 | h_4 => exact Lawful.refl s
  case h_5 | h_6 | h_7 =>
    have hst : (s.slot i).cs.state.powered := by simp_all [SlotState.powered]
    exact Lawful.update (State.powerLostOutcome_view hcut rfl hst) (hmoves hst)
  all_goals
    have hst : (s.slot i).cs.state.powered := by simp_all [SlotState.powered]
    exact Lawful.update (State.powerLostOutcome_view hcancel rfl hst) (hmoves hst)

theorem State.countRamp_view (s : State) (i : Slot) (n : Nat) :
    (s.modPru i fun q => { q with rampCount := n, rampDue := false }).view = s.view := by
  rw [State.modPru_view]
  exact Function.update_eq_self _ _

theorem State.rampEnds_lawful (s : State) (i : Slot) (b : Bool) (h : (s.slot i).pru.phase = .ramp) :
    Lawful s (s.rampEnds i b) := by
  unfold State.rampEnds
  dsimp only
  split
  · exact s.rampFault_lawful i _ h
  · generalize (if b = true then (s.slot i).pru.rampCount - 1 else (s.slot i).pru.rampCount) = n
    have hcount := s.countRamp_view i n
    have hphase : ((s.modPru i fun q => { q with rampCount := n, rampDue := false }).view i).phase = .ramp := by
      rw [hcount]
      exact h
    generalize (s.modPru i fun q => { q with rampCount := n, rampDue := false }) = u at hcount hphase ⊢
    have hu : Lawful s u := Lawful.of_view hcount
    split
    · exact hu.trans (u.rampFault_lawful i _ hphase)
    · exact hu.trans (Lawful.update (u.modPru_view i _) ((Change.settle _ hphase).moves_apart rfl rfl rfl rfl rfl))

theorem State.powerGood_lawful (s : State) (i : Slot) (b c : Bool) : Lawful s (s.powerGood i b c) := by
  have hrail : ∀ x, (s.modPru i fun q => { q with rail := x }).view = s.view := fun x => by
    rw [State.modPru_view]
    exact Function.update_eq_self _ _
  unfold State.powerGood
  dsimp only
  split
  · exact Lawful.refl s
  · split
    next h => exact s.rampEnds_lawful i c h
    · exact Lawful.of_view (hrail _)
  · exact Lawful.refl s
  · exact Lawful.refl s
  · exact (Lawful.of_view (hrail _)).trans (State.powerLost_lawful _ i)

theorem State.powerGoodSample_lawful (s : State) (p : TickPins) (i : Slot) : Lawful s (s.powerGoodSample p i) := by
  unfold State.powerGoodSample
  dsimp only
  split
  · exact (Lawful.of_view (State.modSense_view _ _ _)).trans (State.powerGood_lawful _ i _ _)
  · exact Lawful.of_view (State.modSense_view _ _ _)

/-! ## Link reports (R42, R55, R79) -/

theorem State.linkUp_lawful (s : State) (i : Slot) : Lawful s (s.linkUp i) := by
  unfold State.linkUp
  split
  next h =>
    dsimp only
    split
    · have hview : ((s.modPru i PruRec.rest).enter i .restoring).view
          = Function.update s.view i { (s.view i).enter .restoring with phase := .idle } := by
        rw [State.enter_view, State.modPru_view]
        simp only [Function.update_idem, Function.update_self]
        rfl
      generalize (s.modPru i PruRec.rest).enter i .restoring = u at hview ⊢
      have hone : (u.seRequest ⟨.restore, i⟩).se.ops.count ⟨.restore, i⟩ = (s.view i).restores + 1 := by
        rw [State.seRequest_ops_count, if_pos rfl]
        exact congrArg (· + 1) (congrArg View.restores (congrFun hview i |>.trans (Function.update_self ..)))
      refine Lawful.update (i := i) ?_ ((Change.restore (s.view i) h).moves_untracked rfl rfl rfl rfl)
      refine (State.view_ops (u.seRequest_slots _).1 (u.seRequest_slots _).2 hone fun j hj => ?_).trans ?_
      · rw [State.seRequest_ops_count]
        simp [Ne.symm hj]
      · rw [hview]
        simp only [Function.update_idem, Function.update_self]
    · have hview : ((s.modPru i PruRec.rest).enterHeld i).view
          = Function.update s.view i { (s.view i).enter .held with phase := .idle } := by
        rw [State.enterHeld_view, State.modPru_view]
        simp only [Function.update_idem, Function.update_self]
        rfl
      refine Lawful.update ((State.onEntry_view _ _ _ _).trans hview) ⟨.single (Change.linked _ h), fun _ => id, ?_⟩
      intro hs _ _ hn
      exact absurd (hs.traffic (by rw [(hs.of_training h).1]; rfl)).2 hn
  · exact Lawful.refl s

end Sys2Proof.Machine
end

section
/-! PROOFS. The changes of the timers, of RI's work, of the tick and the host-port reset: every row of the table but one. -/

namespace Sys2Proof.Machine

open Sys2Proof

/-! ## The clock (R1, R45, R58, R69) -/

theorem PruRec.ends_iff {p : PruRec} {f : Phase} (h : p.ends f = true) : p.phase = f := by
  simp only [PruRec.ends, Bool.and_eq_true, decide_eq_true_eq] at h
  exact h.1

@[simp] theorem State.count_view (s : State) : s.count.view = s.view := by
  funext i
  rw [State.view, State.count_slot]
  unfold SlotRec.tick
  rw [PruRec.tick_eq]
  rfl

theorem State.drainTimer_lawful (s : State) (i : Slot) : Lawful s (s.drainTimer i) := by
  unfold State.drainTimer
  split
  next h => exact s.drainEnd_lawful i h.1
  · exact Lawful.refl s

theorem State.quietCount_lawful (s : State) (i : Slot) : Lawful s (s.quietCount i) := by
  unfold State.quietCount
  dsimp only
  split
  next h => exact s.probationEnd_lawful i h.1
  · exact Lawful.refl s

theorem State.isolateTimer_lawful (s : State) (i : Slot) : Lawful s (s.isolateTimer i) := by
  unfold State.isolateTimer
  split
  next h => exact s.assertReset_lawful i (PruRec.ends_iff h)
  · exact Lawful.refl s

theorem State.assertTimer_lawful (s : State) (i : Slot) : Lawful s (s.assertTimer i) := by
  unfold State.assertTimer
  split
  next h => exact s.assertDone_lawful i (PruRec.ends_iff h)
  · exact Lawful.refl s

theorem State.rampCheck_lawful (s : State) (i : Slot) : Lawful s (s.rampCheck i) := by
  unfold State.rampCheck
  dsimp only
  split
  next h => exact s.rampFault_lawful i _ h.1
  · exact Lawful.refl s

theorem State.settleTimer_lawful (s : State) (i : Slot) : Lawful s (s.settleTimer i) := by
  unfold State.settleTimer
  split
  next h => exact s.reconnect_lawful i (Or.inr (PruRec.ends_iff h))
  · exact Lawful.refl s

theorem State.reconnectTimer_lawful (s : State) (i : Slot) : Lawful s (s.reconnectTimer i) := by
  unfold State.reconnectTimer
  split
  next h => exact s.releaseReset_lawful i (PruRec.ends_iff h)
  · exact Lawful.refl s

theorem State.trainingTimer_lawful (s : State) (i : Slot) : Lawful s (s.trainingTimer i) := by
  unfold State.trainingTimer
  split
  next h =>
    have hphase : (s.view i).phase = .training := PruRec.ends_iff h
    refine Lawful.update (i := i) (w := (s.view i).dropped.shut) ?_
      (Moves.fail (Or.inr (Or.inl (by rw [hphase]; decide))))
    rw [State.failAttempt_view, State.modPru_view]
    simp only [Function.update_idem, Function.update_self]
    rfl
  · exact Lawful.refl s

theorem State.measuringEnds_lawful (s : State) (v : Int) : Lawful s (s.measuringEnds v) := by
  unfold State.measuringEnds
  split
  next i hi =>
    split
    · exact (s.handReading_moves i (reading v)).serviceEnds.trans (State.settle_lawful _ i)
    · exact Lawful.refl s
  · exact Lawful.refl s

theorem Lawful.closeEngine {s t : State} (h : Lawful s t) (op : Option SeOp) : Lawful s (t.closeEngine op) := by
  cases op with
  | none => exact h
  | some op => exact h.close op.slot

/-! ## The Ring Interface (chapter 10) -/

/-- From `s` to `t` the slots, RM, SE and the Incident Queue stand. -/
structure RingOnly (s t : State) : Prop where
  slots : t.slots = s.slots
  rm : t.rm = s.rm
  se : t.se = s.se
  iq : t.iq = s.iq

theorem RingOnly.refl (s : State) : RingOnly s s := ⟨rfl, rfl, rfl, rfl⟩

theorem RingOnly.trans {s t u : State} (h : RingOnly s t) (k : RingOnly t u) : RingOnly s u :=
  ⟨k.slots.trans h.slots, k.rm.trans h.rm, k.se.trans h.se, k.iq.trans h.iq⟩

theorem RingOnly.lawful {s t : State} (h : RingOnly s t) : Lawful s t :=
  Lawful.of_view (State.view_congr h.slots h.rm (congrArg SeRec.ops h.se))

theorem State.modRi_ring (s : State) (f : RiRec → RiRec) : RingOnly s (s.modRi f) := ⟨rfl, rfl, rfl, rfl⟩

theorem State.setCauses_ring (s : State) (f : Causes → Causes) : RingOnly s (s.setCauses f) := ⟨rfl, rfl, rfl, rfl⟩

theorem State.takeEntries_ring (s : State) (es : List ActEntry) : RingOnly s (s.takeEntries es) := ⟨rfl, rfl, rfl, rfl⟩

theorem State.giveBack_ring (s : State) (i : Slot) (e : ActEntry) (o : ActOutcome) (n : Nat) :
    RingOnly s (s.giveBack i e o n) := by
  unfold State.giveBack
  split
  · exact ⟨rfl, rfl, rfl, rfl⟩
  · exact RingOnly.refl s

theorem State.align_ring (s : State) : RingOnly s s.align := by
  unfold State.align
  dsimp only
  split
  · split
    · split <;> exact ⟨rfl, rfl, rfl, rfl⟩
    · exact ⟨rfl, rfl, rfl, rfl⟩
  · exact ⟨rfl, rfl, rfl, rfl⟩

theorem State.riRead_ring (s : State) (a : Addr) (n : Nat) (w : ReadRef → RiWork) : RingOnly s (s.riRead a n w) :=
  ⟨rfl, rfl, rfl, rfl⟩

theorem State.examine_ring (s : State) : RingOnly s s.examine := by
  unfold State.examine
  split
  · exact s.riRead_ring _ _ _
  · exact RingOnly.refl s

theorem State.beginScan_ring (s : State) : RingOnly s s.beginScan := by
  unfold State.beginScan
  split
  · exact (s.modRi_ring _).trans (State.examine_ring _)
  · exact RingOnly.refl s

theorem State.askScan_ring (s : State) : RingOnly s s.askScan := by
  unfold State.askScan
  split
  · exact s.modRi_ring _
  · exact s.beginScan_ring

theorem State.endScan_ring (s : State) : RingOnly s s.endScan := by
  unfold State.endScan
  dsimp only
  split
  · exact ((s.modRi_ring _).trans (State.modRi_ring _ _)).trans (State.beginScan_ring _)
  · exact s.modRi_ring _

theorem State.offerIncidents_ring (s : State) : RingOnly s s.offerIncidents := by
  unfold State.offerIncidents
  split
  · exact s.riRead_ring _ _ _
  · exact s.endScan_ring

theorem State.badChain_ring (s : State) (i : Slot) (e : ActEntry) : RingOnly s (s.badChain i e) :=
  (((s.takeEntries_ring [e]).trans (State.giveBack_ring _ i e .badChain 0)).trans (State.modRi_ring _ _)).trans
    (State.examine_ring _)

theorem State.lookFor_ring (s : State) (i : Slot) (es : List ActEntry) : RingOnly s (s.lookFor i es) := by
  unfold State.lookFor
  split
  · exact s.riRead_ring _ _ _
  · exact RingOnly.refl s

theorem State.readPolicy_ring (s : State) (i : Slot) (b : BitVec 8) : RingOnly s (s.readPolicy i b) := by
  unfold State.readPolicy
  split
  · exact s.riRead_ring _ _ _
  · exact RingOnly.refl s

theorem State.nextPolicy_ring (s : State) (i : Slot) (b : BitVec 8) : RingOnly s (s.nextPolicy i b) := by
  unfold State.nextPolicy
  split
  · exact s.modRi_ring _
  · exact s.readPolicy_ring _ _

theorem State.controlBlockRead_ring (s : State) (id : Nat) (res : ReadResult) : RingOnly s (s.controlBlockRead id res) := by
  unfold State.controlBlockRead
  split
  · split
    · split
      · exact s.modRi_ring _
      · split
        next c hc =>
          have htake : RingOnly s (s.takeControlBlock c) := ⟨rfl, rfl, rfl, rfl⟩
          exact (htake.trans (State.align_ring _)).trans (State.readPolicy_ring _ _ _)
        · exact s.modRi_ring _
    · exact RingOnly.refl s
  · exact RingOnly.refl s

theorem State.badCommand_ring (s : State) : RingOnly s s.badCommand := ⟨rfl, rfl, rfl, rfl⟩

theorem State.initCommand_ring (s : State) : RingOnly s s.initCommand := by
  unfold State.initCommand
  split
  · exact (s.modRi_ring _).trans (State.riRead_ring _ _ _ _)
  · exact s.badCommand_ring

theorem State.startCommand_ring (s : State) : RingOnly s s.startCommand := by
  unfold State.startCommand
  split
  · exact (s.modRi_ring _).trans (State.beginScan_ring _)
  · exact s.badCommand_ring

theorem State.stopCommand_ring (s : State) : RingOnly s s.stopCommand := by
  unfold State.stopCommand
  split
  · exact RingOnly.refl s
  · exact s.badCommand_ring
  · exact s.modRi_ring _
  · exact s.modRi_ring _

theorem State.promptCommand_ring (s : State) : RingOnly s s.promptCommand := by
  unfold State.promptCommand
  split
  · exact s.askScan_ring
  · exact RingOnly.refl s

theorem State.scanTimerEnds_ring (s : State) : RingOnly s s.scanTimerEnds := by
  unfold State.scanTimerEnds
  split
  · exact (s.modRi_ring _).trans (State.askScan_ring _)
  · exact RingOnly.refl s

theorem State.kcmdWrite_ring (s : State) (v : Dword) : RingOnly s (s.kcmdWrite v) := by
  unfold State.kcmdWrite
  split
  · exact s.initCommand_ring
  · exact s.startCommand_ring
  · exact s.stopCommand_ring
  · exact s.promptCommand_ring
  · exact s.badCommand_ring

theorem State.registerWrite_ring (s : State) (r : CbReg) (v : Dword) : RingOnly s (s.registerWrite r v) := by
  cases r <;> exact ⟨rfl, rfl, rfl, rfl⟩

/-! ### What a relation keeps through RI's reading of entries and policies -/

/-- A relation between states that RI's own work keeps, AD's taking of entries, and the acceptance of a policy. -/
structure RingLaw (R : State → State → Prop) : Prop where
  trans : ∀ {s t u}, R s t → R t u → R s u
  ring : ∀ {s t}, RingOnly s t → R s t
  pass : ∀ (s : State) i occ e rest, R s (s.passEntries i occ e rest)
  settle : ∀ (s : State) i, R s (s.settle i)
  accept : ∀ (s : State) i b p, s.checkPolicy i b = some p → R s (s.acceptPolicy i p)
  pop : ∀ (s : State) x rest, s.iq = x :: rest → R s { s with iq := rest }

section
variable {R : State → State → Prop} (h : RingLaw R)
include h

theorem RingLaw.refl (s : State) : R s s := h.ring (RingOnly.refl s)

/-- RI has the pointer advance after AD has taken the entries, and examines the next. -/
theorem RingLaw.taken (s : State) (es : List ActEntry) (i : Slot) (occ : Occupant) (e : ActEntry) (rest : List ActEntry)
    (f : RiRec → RiRec) : R s (((s.takeEntries es).passEntries i occ e rest).modRi f).examine :=
  h.trans (h.trans (h.ring (s.takeEntries_ring es)) (h.pass _ i occ e rest))
    (h.ring ((State.modRi_ring _ _).trans (State.examine_ring _)))

theorem RingLaw.examined (s : State) (b : List Byte) : R s (s.examined b) := by
  unfold State.examined
  dsimp only
  split
  · exact h.ring s.offerIncidents_ring
  · split
    · exact h.taken s _ _ _ _ _ _
    · exact h.ring (s.lookFor_ring _ _)
    · exact h.ring (s.badChain_ring _ _)
    · exact h.ring (s.badChain_ring _ _)

theorem RingLaw.lookedAt (s : State) (i : Slot) (e : ActEntry) (mids : List ActEntry) (b : List Byte) :
    R s (s.lookedAt i e mids b) := by
  have hbad : R s (s.badChain i e) := h.ring (s.badChain_ring i e)
  unfold State.lookedAt
  dsimp only
  split
  · exact h.refl s
  · split
    · exact h.ring s.offerIncidents_ring
    · split
      · exact hbad
      · split
        · exact hbad
        · exact hbad
        · split
          · exact h.ring (s.lookFor_ring _ _)
          · exact hbad
        · exact h.taken s _ i _ e _ _

theorem RingLaw.actionRead (s : State) (id : Nat) (res : ReadResult) : R s (s.actionRead id res) := by
  unfold State.actionRead
  split
  · split
    · split
      · exact h.ring (s.modRi_ring _)
      · exact h.examined s _
    · exact h.refl s
  · split
    · split
      · exact h.ring (s.modRi_ring _)
      · exact h.lookedAt s _ _ _ _
    · exact h.refl s
  · exact h.refl s

theorem RingLaw.lend (s : State) : R s s.lend := by
  unfold State.lend
  split
  next c x rest hc hq =>
    refine h.trans (h.pop s x rest hq) (h.ring ?_)
    dsimp only
    refine RingOnly.trans ?_ (State.offerIncidents_ring _)
    exact ⟨rfl, rfl, rfl, rfl⟩
  · exact h.ring s.endScan_ring

theorem RingLaw.incidentRead (s : State) (id : Nat) (res : ReadResult) : R s (s.incidentRead id res) := by
  unfold State.incidentRead
  split
  · split
    · split
      · exact h.ring (s.modRi_ring _)
      · split
        · exact h.lend s
        · exact h.ring s.endScan_ring
    · exact h.refl s
  · exact h.refl s

theorem RingLaw.initPolicy (s : State) (i : Slot) (r : BitVec 8) (b : Option (List Byte)) : R s (s.initPolicy i r b) := by
  unfold State.initPolicy
  split
  next p hp =>
    obtain ⟨bytes, -, hb⟩ := Option.bind_eq_some_iff.1 hp
    exact h.trans (h.trans (h.accept s i bytes p hb) (h.settle _ i)) (h.ring (State.nextPolicy_ring _ _ _))
  · exact h.ring (s.nextPolicy_ring _ _)

theorem RingLaw.policyRecordRead (s : State) (id : Nat) (res : ReadResult) : R s (s.policyRecordRead id res) := by
  unfold State.policyRecordRead
  split
  · split
    · exact h.initPolicy s _ _ _
    · exact h.refl s
  · exact h.refl s

theorem RingLaw.riReadLate (s : State) : R s s.riReadLate := by
  unfold State.riReadLate
  split
  · exact h.refl s
  · split
    · split
      · exact h.ring (s.modRi_ring _)
      · exact h.initPolicy s _ _ _
      · exact h.ring (s.modRi_ring _)
      · exact h.ring (s.modRi_ring _)
      · exact h.ring (s.modRi_ring _)
      · exact h.refl s
    · exact h.refl s

end

theorem lawful_ringLaw : RingLaw Lawful where
  trans := Lawful.trans
  ring := RingOnly.lawful
  pass := State.passEntries_lawful
  settle := State.settle_lawful
  accept s i b p hp := s.acceptPolicy_lawful i p ((s.checkPolicy_iff i b p).1 hp).2.1
  pop _ _ _ _ := Lawful.of_view (State.view_congr rfl rfl rfl)

/-! ## The tick (R1) -/

theorem State.due_lawful (s : State) (e : DueEvent) : Lawful s (s.due e) := by
  cases e with
  | deadline i k f => exact (s.deadlineExpiry_lawful i k f).close i
  | held i q => exact s.heldExpiry_lawful i q
  | drain i => exact (s.drainTimer_lawful i).close i
  | quiet i => exact (s.quietCount_lawful i).close i
  | isolate i => exact (s.isolateTimer_lawful i).close i
  | assert i => exact (s.assertTimer_lawful i).close i
  | rampSlow i => exact (s.rampCheck_lawful i).close i
  | settle i => exact s.settleTimer_lawful i
  | reconnect i => exact s.reconnectTimer_lawful i
  | training i => exact (s.trainingTimer_lawful i).close i
  | bleedWait i => exact s.bleedTimer_lawful i
  | settling => exact s.settlingEnds_lawful
  | measuring v => exact (s.measuringEnds_lawful v).align
  | sense p => exact (s.senseSample_lawful p).align
  | shadowRead => exact s.shadowReadLate_lawful.closeEngine _
  | loadPolicyRead i => exact s.loadPolicyLate_lawful i
  | riRead => exact (lawful_ringLaw.riReadLate s).align
  | scanTimer => exact s.scanTimerEnds_ring.lawful

theorem State.tick_lawful (s : State) (p : TickPins) (early : List DueEvent) : Lawful s (s.tick p early) :=
  (((Lawful.of_view s.count_view).trans (Lawful.foldl State.due_lawful early _)).trans
    (Lawful.foldl (fun t i => t.powerGoodSample_lawful p i) (slotOrder p.order) _)).align

/-! ## Host-port reset (R24, R66, R86) -/

/-- What the blocks other than CS and PRU make of a slot at a host-port reset. -/
def View.quieted (v : View) : View := { v.cleared.cut with attempts := 0, restores := 0 }

theorem Moves.quieted (v : View) : Moves v v.quieted := by
  have hpath : Path v v.quieted :=
    (((Relation.ReflTransGen.single (Change.clear v)).tail (Change.cut _)).tail (Change.attempts _ 0 attemptsWithin_zero)).tail
      (Change.drop _ 0 (Nat.zero_le _))
  exact ⟨hpath, fun hp _ => View.cleared_watchOk (v := v) hp, fun _ _ _ hn => absurd rfl hn⟩

theorem RmRec.hostReset_bleeds (m : RmRec) : m.hostReset.bleeds = m.bleeds := by
  unfold RmRec.hostReset
  generalize allSlots = l
  induction l generalizing m with
  | nil => rfl
  | cons i l ih =>
    rw [List.foldl_cons, ih, RmRec.withdraw_bleeds]
    exact Function.update_eq_self _ _

theorem State.resetBlocks_slot (s : State) (i : Slot) : s.resetBlocks.slot i = (s.slot i).hostReset := get_mapVec _ _ _

/-- The record, the share and the operations that a view shows. -/
theorem State.view_eq {s : State} {i : Slot} {r : SlotRec} {b : Bool} {n : Nat} (hr : s.slot i = r)
    (hb : s.rm.bleeds i = b) (hn : s.se.ops.count ⟨.restore, i⟩ = n) : s.view i = r.view b n := by
  subst hr hb hn
  rfl

theorem State.resetBlocks_bleeds (s : State) (i : Slot) : s.resetBlocks.rm.bleeds i = s.rm.bleeds i := by
  simp only [State.resetBlocks, RmRec.hostReset_bleeds]

theorem State.resetBlocks_view (s : State) (i : Slot) : s.resetBlocks.view i = (s.view i).quieted := by
  have hops : s.resetBlocks.se.ops.count ⟨.restore, i⟩ = 0 := rfl
  rw [State.view_eq (s.resetBlocks_slot i) (s.resetBlocks_bleeds i) hops]
  rfl

theorem State.moveIsolated_view (s : State) (i : Slot) :
    (s.moveIsolated i).view = Function.update s.view i (s.view i).moved := by
  unfold State.moveIsolated
  dsimp only
  rw [State.raise_view, State.modCs_view_same _ _ _ rfl rfl, State.enter_view, State.resetAssertion_view, State.modPru_view]
  simp only [Function.update_idem, Function.update_self]
  rfl

theorem State.resetSlot_se (s : State) (i : Slot) : (s.resetSlot i).se = s.se := by
  unfold State.resetSlot State.moveIsolated
  dsimp only
  split
  · rfl
  · split <;> rfl

/-- With nothing left in SE, CS moves the slots to ISOLATED. -/
theorem State.resetSlot_lawful (s : State) (i : Slot) (h : s.se.ops = []) : Lawful s (s.resetSlot i) := by
  unfold State.resetSlot
  dsimp only
  split
  next hm =>
    refine Lawful.update (s.moveIsolated_view i) ((Change.move (s.view i) hm ?_).moves_untracked rfl rfl rfl rfl)
    simp [State.view, SlotRec.view, h]
  · split
    · exact Lawful.of_view (State.modCs_view_same _ _ _ rfl rfl)
    · exact Lawful.refl s

theorem State.resetSlots_lawful (l : List Slot) (s : State) (h : s.se.ops = []) :
    Lawful s (l.foldl State.resetSlot s) := by
  induction l generalizing s with
  | nil => exact Lawful.refl s
  | cons i l ih => exact (s.resetSlot_lawful i h).trans (ih _ (by rw [State.resetSlot_se]; exact h))

theorem State.hostPort_lawful (s : State) (order : List Slot) : Lawful s (s.hostPort order) := by
  have hblocks : Lawful s s.resetBlocks := fun i => by
    rw [State.resetBlocks_view]
    exact Moves.quieted _
  exact hblocks.trans (State.resetSlots_lawful _ _ rfl)

/-! ## Every step -/

/-- Every command but POWER_ON_RESET moves each slot by changes. -/
theorem exec_lawful {c : Instr} {s t : State} (hc : c ≠ .powerOnReset) (h : exec c s = .next t) : Lawful s t := by
  cases c <;> cases h
  case powerOnReset => exact absurd rfl hc
  case hostPortReset order => exact s.hostPort_lawful order
  case tick p early => exact s.tick_lawful p early
  case hostRequest r => exact s.hostRequest_lawful r
  case cardCompletion i k c b => exact (s.cardCompletion_lawful i k c b).close i
  case deadlineExpiry i k b => exact (s.deadlineExpiry_lawful i k b).close i
  case heldRequestExpiry i q => exact s.heldExpiry_lawful i q
  case drainTimerExpiry i => exact (s.drainTimer_lawful i).close i
  case probationQuietExpiry i => exact (s.quietCount_lawful i).close i
  case isolateEnd i => exact (s.isolateTimer_lawful i).close i
  case assertEnd i => exact (s.assertTimer_lawful i).close i
  case rampSlow i => exact (s.rampCheck_lawful i).close i
  case settleEnd i => exact s.settleTimer_lawful i
  case reconnectEnd i => exact s.reconnectTimer_lawful i
  case trainingTimeout i => exact (s.trainingTimer_lawful i).close i
  case bleedWaitEnd i => exact s.bleedTimer_lawful i
  case settlingConversionEnd => exact s.settlingEnds_lawful
  case measuringConversionEnd v => exact (s.measuringEnds_lawful v).align
  case senseSample p => exact (s.senseSample_lawful p).align
  case linkUp i => exact (s.linkUp_lawful i).close i
  case linkDown i => exact (s.cardFence_lawful i .linkDown).close i
  case cardRequest i r => exact (s.cardRequest_lawful i r).close i
  case hostCompletion c => exact Lawful.of_view (s.hostCompletion_view c)
  case shadowReadDone id res => exact (s.shadowRead_lawful id res).closeEngine _
  case shadowReadDeadline => exact s.shadowReadLate_lawful.closeEngine _
  case fence i a => exact s.alone_lawful i _ a
  case recover i a => exact s.alone_lawful i _ a
  case powerOn i a => exact s.alone_lawful i _ a
  case powerOff i a => exact s.alone_lawful i _ a
  case retire i a => exact s.alone_lawful i _ a
  case admitSlot i a => exact s.alone_lawful i _ a
  case release i a => exact s.alone_lawful i _ a
  case snapshot i a => exact s.alone_lawful i _ a
  case loadPolicy i a => exact s.alone_lawful i _ a
  case loadPolicyReadDone i id res => exact s.loadPolicyRead_lawful i id res
  case loadPolicyReadDeadline i => exact s.loadPolicyLate_lawful i
  case readSlot i a => exact s.alone_lawful i _ a
  case railSample i a => exact s.alone_lawful i _ a
  case unknownActionCode i code a => exact s.alone_lawful i _ a
  case init => exact s.initCommand_ring.lawful.align
  case start => exact s.startCommand_ring.lawful.align
  case stop => exact s.stopCommand_ring.lawful.align
  case prompt => exact s.promptCommand_ring.lawful.align
  case unknownCommand v => exact (s.kcmdWrite_ring v).lawful.align
  case kstatWrite v => exact (s.setCauses_ring _).lawful.align
  case registerWrite r v => exact (s.registerWrite_ring r v).lawful
  case controlBlockReadDone id res => exact (s.controlBlockRead_ring id res).lawful.align
  case policyRecordReadDone id res => exact (lawful_ringLaw.policyRecordRead s id res).align
  case riReadDeadline => exact (lawful_ringLaw.riReadLate s).align
  case scanTimerExpiry => exact s.scanTimerEnds_ring.lawful
  case actionEntryReadDone id res => exact (lawful_ringLaw.actionRead s id res).align
  case incidentEntryReadDone id res => exact (lawful_ringLaw.incidentRead s id res).align

end Sys2Proof.Machine
end

section
/-! PROOFS. What every step keeps: the bounds of the records, the policies, and traffic with the states; and the laws after power-on reset. -/

namespace Sys2Proof.Machine

open Sys2Proof

/-! ## The Incident Queue and the policies (R168, R180) -/

theorem mergeNewest_slots (i : Slot) (k : IncKind) (q : List Incident) :
    (mergeNewest i k q).map Incident.slot = q.map Incident.slot := by
  induction q with
  | nil => rfl
  | cons x xs ih =>
    unfold mergeNewest
    split
    · rfl
    · rw [List.map_cons, ih, List.map_cons]

theorem queuedFor_congr {q r : List Incident} (h : q.map Incident.slot = r.map Incident.slot) (i : Slot) :
    queuedFor i q = queuedFor i r := by
  have hmap : ∀ l : List Incident, queuedFor i l = (l.map Incident.slot).countP fun j => decide (j = i) := fun l => by
    rw [List.countP_map]
    rfl
  rw [hmap, hmap, h]

/-- IW's taking of an incident keeps every slot at 4 or fewer. -/
theorem queuedFor_iwTake {q : List Incident} {i : Slot} (h : queuedFor i q ≤ 4) (x : Incident) :
    queuedFor i (iwTake x q) ≤ 4 := by
  unfold iwTake
  split
  next hx =>
    unfold queuedFor at *
    rw [List.countP_append, List.countP_singleton]
    by_cases hi : x.slot = i
    · subst hi
      simpa using hx
    · simpa [hi] using h
  · rw [queuedFor_congr (mergeNewest_slots _ _ _)]
    exact h

theorem queuedFor_iwTakes {i : Slot} (xs : List Incident) {q : List Incident} (h : queuedFor i q ≤ 4) :
    queuedFor i (xs.foldl (fun q x => iwTake x q) q) ≤ 4 := by
  induction xs generalizing q with
  | nil => exact h
  | cons x xs ih => exact ih (queuedFor_iwTake h x)

/-- Each queued incident is of one of the eight slots. -/
theorem length_eq_sum_queuedFor (q : List Incident) : q.length = ∑ i : Slot, queuedFor i q := by
  induction q with
  | nil => rfl
  | cons x xs ih =>
    have hcons : ∀ i, queuedFor i (x :: xs) = queuedFor i xs + if x.slot = i then 1 else 0 := fun i => by
      simp [queuedFor, List.countP_cons]
    simp only [hcons, Finset.sum_add_distrib, ← ih, Finset.sum_ite_eq, Finset.mem_univ, if_true, List.length_cons]

theorem State.incidentsBounded_iff (s : State) : s.incidentsBounded ↔ ∀ i, queuedFor i s.iq ≤ 4 := by
  refine ⟨fun h => h.1, fun h => ⟨h, ?_⟩⟩
  calc s.iq.length = ∑ i : Slot, queuedFor i s.iq := length_eq_sum_queuedFor _
    _ ≤ ∑ _i : Slot, 4 := Finset.sum_le_sum fun i _ => h i
    _ = 32 := rfl

/-- The policies of two slots are apart. -/
def State.policiesApart (s : State) : Prop :=
  ∀ i j p q, i ≠ j → (s.slot i).policy = some p → (s.slot j).policy = some q → p.disjoint q

/-- The bounds of the Incident Queue hold on, and the policies stay apart. -/
structure Keeps (s t : State) : Prop where
  queue : s.incidentsBounded → t.incidentsBounded
  apart : s.policiesApart → t.policiesApart

theorem Keeps.trans {s t u : State} (h : Keeps s t) (k : Keeps t u) : Keeps s u :=
  ⟨fun hs => k.queue (h.queue hs), fun hs => k.apart (h.apart hs)⟩

theorem State.policiesApart_congr {s t : State} (h : ∀ i, (t.slot i).policy = (s.slot i).policy) (hs : s.policiesApart) :
    t.policiesApart := by
  intro i j p q hij hp hq
  rw [h] at hp hq
  exact hs i j p q hij hp hq

theorem Keeps.of_same {s t : State} (hp : ∀ i, (t.slot i).policy = (s.slot i).policy) (hq : t.iq = s.iq) : Keeps s t :=
  ⟨by rw [State.incidentsBounded_iff, State.incidentsBounded_iff, hq]; exact id, State.policiesApart_congr hp⟩

theorem Keeps.refl (s : State) : Keeps s s := Keeps.of_same (fun _ => rfl) rfl

theorem Within.queue {i : Slot} {s t : State} (h : Within i s t) : s.incidentsBounded → t.incidentsBounded := by
  obtain ⟨xs, -, hxs⟩ := h.iq
  rw [State.incidentsBounded_iff, State.incidentsBounded_iff, hxs]
  exact fun hs j => queuedFor_iwTakes xs (hs j)

theorem Keeps.withinP {i : Slot} {s t : State} (h : WithinP i s t) : Keeps s t := by
  refine ⟨h.1.queue, State.policiesApart_congr fun j => ?_⟩
  by_cases hj : j = i
  · subst hj
    exact h.2
  · rw [h.1.others j hj]

theorem Only.keeps {i : Slot} {s t : State} (h : Only i s t) : Keeps s t := Keeps.withinP h.withinP

theorem RingOnly.keeps {s t : State} (h : RingOnly s t) : Keeps s t :=
  Keeps.of_same (fun i => by rw [State.slot, h.slots]; rfl) h.iq

theorem Policy.disjoint_symm {p q : Policy} (h : p.disjoint q) : q.disjoint p := by
  obtain ⟨hbus, hmem⟩ := h
  exact ⟨hbus.symm, fun v hv w hw => (hmem w hw v hv).symm⟩

/-- A policy is accepted only apart from those of the other slots (R168). -/
theorem State.acceptPolicy_keeps (s : State) (i : Slot) (b : List Byte) (p : Policy) (h : s.checkPolicy i b = some p) :
    Keeps s (s.acceptPolicy i p) := by
  obtain ⟨-, -, hd⟩ := (s.checkPolicy_iff i b p).1 h
  have hw := s.acceptPolicy_within i p
  refine ⟨hw.queue, fun hs j k q r hjk hq hr => ?_⟩
  by_cases hj : j = i
  · subst hj
    rw [hw.others k (Ne.symm hjk)] at hr
    rw [State.acceptPolicy_policy] at hq
    cases hq
    exact hd k r (Ne.symm hjk) hr
  · rw [hw.others j hj] at hq
    by_cases hk : k = i
    · subst hk
      rw [State.acceptPolicy_policy] at hr
      cases hr
      exact Policy.disjoint_symm (hd j q hj hq)
    · rw [hw.others k hk] at hr
      exact hs j k q r hjk hq hr

theorem Keeps.foldl {α : Type} {f : State → α → State} (h : ∀ t a, Keeps t (f t a)) (l : List α) (s : State) :
    Keeps s (l.foldl f s) := by
  induction l generalizing s with
  | nil => exact Keeps.refl s
  | cons a l ih => exact (h s a).trans (ih _)

theorem Keeps.close {s t : State} (h : Keeps s t) (i : Slot) : Keeps s (t.close i) := h.trans (t.close_only i).keeps

theorem Keeps.align {s t : State} (h : Keeps s t) : Keeps s t.align := h.trans (t.align_only 0).keeps

theorem keeps_ringLaw : RingLaw Keeps where
  trans := Keeps.trans
  ring := RingOnly.keeps
  pass s i occ e rest := (s.passEntries_only i occ e rest).keeps
  settle s i := (s.settle_only i).keeps
  accept := State.acceptPolicy_keeps
  pop s x rest hq := by
    refine ⟨?_, State.policiesApart_congr fun _ => rfl⟩
    rw [State.incidentsBounded_iff, State.incidentsBounded_iff, hq]
    exact fun hs i => (List.Sublist.countP_le (List.sublist_cons_self x rest)).trans (hs i)

theorem State.hostRequest_keeps (s : State) (r : HostRequest) : Keeps s (s.hostRequest r) := by
  unfold State.hostRequest
  split
  · exact (s.dispose_only _ r).keeps
  · cases r with
    | nonPosted q => exact (Only.emits 0 s _).keeps
    | posted p => exact Keeps.refl s

theorem State.hostCompletion_only (i : Slot) (s : State) (c : HostCpl) : Only i s (s.hostCompletion c) := by
  unfold State.hostCompletion
  split
  · exact Only.refl i s
  · split
    · exact Only.emits i s _
    · exact Only.emits i s _
    · exact Only.refl i s
    · exact Only.refl i s

theorem State.policyReadEnds_keeps (s : State) (i : Slot) (b : Option (List Byte)) : Keeps s (s.policyReadEnds i b) := by
  unfold State.policyReadEnds
  split
  · exact (s.endEntry_only i _ _).keeps
  · split
    · exact (s.endEntry_only i _ _).keeps
    · split
      next p hp => exact (s.acceptPolicy_keeps i _ p hp).trans (State.endEntry_only _ i _ _).keeps
      · exact (s.endEntry_only i _ _).keeps

theorem State.loadPolicyRead_keeps (s : State) (i : Slot) (id : Nat) (res : ReadResult) :
    Keeps s (s.loadPolicyRead i id res) := by
  unfold State.loadPolicyRead
  split
  · split
    · exact (s.policyReadEnds_keeps i _).close i
    · exact Keeps.refl s
  · exact Keeps.refl s

theorem State.measuringEnds_keeps (s : State) (v : Int) : Keeps s (s.measuringEnds v) := by
  cases hi : s.rm.inService with
  | some i => exact (s.measuringEnds_only v i hi).keeps
  | none =>
    simp only [State.measuringEnds, hi]
    exact Keeps.refl s

theorem State.senseSample_keeps (s : State) (p : SensePins) : Keeps s (s.senseSample p) := by
  unfold State.senseSample
  split
  · exact (Keeps.foldl (fun t i => Keeps.withinP (t.slotSamples_within p i)) (slotOrder p.order) s).trans
      (Keeps.of_same (fun _ => rfl) rfl)
  · exact Keeps.refl s

theorem State.shadowReadLate_keeps (s : State) : Keeps s (s.shadowReadLate.closeEngine s.se.current) := by
  cases h : s.se.current with
  | some op => exact (s.shadowReadLate_only op h).keeps.close op.slot
  | none =>
    rw [State.shadowReadLate_none h]
    exact Keeps.refl s

theorem State.shadowRead_none {s : State} (h : s.se.current = none) (id : Nat) (res : ReadResult) :
    s.shadowRead id res = s := by simp [State.shadowRead, h]

theorem State.shadowRead_keeps (s : State) (id : Nat) (res : ReadResult) :
    Keeps s ((s.shadowRead id res).closeEngine s.se.current) := by
  cases h : s.se.current with
  | some op => exact (s.shadowRead_only id res op h).keeps.close op.slot
  | none =>
    rw [State.shadowRead_none h]
    exact Keeps.refl s

theorem State.due_keeps (s : State) (e : DueEvent) : Keeps s (s.due e) := by
  cases e with
  | deadline i k f => exact (s.deadlineExpiry_only i k f).keeps.close i
  | held i q => exact (s.heldExpiry_only i q).keeps
  | drain i => exact (s.drainTimer_only i).keeps.close i
  | quiet i => exact (s.quietCount_only i).keeps.close i
  | isolate i => exact (s.isolateTimer_only i).keeps.close i
  | assert i => exact (s.assertTimer_only i).keeps.close i
  | rampSlow i => exact (s.rampCheck_only i).keeps.close i
  | settle i => exact (s.settleTimer_only i).keeps
  | reconnect i => exact (s.reconnectTimer_only i).keeps
  | training i => exact (s.trainingTimer_only i).keeps.close i
  | bleedWait i => exact (s.bleedTimer_only i).keeps
  | settling => exact (s.settlingEnds_only 0).keeps
  | measuring v => exact (s.measuringEnds_keeps v).align
  | sense p => exact (s.senseSample_keeps p).align
  | shadowRead => exact s.shadowReadLate_keeps
  | loadPolicyRead i => exact (s.loadPolicyLate_only i).keeps
  | riRead => exact (keeps_ringLaw.riReadLate s).align
  | scanTimer => exact s.scanTimerEnds_ring.keeps

theorem State.count_keeps (s : State) : Keeps s s.count := by
  refine Keeps.of_same (fun i => ?_) rfl
  rw [State.count_slot]
  rfl

theorem State.tick_keeps (s : State) (p : TickPins) (early : List DueEvent) : Keeps s (s.tick p early) :=
  ((s.count_keeps.trans (Keeps.foldl State.due_keeps early _)).trans
    (Keeps.foldl (fun t i => Keeps.withinP (t.powerGoodSample_within p i)) (slotOrder p.order) _)).align

theorem State.resetSlot_only (s : State) (i : Slot) : Only i s (s.resetSlot i) := by
  unfold State.resetSlot State.moveIsolated
  dsimp only
  split
  · exact (s.modPru_only i _).trans ((State.resetAssertion_only _ i).trans ((State.enter_only _ i _).trans
      ((State.modCs_only _ i _).trans (Only.raise _ i _ _ _ _))))
  · split
    · exact s.modCs_only i _
    · exact Only.refl i s

theorem State.hostPort_keeps (s : State) (order : List Slot) : Keeps s (s.hostPort order) := by
  have hblocks : Keeps s s.resetBlocks := Keeps.of_same (fun i => by rw [State.resetBlocks_slot]; rfl) rfl
  exact hblocks.trans (Keeps.foldl (fun t i => (t.resetSlot_only i).keeps) _ _)

theorem exec_keeps {c : Instr} {s t : State} (hc : c ≠ .powerOnReset) (h : exec c s = .next t) : Keeps s t := by
  cases c <;> cases h
  case powerOnReset => exact absurd rfl hc
  case hostPortReset order => exact s.hostPort_keeps order
  case tick p early => exact s.tick_keeps p early
  case hostRequest r => exact s.hostRequest_keeps r
  case cardCompletion i k c b => exact (s.cardCompletion_only i k c b).keeps.close i
  case deadlineExpiry i k b => exact s.due_keeps (.deadline i k b)
  case heldRequestExpiry i q => exact s.due_keeps (.held i q)
  case drainTimerExpiry i => exact s.due_keeps (.drain i)
  case probationQuietExpiry i => exact s.due_keeps (.quiet i)
  case isolateEnd i => exact s.due_keeps (.isolate i)
  case assertEnd i => exact s.due_keeps (.assert i)
  case rampSlow i => exact s.due_keeps (.rampSlow i)
  case settleEnd i => exact s.due_keeps (.settle i)
  case reconnectEnd i => exact s.due_keeps (.reconnect i)
  case trainingTimeout i => exact s.due_keeps (.training i)
  case bleedWaitEnd i => exact s.due_keeps (.bleedWait i)
  case settlingConversionEnd => exact s.due_keeps .settling
  case measuringConversionEnd v => exact s.due_keeps (.measuring v)
  case senseSample p => exact s.due_keeps (.sense p)
  case linkUp i => exact (s.linkUp_only i).keeps.close i
  case linkDown i => exact (s.cardFence_only i .linkDown).keeps.close i
  case cardRequest i r => exact (s.cardRequest_only i r).keeps.close i
  case hostCompletion c => exact (s.hostCompletion_only 0 c).keeps
  case shadowReadDone id res => exact s.shadowRead_keeps id res
  case shadowReadDeadline => exact s.shadowReadLate_keeps
  case fence i a => exact (s.alone_only i _ a).keeps
  case recover i a => exact (s.alone_only i _ a).keeps
  case powerOn i a => exact (s.alone_only i _ a).keeps
  case powerOff i a => exact (s.alone_only i _ a).keeps
  case retire i a => exact (s.alone_only i _ a).keeps
  case admitSlot i a => exact (s.alone_only i _ a).keeps
  case release i a => exact (s.alone_only i _ a).keeps
  case snapshot i a => exact (s.alone_only i _ a).keeps
  case loadPolicy i a => exact (s.alone_only i _ a).keeps
  case loadPolicyReadDone i id res => exact s.loadPolicyRead_keeps i id res
  case loadPolicyReadDeadline i => exact (s.loadPolicyLate_only i).keeps
  case readSlot i a => exact (s.alone_only i _ a).keeps
  case railSample i a => exact (s.alone_only i _ a).keeps
  case unknownActionCode i code a => exact (s.alone_only i _ a).keeps
  case init => exact s.initCommand_ring.keeps.align
  case start => exact s.startCommand_ring.keeps.align
  case stop => exact s.stopCommand_ring.keeps.align
  case prompt => exact s.promptCommand_ring.keeps.align
  case unknownCommand v => exact (s.kcmdWrite_ring v).keeps.align
  case kstatWrite v => exact (s.setCauses_ring _).keeps.align
  case registerWrite r v => exact (s.registerWrite_ring r v).keeps
  case controlBlockReadDone id res => exact (s.controlBlockRead_ring id res).keeps.align
  case policyRecordReadDone id res => exact (keeps_ringLaw.policyRecordRead s id res).align
  case riReadDeadline => exact s.due_keeps .riRead
  case scanTimerExpiry => exact s.due_keeps .scanTimer
  case actionEntryReadDone id res => exact (keeps_ringLaw.actionRead s id res).align
  case incidentEntryReadDone id res => exact (keeps_ringLaw.incidentRead s id res).align

/-! ## The laws of the part, by the views -/

/-- A step resets the part, or moves each slot by changes and keeps the queue and the policies. -/
theorem step_cases {s t : State} (h : step s = .next t) :
    (Lawful s t ∧ Keeps s t) ∨ ∃ u : State, t = u.powerOnReset := by
  unfold step at h
  split at h
  · cases h
    exact Or.inl ⟨Lawful.refl s, Keeps.refl s⟩
  next c rest hp =>
    by_cases hc : c = .powerOnReset
    · subst hc
      cases h
      exact Or.inr ⟨_, rfl⟩
    · have hview : ({ s with pending := rest } : State).view = s.view := State.view_congr rfl rfl rfl
      have hkeep : Keeps s { s with pending := rest } := Keeps.of_same (fun _ => rfl) rfl
      exact Or.inl ⟨(Lawful.of_view hview).trans (exec_lawful hc h), hkeep.trans (exec_keeps hc h)⟩

/-- A law of the views that every change keeps. -/
theorem Lawful.keeps {P : View → Prop} (hP : ∀ v w, Change v w → P v → P w) {s t : State} (h : Lawful s t)
    (hs : ∀ i, P (s.view i)) (i : Slot) : P (t.view i) := (h i).path.keeps hP (hs i)

theorem State.attemptsBounded_iff (s : State) :
    s.attemptsBounded ↔ ∀ i, attemptsWithin (s.view i).policy (s.view i).attempts := by
  refine forall_congr' fun i => ?_
  unfold SlotRec.attemptsOk attemptsWithin
  rw [State.view_policy]
  cases (s.slot i).policy <;> rfl

theorem State.watchFollows_iff (s : State) : s.watchFollows ↔ ∀ i, (s.view i).watchOk := by
  refine forall_congr' fun i => ?_
  unfold View.watchOk
  rw [State.view_policy]
  cases (s.slot i).policy <;> rfl

theorem State.policiesSound_iff (s : State) : s.policiesSound ↔ (∀ i, (s.view i).policySound) ∧ s.policiesApart :=
  Iff.rfl

theorem State.view_sound_iff (s : State) : (∀ i, (s.view i).sound) ↔ s.sequencesSound ∧ s.trafficSound := by
  constructor
  · intro h
    refine ⟨⟨fun i => (h i).agrees, fun i => (h i).share, fun i => ⟨(h i).restores, fun hm => ?_⟩⟩, fun i => (h i).traffic⟩
    exact (h i).restoring (List.count_pos_iff.2 hm)
  · rintro ⟨⟨ha, hs, hr⟩, ht⟩ i
    exact ⟨ha i, hs i, (hr i).1, fun h => (hr i).2 (List.count_pos_iff.1 h), ht i⟩

theorem State.heldRequestsWait_iff (s : State) : s.heldRequestsWait ↔ ∀ i, (s.view i).waits := by
  refine forall_congr' fun i => imp_congr_right fun _ => ?_
  rw [SlotRec.takeable_congr (r := (s.view i).record) (q := s.slot i) rfl rfl rfl rfl]

/-! ## Power-on reset -/

@[simp] theorem State.reset_slot (i : Slot) : State.reset.slot i = SlotRec.reset := State.powerOnReset_slot State.reset i

theorem State.reset_incidentsBounded : State.reset.incidentsBounded :=
  (State.incidentsBounded_iff _).2 fun _ => Nat.zero_le _

theorem State.reset_scoresBounded : State.reset.scoresBounded := fun i => by
  rw [State.reset_slot]
  exact Nat.zero_le _

theorem State.reset_classesFollow : State.reset.classesFollow := fun i => by
  rw [State.reset_slot]
  rfl

theorem State.reset_tagsBelong : State.reset.tagsBelong := fun i k => by
  rw [State.reset_slot, SlotRec.reset_entry]
  trivial

theorem State.reset_policy (i : Slot) : (State.reset.slot i).policy = none := by
  rw [State.reset_slot]
  rfl

theorem State.reset_policiesSound : State.reset.policiesSound := by
  refine ⟨fun i p hp => ?_, fun i j p q _ hp => ?_⟩ <;>
  · rw [State.reset_policy] at hp
    cases hp

theorem State.reset_attemptsBounded : State.reset.attemptsBounded := fun i => by
  rw [State.reset_slot]
  rfl

theorem State.reset_watchFollows : State.reset.watchFollows := fun i => by
  rw [State.reset_slot]
  rfl

theorem State.reset_trafficSound : State.reset.trafficSound := fun i _ => by
  rw [State.reset_slot]
  exact ⟨fun k _ => by rw [SlotRec.reset_entry]; rfl, rfl⟩

theorem State.reset_heldRequestsWait : State.reset.heldRequestsWait := fun i hn => by
  rw [State.reset_slot] at hn
  exact absurd rfl hn

theorem State.reset_sequencesSound : State.reset.sequencesSound := by
  refine ⟨fun i => ?_, fun i hb => ?_, fun i => ⟨Nat.zero_le _, fun hm => ?_⟩⟩
  · rw [State.reset_slot]
    exact ⟨⟨rfl, rfl, rfl⟩, rfl⟩
  · rw [show State.reset.rm.req i = RailReq.none from State.powerOnReset_req State.reset i] at hb
    cases hb
  · cases hm

theorem State.reset_powerLaw : State.reset.powerLaw := fun i _ => by
  rw [State.reset_slot]
  exact ⟨rfl, rfl, rfl⟩

theorem State.reset_plansSettled : State.reset.plansSettled := fun i => by
  rw [State.reset_slot]
  exact fun _ => rfl

theorem State.reset_signalLaw : State.reset.signalLaw := by
  refine ⟨fun i => ?_, fun l hl i _ => ?_⟩
  · rw [State.reset_slot]
    exact ⟨rfl, rfl, rfl, rfl⟩
  · obtain rfl : l = [] := List.prefix_nil.1 hl
    exact ⟨rfl, rfl⟩

/-- Settles O55: the laws are read off the reset record of a slot, and there is no output change and no incident yet. -/
theorem resetKeepsEveryLaw : Obligations.ResetKeepsEveryLaw :=
  ⟨State.reset_incidentsBounded, State.reset_scoresBounded, State.reset_watchFollows, State.reset_classesFollow,
    State.reset_tagsBelong, State.reset_attemptsBounded, State.reset_policiesSound, rfl, State.reset_plansSettled,
    State.reset_sequencesSound, State.reset_powerLaw, State.reset_trafficSound, State.reset_heldRequestsWait,
    State.reset_signalLaw⟩

/-! ## The two laws of every step -/

/-- Settles O59: an event moves the view of each slot by changes that keep its soundness, and ends with promotion run to
its end. -/
theorem stepsKeepTrafficWithTheStates : Obligations.StepsKeepTrafficWithTheStates := by
  intro s t hseq htags htraffic hstep
  have hsound := s.view_sound_iff.2 ⟨hseq, htraffic⟩
  rcases step_cases hstep with ⟨hl, -⟩ | ⟨u, rfl⟩
  · refine ⟨(t.view_sound_iff.1 (hl.keeps (fun _ _ => Change.sound) hsound)).2, fun hw => ?_⟩
    rw [State.heldRequestsWait_iff] at hw ⊢
    exact fun i => (hl i).waits (hsound i) (htags i) (hw i)
  · exact ⟨State.reset_trafficSound, fun _ => State.reset_heldRequestsWait⟩

/-- Settles O56: each law of a slot's record is kept by each change of its view; the incident queue grows by IW's taking
alone, and a policy is accepted only where R168 finds it apart from the others. -/
theorem stepsKeepTheRecordsWithinBounds : Obligations.StepsKeepTheRecordsWithinBounds := by
  refine ⟨fun s t hstep => ?_, fun s t hstep => ?_, fun s t hpol hstep => ?_⟩ <;>
    rcases step_cases hstep with ⟨hl, hk⟩ | ⟨u, rfl⟩
  · exact ⟨hk.queue, hl.keeps fun _ _ => Change.score_le⟩
  · exact ⟨fun _ => State.reset_incidentsBounded, fun _ => State.reset_scoresBounded⟩
  · exact ⟨hl.keeps fun _ _ => Change.cls_eq,
      hl.keeps (P := fun v => ∀ k, (v.tt.entry k).belongs k) fun _ _ => Change.belongs⟩
  · exact ⟨fun _ => State.reset_classesFollow, fun _ => State.reset_tagsBelong⟩
  · obtain ⟨hsound, hapart⟩ := s.policiesSound_iff.1 hpol
    refine ⟨t.policiesSound_iff.2 ⟨hl.keeps (fun _ _ => Change.policySound) hsound, hk.apart hapart⟩, ?_, ?_⟩
    · rw [State.attemptsBounded_iff, State.attemptsBounded_iff]
      exact hl.keeps (P := fun v => attemptsWithin v.policy v.attempts) fun _ _ => Change.attempts_within
    · rw [State.watchFollows_iff, State.watchFollows_iff]
      exact fun hw i => (hl i).watch (hsound i) (hw i)
  · exact ⟨State.reset_policiesSound, fun _ => State.reset_attemptsBounded, fun _ => State.reset_watchFollows⟩

end Sys2Proof.Machine
end

section
/-! PROOFS. An event that returns nothing and a scoring event that crosses no threshold. -/

namespace Sys2Proof.Machine

open Sys2Proof

/-! ## Updates of one slot -/

@[simp] theorem State.setSlot_setSlot (s : State) (i : Slot) (r q : SlotRec) :
    (s.setSlot i r).setSlot i q = s.setSlot i q := by
  simp [State.setSlot]

theorem State.setSlot_self (s : State) (i : Slot) : s.setSlot i (s.slot i) = s := by
  have h : s.slots.set i (s.slot i) = s.slots := by simp [State.slot, get_eq]
  unfold State.setSlot
  rw [h]

/-- An update that leaves the record as it is. -/
theorem State.setSlot_of_eq {s : State} {i : Slot} {r : SlotRec} (h : r = s.slot i) : s.setSlot i r = s := by
  rw [h, State.setSlot_self]

theorem State.modSlot_eq (s : State) (i : Slot) (f : SlotRec → SlotRec) : s.modSlot i f = s.setSlot i (f (s.slot i)) := rfl

theorem State.emits_setSlot (s : State) (i : Slot) (os : List Output) (r : SlotRec) :
    (s.emits os).setSlot i r = (s.setSlot i r).emits os := rfl

@[simp] theorem State.emits_nil (s : State) : s.emits [] = s := by simp [State.emits]

/-! ## The end of an event that returns nothing (R160, R175) -/

/-- Between two events no entry of a plan waits to start. -/
theorem State.startNext_settled {s : State} {i : Slot} (h : (s.slot i).planSettled) : s.startNext i = s := by
  unfold State.startNext
  dsimp only
  split
  next hc hr => simp [h hc] at hr
  · rfl

theorem State.runPlan_settled {s : State} {i : Slot} (h : (s.slot i).planSettled) (n : Nat) : State.runPlan i n s = s := by
  induction n with
  | zero => rfl
  | succ n ih => rw [State.runPlan, State.startNext_settled h, ih]

theorem State.settle_settled {s : State} {i : Slot} (h : (s.slot i).planSettled) : s.settle i = s :=
  State.runPlan_settled h _

theorem State.close_settled {s : State} {i : Slot} (h : (s.slot i).planSettled) (hs : s.summaryInLine) : s.close i = s := by
  rw [State.close, State.settle_settled h, State.align_of_summaryInLine hs]

/-- An event that leaves AD's record and RI's as they were ends with nothing more to do. -/
theorem State.close_quiet {s t : State} {i : Slot} (hs : s.summaryInLine) (hp : (s.slot i).planSettled)
    (hri : t.ri = s.ri) (had : (t.slot i).ad = (s.slot i).ad) : t.close i = t := by
  refine State.close_settled ?_ (State.summaryInLine_of_ri hs hri)
  unfold SlotRec.planSettled at *
  rw [had]
  exact hp

/-! ## Promotion with nothing to promote (R11) -/

/-- Nothing is held, or no tag can be taken. -/
def SlotRec.still (r : SlotRec) : Prop := r.tt.hold = [] ∨ r.takeable = none

theorem promoteLoop_still {i : Slot} {r : SlotRec} (h : r.still) (n : Nat) : promoteLoop i n r = (r, []) := by
  cases n with
  | zero => rfl
  | succ n =>
    unfold promoteLoop
    split
    next hh hk =>
      rcases h with h | h
      · simp [h] at hh
      · simp [h] at hk
    · rfl

theorem State.promote_still {s : State} {i : Slot} (h : (s.slot i).still) : s.promote i = s := by
  unfold State.promote
  rw [promoteLoop_still h]
  simp [State.setSlot_self]

/-! ## A scoring event that crosses no threshold (R29 to R35) -/

/-- HM's record after the comparisons of R31 and R29 step 4 with the score as it stands. -/
def HmRec.compared (h : HmRec) (p : Policy) : HmRec :=
  { h with watched := decide (p.watchT ≤ h.score), alert := h.alert && decide (p.fenceT ≤ h.score) }

/-- The increase is reported in PROBATION, and QUIET mode reloads its count (R34, R58). -/
def SlotRec.reported (r : SlotRec) (b : Bool) : SlotRec :=
  { r with cs := { r.cs with
      probCount := if b = true ∧ r.cs.state = .probation ∧ r.cs.probMode = .quiet then r.pol.probQuiet
        else r.cs.probCount } }

/-- The score crosses neither the fence threshold nor that of probation, by the slot state (R32, R33). -/
def SlotRec.uncrossed (r : SlotRec) (p : Policy) (old : Nat) : Prop :=
  match r.cs.state with
  | .online | .held => crossed old r.hm.score p.fenceT = false
  | .probation => crossed old r.hm.score p.probT = false
  | _ => True

theorem State.alignWatch_down {s : State} {i : Slot} {p : Policy} (hp : (s.slot i).policy = some p)
    (hw : p.watchT ≤ (s.slot i).hm.score → (s.slot i).hm.watched = true)
    (hq : SlotRec.still { s.slot i with hm := { (s.slot i).hm with watched := decide (p.watchT ≤ (s.slot i).hm.score) } }) :
    s.alignWatch i = s.setSlot i
      { s.slot i with hm := { (s.slot i).hm with watched := decide (p.watchT ≤ (s.slot i).hm.score) } } := by
  unfold State.alignWatch
  rw [hp]
  dsimp only
  split
  next h =>
    refine (State.setSlot_of_eq ?_).symm
    rw [h]
  next h =>
    rw [if_neg fun hup => h ?_]
    · exact State.promote_still (by rw [State.modHm, State.modSlot_slot_self]; exact hq)
    · rw [hup, hw (of_decide_eq_true hup)]

theorem State.alignAlert_eq {s : State} {i : Slot} {p : Policy} (hp : (s.slot i).policy = some p) :
    s.alignAlert i = s.setSlot i { s.slot i with hm := { (s.slot i).hm with
      alert := (s.slot i).hm.alert && decide (p.fenceT ≤ (s.slot i).hm.score) } } := by
  unfold State.alignAlert
  rw [hp]
  dsimp only
  split
  next h =>
    have hd : decide (p.fenceT ≤ (s.slot i).hm.score) = false := decide_eq_false (by omega)
    rw [hd, Bool.and_false]
    rfl
  next h =>
    have hd : decide (p.fenceT ≤ (s.slot i).hm.score) = true := decide_eq_true (by omega)
    rw [hd, Bool.and_true]
    exact (s.setSlot_self i).symm

theorem SlotRec.reported_false (r : SlotRec) : r.reported false = r := by simp [SlotRec.reported]

theorem SlotRec.reported_of_ne {r : SlotRec} (b : Bool) (h : r.cs.state ≠ .probation) : r.reported b = r := by
  simp [SlotRec.reported, h]

theorem State.scoreIncrease_eq {s : State} {i : Slot} (h : (s.slot i).cs.state = .probation) :
    s.scoreIncrease i = s.setSlot i ((s.slot i).reported true) := by
  unfold State.scoreIncrease State.modCs SlotRec.reported
  rw [State.modSlot_eq]
  congr 2
  cases hm : (s.slot i).cs.probMode with
  | quiet => simp [h, hm, State.pol]
  | traffic =>
    rw [if_neg (by simp)]
    simp only [hm]
    rw [← hm]

theorem State.checkThresholds_uncrossed {s : State} {i : Slot} {p : Policy} {e : ScoreEvent} {old : Nat}
    (hp : (s.slot i).policy = some p) (h : (s.slot i).uncrossed p old) :
    s.checkThresholds i e old = s.setSlot i ((s.slot i).reported e.positive) := by
  have hself : (s.slot i).cs.state ≠ .probation → s.setSlot i ((s.slot i).reported e.positive) = s := fun hne => by
    rw [SlotRec.reported_of_ne _ hne, State.setSlot_self]
  unfold State.checkThresholds
  unfold SlotRec.uncrossed at h
  rw [hp]
  dsimp only
  split
  next hst =>
    rw [hst] at h
    rw [if_neg (by simp [h]), hself (by rw [hst]; decide)]
  next hst =>
    rw [hst] at h
    rw [if_neg (by simp [h]), hself (by rw [hst]; decide)]
  next hst =>
    rw [hst] at h
    rw [if_neg (by simp [h])]
    cases hpos : e.positive with
    | true => exact State.scoreIncrease_eq hst
    | false => exact (State.setSlot_of_eq (SlotRec.reported_false _)).symm
  next hne => exact (hself hne).symm

/-- What HM's checks make of a slot when no threshold is crossed: WATCHED may be cleared, never set. -/
theorem State.checks_uncrossed {s : State} {i : Slot} {p : Policy} (e : ScoreEvent) {old : Nat}
    (hp : (s.slot i).policy = some p) (hw : p.watchT ≤ (s.slot i).hm.score → (s.slot i).hm.watched = true)
    (hq : SlotRec.still { s.slot i with hm := { (s.slot i).hm with watched := decide (p.watchT ≤ (s.slot i).hm.score) } })
    (h : (s.slot i).uncrossed p old) :
    (((s.alignWatch i).alignAlert i).checkThresholds i e old).promote i
      = s.setSlot i (SlotRec.reported { s.slot i with hm := (s.slot i).hm.compared p } e.positive) := by
  rw [State.alignWatch_down hp hw hq, State.alignAlert_eq (p := p) (by simpa using hp), State.setSlot_setSlot,
    State.setSlot_slot_self, State.checkThresholds_uncrossed (p := p) (by simpa using hp)
      (by rw [State.setSlot_slot_self]; exact h), State.setSlot_setSlot, State.setSlot_slot_self, State.promote_still]
  · rfl
  · rw [State.setSlot_slot_self]
    refine hq.imp id fun hk => Eq.trans ?_ hk
    exact SlotRec.takeable_congr rfl rfl rfl rfl

end Sys2Proof.Machine
end

section
/-! PROOFS. Host requests: routing, tags, and the table of R4. -/

namespace Sys2Proof.Machine

open Sys2Proof

/-! ## Routing (R2, R168) -/

/-- Two windows that hold the same dword are not apart. -/
theorem Window.not_disjoint {v w : Window} {a : Addr} {n : Nat} (hn : 0 < n) (hv : v.holds a n = true)
    (hw : w.holds a n = true) : ¬ v.disjoint w := by
  simp only [Window.holds, Bool.and_eq_true, decide_eq_true_eq] at hv hw
  unfold Window.disjoint
  omega

theorem Policy.not_disjoint_of_window {p q : Policy} {a : Addr} {n : Nat} (hn : 0 < n)
    (hp : p.memWindows.any (·.holds a n) = true) (hq : q.memWindows.any (·.holds a n) = true) : ¬ p.disjoint q := by
  obtain ⟨v, hv, hva⟩ := List.any_eq_true.1 hp
  obtain ⟨w, hw, hwa⟩ := List.any_eq_true.1 hq
  exact fun hd => Window.not_disjoint hn hva hwa (hd.2 v hv w hw)

theorem Policy.not_disjoint_of_bus {p q : Policy} {b : BitVec 8} (hp : p.hasBus b = true) (hq : q.hasBus b = true) :
    ¬ p.disjoint q := by
  simp only [Policy.hasBus, Bool.and_eq_true, decide_eq_true_eq] at hp hq
  rintro ⟨hbus, -⟩
  omega

/-- Policies that are apart do not route the same request. -/
theorem Policy.not_disjoint_of_routes {p q : Policy} {r : HostRequest} (hr : r.wf = true) (hp : p.routes r = true)
    (hq : q.routes r = true) : ¬ p.disjoint q := by
  cases r with
  | nonPosted t =>
    obtain ⟨req, op⟩ := t
    cases op with
    | memRead a n =>
      have hn : 0 < n := by
        simp only [HostRequest.wf, NonPosted.wf, Bool.and_eq_true, decide_eq_true_eq] at hr
        exact hr.1
      exact Policy.not_disjoint_of_window hn hp hq
    | cfgRead b k => exact Policy.not_disjoint_of_bus hp hq
    | cfgWrite b k d => exact Policy.not_disjoint_of_bus hp hq
  | posted x =>
    cases x with
    | memWrite a d =>
      have hn : 0 < d.length := by
        simp only [HostRequest.wf, Posted.wf, Bool.not_eq_true'] at hr
        exact List.length_pos_iff.2 (by simpa using hr)
      exact Policy.not_disjoint_of_window hn hp hq
    | message b d => exact Policy.not_disjoint_of_bus hp hq

theorem mem_allSlots (i : Slot) : i ∈ allSlots := by
  revert i
  decide

/-- A slot that routing finds has a policy that routes the request. -/
theorem State.route_some {s : State} {r : HostRequest} {i : Slot} (h : s.route r = some i) :
    ∃ p, (s.slot i).policy = some p ∧ p.routes r = true := by
  have hi := List.find?_some h
  split at hi
  next p hp => exact ⟨p, hp, hi⟩
  next => cases hi

/-- Settles O9: routing takes the first slot whose policy routes the request, and policies that are apart leave only one. -/
theorem requestBelongsToAtMostOneSlot : Obligations.RequestBelongsToAtMostOneSlot := by
  intro s r i hs hr
  refine ⟨State.route_some, ?_⟩
  rintro ⟨p, hp, hpr⟩
  cases hroute : s.route r with
  | none =>
    have hno := List.find?_eq_none.1 hroute i (mem_allSlots i)
    rw [hp] at hno
    exact absurd hpr hno
  | some j =>
    obtain ⟨q, hq, hqr⟩ := State.route_some hroute
    by_cases hij : i = j
    · rw [hij]
    · exact absurd (hs.2 i j p q hij hp hq) (Policy.not_disjoint_of_routes hr hpr hqr)

/-! ## Tags (R7 to R9) -/

/-- The host tags below a host tag come before it. -/
theorem hostTags_split (k : Tag) (h : k ≠ engineTag) :
    hostTags = hostTags.take k.val ++ k :: hostTags.drop (k.val + 1) ∧ ∀ l ∈ hostTags.take k.val, l < k := by
  revert k
  decide

theorem OrtEntry.isFree_iff {e : OrtEntry} : e.isFree = true ↔ e = .free := by
  cases e <;> simp [OrtEntry.isFree]

/-- The lowest-numbered FREE host tag. -/
theorem TtRec.freeTag_eq {t : TtRec} {k : Tag} (hk : k ≠ engineTag) (hf : t.entry k = .free)
    (hl : ∀ l, l < k → t.entry l ≠ .free) : t.freeTag = some k := by
  obtain ⟨hsplit, hlt⟩ := hostTags_split k hk
  refine List.find?_eq_some_iff_append.2 ⟨OrtEntry.isFree_iff.2 hf, _, _, hsplit, fun l hm => ?_⟩
  simpa using mt OrtEntry.isFree_iff.1 (hl l (hlt l hm))

theorem TtRec.freeTag_eq_none {t : TtRec} (h : ∀ k, k ≠ engineTag → t.entry k ≠ .free) : t.freeTag = none := by
  refine List.find?_eq_none.2 fun k hk => ?_
  have hne : k ≠ engineTag := by
    rintro rfl
    revert hk
    decide
  simpa [OrtEntry.isFree_iff] using h k hne

theorem SlotRec.limit_eq (r : SlotRec) :
    r.limit = if r.cs.state = .probation ∨ r.hm.watched = true then r.pol.probLimit else r.pol.outLimit := by
  unfold SlotRec.limit
  split
  next h => rw [if_pos (Or.inl h)]
  next h =>
    have hne : r.cs.state ≠ .probation := h
    simp [hne]

theorem SlotRec.takeable_eq {r : SlotRec} {k : Tag} (hl : r.tt.liveHost < r.limit) (hk : k ≠ engineTag)
    (hf : r.tt.entry k = .free) (hlow : ∀ l, l < k → r.tt.entry l ≠ .free) : r.takeable = some k := by
  rw [SlotRec.takeable, if_pos hl, TtRec.freeTag_eq hk hf hlow]

theorem SlotRec.takeable_of_full {r : SlotRec} (h : r.limit ≤ r.tt.liveHost) : r.takeable = none :=
  if_neg (Nat.not_lt.2 h)

theorem SlotRec.takeable_of_taken {r : SlotRec} (h : ∀ k, k ≠ engineTag → r.tt.entry k ≠ .free) : r.takeable = none := by
  rw [SlotRec.takeable, TtRec.freeTag_eq_none h]
  split <;> rfl

/-! ## Host requests (R4, R9, R10) -/

/-- A request that has found its slot. -/
theorem exec_hostRequest {s : State} {r : HostRequest} {i : Slot} (h : s.route r = some i) :
    exec (.hostRequest r) s = .next (s.dispose i r) := by
  have : s.hostRequest r = s.dispose i r := by simp only [State.hostRequest, h]
  rw [← this]
  rfl

theorem disposition_tracked {st : SlotState} {q : Tracked}
    (h : st = .online ∨ st = .probation ∨ st = .held ∧ q.op.kind ≠ .memoryRead) :
    disposition st (.nonPosted q) = .track := by
  rcases h with rfl | rfl | ⟨rfl, h⟩
  · rfl
  · rfl
  · exact if_neg h

theorem State.dispose_tracked {s : State} {i : Slot} {q : Tracked}
    (h : disposition (s.slot i).cs.state (.nonPosted q) = .track) :
    s.dispose i (.nonPosted q)
      = (s.setSlot i ((s.slot i).track i q s.now).1).emits ((s.slot i).track i q s.now).2 := by
  simp only [State.dispose, h]

theorem SlotRec.track_taken {r : SlotRec} {i : Slot} {q : Tracked} {n : Tick} {k : Tag} (hh : r.tt.hold = [])
    (hk : r.takeable = some k) :
    r.track i q n = (r.allocate k ⟨q, deadlineIn n r.pol.completionDeadline⟩, [.sendDown i k q.op]) := by
  simp only [SlotRec.track, hh, hk]

theorem SlotRec.track_waits {r : SlotRec} {i : Slot} {q : Tracked} {n : Tick} (h : r.tt.hold ≠ [] ∨ r.takeable = none) :
    r.track i q n = if r.tt.hold.length < 8
      then (r.setTt { r.tt with hold := r.tt.hold ++ [⟨q, deadlineIn n r.pol.completionDeadline⟩] }, [])
      else (r, [.completion q.req (synthesized .unsupported)]) := by
  unfold SlotRec.track
  split
  next hh hk => simp [hh, hk] at h
  next => rfl

/-- Settles O10: by the two ways in which `track` ends, and the limit in force as the table gives it. -/
theorem trackedRequestTakesATagOrWaits : Obligations.TrackedRequestTakesATagOrWaits := by
  refine ⟨fun s q i k hroute hst hhold hlimit hk hfree hlow => ?_, fun s q i hroute hst hwait => ?_⟩ <;>
    rw [exec_hostRequest hroute, State.dispose_tracked (disposition_tracked hst)]
  · rw [← SlotRec.limit_eq] at hlimit
    rw [SlotRec.track_taken hhold (SlotRec.takeable_eq hlimit hk hfree hlow)]
    rfl
  · rw [← SlotRec.limit_eq] at hwait
    have hnone : (s.slot i).tt.hold ≠ [] ∨ (s.slot i).takeable = none := by
      rcases hwait with h | h | h
      · exact Or.inl h
      · exact Or.inr (SlotRec.takeable_of_full h)
      · exact Or.inr (SlotRec.takeable_of_taken h)
    rw [SlotRec.track_waits hnone]
    refine ⟨fun hlen => ?_, fun hlen => ?_⟩
    · rw [if_pos hlen, State.emits_nil]
      rfl
    · rw [if_neg (by omega), State.setSlot_self]
      rfl

theorem disposition_unsupported {st : SlotState} {q : Tracked}
    (h : st.tracks = false ∧ st ≠ .fenced ∨ st = .held ∧ q.op.kind = .memoryRead) :
    disposition st (.nonPosted q) = .unsupported := by
  rcases h with ⟨ht, hf⟩ | ⟨rfl, hk⟩
  · cases st <;> simp_all [SlotState.tracks, disposition]
  · exact if_pos hk

theorem disposition_drop {st : SlotState} {p : Posted} (ho : st ≠ .online) (hp : st ≠ .probation) :
    disposition st (.posted p) = .drop := by
  cases st <;> simp_all [disposition]

/-- Settles O11: by the table of R4. -/
theorem requestsAnsweredByState : Obligations.RequestsAnsweredByState := by
  intro s
  refine ⟨fun q i hroute => ?_, fun p i hroute => ?_, fun q hroute => ?_, fun p hroute => ?_⟩
  · rw [exec_hostRequest hroute]
    refine ⟨fun hst => ?_, fun hst => ?_⟩
    · have hd : disposition (s.slot i).cs.state (.nonPosted q) = .aborted := by
        rw [hst]
        rfl
      simp only [State.dispose, hd]
      rfl
    · simp only [State.dispose, disposition_unsupported hst]
      rfl
  · rw [exec_hostRequest hroute]
    refine ⟨fun hst => ?_, fun ho hp => ?_⟩
    · have hd : disposition (s.slot i).cs.state (.posted p) = .forward := by
        rcases hst with h | h <;> rw [h] <;> rfl
      simp only [State.dispose, hd]
      rfl
    · simp only [State.dispose, disposition_drop ho hp]
      rfl
  · have hnone : s.hostRequest (.nonPosted q) = s.emit (.completion q.req (synthesized .unsupported)) := by
      simp only [State.hostRequest, hroute]
    exact congrArg Host.Outcome.next hnone
  · have hnone : s.hostRequest (.posted p) = s := by simp only [State.hostRequest, hroute]
    exact congrArg Host.Outcome.next hnone

/-! ## Held requests (R20) -/

theorem deadlineReached_iff {n d : Tick} : deadlineReached n d = true ↔ (n - d).toNat < 2 ^ 31 := decide_eq_true_iff

/-- Settles O15: the first held request with this identity is the one meant, and it is erased where it stands. -/
theorem heldRequestExpiryAnswersAborted : Obligations.HeldRequestExpiryAnswersAborted := by
  intro s i h before after r hhold hbefore hdue
  have hfind : r.tt.hold.find? (fun g => decide (g.request.req = h.request.req)) = some h := by
    rw [hhold]
    refine List.find?_eq_some_iff_append.2 ⟨by simp, before, after, rfl, fun g hg => ?_⟩
    simpa using hbefore g hg
  have herase : r.tt.hold.erase h = before ++ after := by
    have hnot : h ∉ before := fun hm => hbefore h hm rfl
    rw [hhold, List.erase_append_right _ hnot, List.erase_cons_head]
  have hexp : s.heldExpiry i h.request.req
      = (s.modSlot i fun r => r.setTt { r.tt with hold := r.tt.hold.erase h }).emit (abortUp h.request.req) := by
    unfold State.heldExpiry
    rw [hfind]
    exact if_pos (deadlineReached_iff.2 hdue)
  rw [show exec (.heldRequestExpiry i h.request.req) s = .next (s.heldExpiry i h.request.req) from rfl, hexp,
    State.modSlot_eq]
  simp only [SlotRec.setTt]
  rw [herase]
  rfl

end Sys2Proof.Machine
end

section
/-! PROOFS. What a return leaves alone, the scoring events by their weight, and the parts of a final completion. -/

namespace Sys2Proof.Machine

open Sys2Proof

/-! ## What a return leaves alone (R147, R173) -/

/-- From `s` to `t` entries have been returned: of slot `i` only AD's record has changed, RI's record, and outputs have
been added; a plan with no entries left has none. -/
structure Returns (i : Slot) (s t : State) : Prop where
  slot : t.slot i = { s.slot i with ad := (t.slot i).ad }
  rm : t.rm = s.rm
  se : t.se = s.se
  iq : t.iq = s.iq
  signals : t.signals = s.signals
  out : s.out <+: t.out
  done : (s.slot i).planDone → (t.slot i).planDone

theorem Returns.refl (i : Slot) (s : State) : Returns i s s := ⟨rfl, rfl, rfl, rfl, rfl, List.prefix_rfl, id⟩

theorem Returns.trans {i : Slot} {s t u : State} (h : Returns i s t) (k : Returns i t u) : Returns i s u := by
  refine ⟨?_, k.rm.trans h.rm, k.se.trans h.se, k.iq.trans h.iq, k.signals.trans h.signals, h.out.trans k.out,
    fun hd => k.done (h.done hd)⟩
  rw [k.slot, h.slot]

/-- RI's work with the slots, RM, SE and the queue as they were. -/
theorem RingOnly.returns {s t : State} (h : RingOnly s t) (i : Slot) (hs : t.signals = s.signals) (ho : s.out <+: t.out) :
    Returns i s t := by
  have hslot : t.slot i = s.slot i := by rw [State.slot, h.slots]; rfl
  exact ⟨by rw [hslot], h.rm, h.se, h.iq, hs, ho, by rw [hslot]; exact id⟩

theorem State.align_signals (s : State) : s.align.signals = s.signals := by
  unfold State.align
  dsimp only
  split
  · split
    · split <;> rfl
    · rfl
  · rfl

theorem State.align_returns (s : State) (i : Slot) : Returns i s s.align :=
  s.align_ring.returns i s.align_signals (s.align_only i).out

theorem State.giveBack_signals (s : State) (i : Slot) (e : ActEntry) (o : ActOutcome) (n : Nat) :
    (s.giveBack i e o n).signals = s.signals := by
  unfold State.giveBack
  split <;> rfl

theorem State.giveBack_returns (s : State) (i : Slot) (e : ActEntry) (o : ActOutcome) (n : Nat) :
    Returns i s (s.giveBack i e o n) :=
  (s.giveBack_ring i e o n).returns i (s.giveBack_signals i e o n) (s.giveBack_only i e o n).out

theorem State.skipAll_returnsOnly (s : State) (i : Slot) (es : List ActEntry) : Returns i s (s.skipAll i es) := by
  unfold State.skipAll
  induction es generalizing s with
  | nil => exact Returns.refl i s
  | cons e es ih => exact (s.giveBack_returns i e .skipped 0).trans (ih _)

/-- AD's record is written last. -/
theorem Returns.setAd {i : Slot} {s t : State} (h : Returns i s t) (a : AdRec)
    (ha : (s.slot i).planDone → a.remaining = []) : Returns i s (t.setAd i a) := by
  refine ⟨?_, h.rm, h.se, h.iq, h.signals, h.out, fun hd => ?_⟩
  · rw [State.setAd, State.modSlot_slot_self, h.slot]
  · rw [State.setAd, State.modSlot_slot_self]
    exact ha hd

theorem State.endEntry_returns (s : State) (i : Slot) (o : ActOutcome) (n : Nat) : Returns i s (s.endEntry i o n) := by
  unfold State.endEntry
  dsimp only
  split
  · exact Returns.refl i s
  · split
    · exact (s.giveBack_returns i _ o n).setAd _ id
    · exact ((s.giveBack_returns i _ o n).trans (State.skipAll_returnsOnly _ i _)).setAd _ fun _ => rfl

theorem State.onEntry_returns (s : State) (i : Slot) (st : SlotState) (n : Nat) : Returns i s (s.onEntry i st n) := by
  unfold State.onEntry
  split
  · exact Returns.refl i s
  · split
    · exact Returns.refl i s
    · exact s.endEntry_returns i _ _

theorem SlotRec.planDone.settled {r : SlotRec} (h : r.planDone) : r.planSettled := fun _ => h

/-- With no entry left to start, the end of an event brings the summary into line and does nothing else. -/
theorem Returns.close {i : Slot} {s t : State} (h : Returns i s t) (hd : (s.slot i).planDone) : Returns i s (t.close i) := by
  rw [State.close, State.settle_settled (h.done hd).settled]
  exact h.trans (t.align_returns i)

/-! ## Incidents in the queue (R180) -/

theorem mem_iwTake_self {x : Incident} {q : List Incident} (h : queuedFor x.slot q < 4) : x ∈ iwTake x q := by
  simp [iwTake, h]

theorem mem_iwTake {x y : Incident} {q : List Incident} (h : queuedFor y.slot q < 4) (hx : x ∈ q) : x ∈ iwTake y q := by
  simp [iwTake, h, hx]

theorem queuedFor_iwTake_le (x : Incident) (q : List Incident) (i : Slot) : queuedFor i (iwTake x q) ≤ queuedFor i q + 1 := by
  unfold iwTake
  split
  · unfold queuedFor
    rw [List.countP_append, List.countP_singleton]
    split <;> omega
  · rw [queuedFor_congr (mergeNewest_slots _ _ _)]
    omega

/-- What is raised with fewer than 4 queued is in the queue. -/
theorem State.mem_raise {s : State} {i : Slot} (k : IncKind) (a b : Nat) (d : BitVec 64) (h : queuedFor i s.iq ≤ 3) :
    s.incident i k a b d ∈ (s.raise i k a b d).iq := by
  rw [State.raise_iq]
  exact mem_iwTake_self (Nat.lt_succ_of_le h)

/-! ## Scoring events by their weight (R28, R29) -/

/-- A scoring event that is no deadline expiry, and crosses no threshold. -/
theorem State.scoreEvent_uncrossed {s : State} {i : Slot} {p : Policy} {e : ScoreEvent}
    (hx : ∀ k q, e ≠ .deadlineExpiry k q) (hp : (s.slot i).policy = some p) (hh : (s.slot i).tt.hold = [])
    (hw : p.watchT ≤ e.apply (s.slot i).hm.score → (s.slot i).hm.watched = true)
    (hc : SlotRec.uncrossed { s.slot i with hm := { (s.slot i).hm with score := e.apply (s.slot i).hm.score } } p
      (s.slot i).hm.score) :
    s.scoreEvent i e = s.setSlot i (SlotRec.reported
      { s.slot i with hm := HmRec.compared { (s.slot i).hm with score := e.apply (s.slot i).hm.score } p } e.positive) := by
  have hweigh : s.weigh i e
      = s.setSlot i { s.slot i with hm := { (s.slot i).hm with score := e.apply (s.slot i).hm.score } } := rfl
  have hnote : ∀ u : State, u.noteExpiry i e = u := fun u => by
    cases e with
    | deadlineExpiry k q => exact absurd rfl (hx k q)
    | _ => rfl
  unfold State.scoreEvent State.scoreChecks
  rw [hnote, hweigh, State.checks_uncrossed (p := p) e (by simpa using hp) (by simpa using hw) (Or.inl (by simpa using hh))
    (by simpa using hc), State.setSlot_setSlot, State.setSlot_slot_self]

/-- A score that falls crosses no threshold. -/
theorem SlotRec.uncrossed_of_le {r : SlotRec} {p : Policy} {old : Nat} (h : r.hm.score ≤ old) : r.uncrossed p old := by
  have hc : ∀ t, crossed old r.hm.score t = false := fun t => by
    simp only [crossed, Bool.and_eq_false_iff, decide_eq_false_iff_not]
    omega
  unfold SlotRec.uncrossed
  split <;> simp [hc]

/-- A score that stays below both thresholds crosses none. -/
theorem SlotRec.uncrossed_of_lt {r : SlotRec} {p : Policy} {old : Nat} (hf : r.hm.score < p.fenceT)
    (hp : r.hm.score < p.probT) : r.uncrossed p old := by
  have hc : ∀ t, r.hm.score < t → crossed old r.hm.score t = false := fun t ht => by
    simp only [crossed, Bool.and_eq_false_iff, decide_eq_false_iff_not]
    omega
  unfold SlotRec.uncrossed
  split <;> simp [hc _ hf, hc _ hp]

/-- A host request ended with Success lowers the score by 1 (R28). -/
theorem State.scoreEvent_success {s : State} {i : Slot} {p : Policy} (hp : (s.slot i).policy = some p)
    (hh : (s.slot i).tt.hold = []) (hw : (s.slot i).hm.watched = decide (p.watchT ≤ (s.slot i).hm.score)) :
    s.scoreEvent i .success = s.setSlot i
      { s.slot i with hm := HmRec.compared { (s.slot i).hm with score := (s.slot i).hm.score - 1 } p } := by
  have hw' : p.watchT ≤ ScoreEvent.success.apply (s.slot i).hm.score → (s.slot i).hm.watched = true := by
    intro h
    have : p.watchT ≤ (s.slot i).hm.score - 1 := h
    rw [hw]
    exact decide_eq_true (by omega)
  rw [State.scoreEvent_uncrossed (by simp) hp hh hw' (SlotRec.uncrossed_of_le (Nat.sub_le _ _)),
    show ScoreEvent.success.positive = false from rfl, SlotRec.reported_false]
  rfl

/-- The record after a rise of the score that crosses no threshold is the one of Safety. -/
theorem SlotRec.scored_eq {r : SlotRec} {p : Policy} {n : Nat} (hw : r.hm.score + n < p.watchT)
    (hf : r.hm.score + n < p.fenceT) (hd : r.hm.watched = false) :
    SlotRec.reported { r with hm := HmRec.compared { r.hm with score := r.hm.score + n } p } true = r.scored n := by
  have h1 : decide (p.watchT ≤ r.hm.score + n) = r.hm.watched := by
    rw [hd]
    exact decide_eq_false (by omega)
  have h2 : decide (p.fenceT ≤ r.hm.score + n) = false := decide_eq_false (by omega)
  simp only [SlotRec.reported, SlotRec.scored, HmRec.compared, h1, h2, Bool.and_false, true_and]
  rfl

/-- A scoring event of weight `n` on a calm slot. -/
theorem State.scoreEvent_calm {s : State} {i : Slot} {e : ScoreEvent} {n : Nat} (hx : ∀ k q, e ≠ .deadlineExpiry k q)
    (hpos : e.positive = true) (ha : ∀ m, e.apply m = min 1023 (m + n)) (hh : (s.slot i).tt.hold = [])
    (hc : (s.slot i).calm n) : s.scoreEvent i e = s.setSlot i ((s.slot i).scored n) := by
  obtain ⟨p, hp, hw, hf, hb, hmax, hd⟩ := hc
  have happly : e.apply (s.slot i).hm.score = (s.slot i).hm.score + n := by rw [ha]; omega
  have hw' : p.watchT ≤ e.apply (s.slot i).hm.score → (s.slot i).hm.watched = true := fun h => by
    rw [happly] at h
    omega
  have hc : SlotRec.uncrossed
      { s.slot i with hm := { (s.slot i).hm with score := e.apply (s.slot i).hm.score } } p (s.slot i).hm.score := by
    rw [happly]
    exact SlotRec.uncrossed_of_lt hf hb
  rw [State.scoreEvent_uncrossed hx hp hh hw' hc, happly, hpos, SlotRec.scored_eq hw hf hd]

/-! ## Completions of a LIVE host request (R12, R13) -/

/-- A completion that matches a LIVE entry of a host request. -/
theorem exec_hostCompletes {s : State} {i : Slot} {k : Tag} {f : OrtFields} {q : Requester} (c : CardCpl) (b : Bool)
    (he : (s.slot i).tt.entry k = .live f) (ho : f.origin = .host q) :
    exec (.cardCompletion i k.val c b) s = .next ((s.hostCompletes i k f q c).close i) := by
  have h : s.cardCompletion i k.val c b = s.hostCompletes i k f q c := by
    unfold State.cardCompletion
    rw [dif_pos k.isLt]
    simp only [Fin.eta, he, ho]
  exact congrArg (fun t : State => Host.Outcome.next (t.close i)) h

theorem OrtFields.malformed_false {f : OrtFields} {c : CardCpl} (hlen : c.data.length ≤ f.bytes)
    (hparts : f.kind = .memoryRead → c.status = .success → c.remaining ≠ 0 → f.parts < f.dwords) :
    f.malformed c = false := by
  simp only [OrtFields.malformed, Bool.or_eq_false_iff, Bool.and_eq_false_iff, decide_eq_false_iff_not]
  refine ⟨by omega, ?_⟩
  by_cases hk : f.kind = .memoryRead
  · by_cases hs : c.status = .success
    · by_cases hr : c.remaining = 0
      · exact Or.inl (Or.inr (by simp [hr]))
      · exact Or.inr (by have := hparts hk hs hr; omega)
    · exact Or.inl (Or.inl (Or.inr hs))
  · exact Or.inl (Or.inl (Or.inl hk))

theorem OrtFields.continues_false {f : OrtFields} {c : CardCpl}
    (h : f.kind = .memoryRead → c.status = .success → c.remaining = 0) : f.continues c = false := by
  simp only [OrtFields.continues, Bool.and_eq_false_iff, decide_eq_false_iff_not]
  by_cases hk : f.kind = .memoryRead
  · by_cases hs : c.status = .success
    · exact Or.inr (by simp [h hk hs])
    · exact Or.inl (Or.inr hs)
  · exact Or.inl (Or.inl hk)

/-- The tag of a request with nothing held behind it is FREE. -/
theorem State.freeEntry_eq {s : State} {i : Slot} (k : Tag) (os : List Output) (hh : (s.slot i).tt.hold = []) :
    ((s.emits os).setEntry i k .free).promote i
      = (s.setSlot i { s.slot i with tt := (s.slot i).tt.setEntry k .free }).emits os := by
  rw [State.promote_still]
  · rfl
  · refine Or.inl ?_
    rw [State.setEntry, State.modSlot_slot_self]
    exact hh

/-- The slot with the tag FREE and the completion sent up. -/
def State.answeredUp (s : State) (i : Slot) (k : Tag) (q : Requester) (c : CardCpl) : State :=
  (s.setSlot i { s.slot i with tt := (s.slot i).tt.setEntry k .free }).emits [.completion q c]

theorem State.answeredUp_slot (s : State) (i : Slot) (k : Tag) (q : Requester) (c : CardCpl) :
    (s.answeredUp i k q c).slot i = { s.slot i with tt := (s.slot i).tt.setEntry k .free } :=
  State.setSlot_slot_self _ _ _

/-- A final completion that is not malformed, with Success. -/
theorem State.hostCompletes_success {s : State} {i : Slot} {k : Tag} {f : OrtFields} {q : Requester} {c : CardCpl}
    (hm : f.malformed c = false) (hc : f.continues c = false) (hh : (s.slot i).tt.hold = []) (hs : c.status = .success) :
    s.hostCompletes i k f q c = ((s.answeredUp i k q c).scoreEvent i .success).countSuccess i := by
  unfold State.hostCompletes
  rw [if_neg (by simp [hm]), if_neg (by simp [hc]), State.emit_eq, State.freeEntry_eq k _ hh, hs]
  rfl

/-- A final completion that is not malformed, with another status. -/
theorem State.hostCompletes_bad {s : State} {i : Slot} {k : Tag} {f : OrtFields} {q : Requester} {c : CardCpl}
    (hm : f.malformed c = false) (hc : f.continues c = false) (hh : (s.slot i).tt.hold = []) (hs : c.status ≠ .success) :
    s.hostCompletes i k f q c = (s.answeredUp i k q c).scoreEvent i .badStatus := by
  unfold State.hostCompletes
  rw [if_neg (by simp [hm]), if_neg (by simp [hc]), State.emit_eq, State.freeEntry_eq k _ hh]
  dsimp only
  split
  next h => exact absurd h hs
  next => rfl

/-! ## The end of probation (R58, R59) -/

theorem State.countSuccess_of_not {s : State} {i : Slot}
    (h : (s.slot i).cs.state ≠ .probation ∨ (s.slot i).cs.probMode = .quiet) : s.countSuccess i = s := by
  unfold State.countSuccess
  refine if_neg ?_
  rintro ⟨hs, hm⟩
  rcases h with h | h
  · exact h hs
  · rw [h] at hm
    cases hm

/-- The slot in ONLINE, before AD returns what waits for it. -/
def State.goneOnline (s : State) (i : Slot) : State :=
  (((s.enter i .online).modSlot i fun r => r.clearScore.clearFirstExpiry).raise i .recovered (s.slot i).tt.discard).modCs i
    fun c => { c with attempts := 0, kind := .none, probCount := 0 }

theorem State.goneOnline_slot (s : State) (i : Slot) : (s.goneOnline i).slot i = { s.slot i with
    cs := { (s.slot i).cs with state := .online, attempts := 0, kind := .none, probCount := 0 }
    hm := { score := 0, watched := false, alert := false, firstExpiry := false }
    ctf := { (s.slot i).ctf with cls := .opened } } := by
  rw [State.goneOnline, State.modCs, State.modSlot_slot_self, State.raise_slot, State.modSlot_slot_self,
    State.enter_slot_self]
  rfl

theorem State.probationEnd_returns {s : State} {i : Slot} (hh : (s.slot i).tt.hold = []) :
    Returns i (s.goneOnline i) (s.probationEnd i) := by
  have hdiscard : (((s.enter i .online).modSlot i fun r => r.clearScore.clearFirstExpiry).slot i).tt.discard
      = (s.slot i).tt.discard := by
    rw [State.modSlot_slot_self, State.enter_slot_self]
    rfl
  have hpromote : (s.goneOnline i).promote i = s.goneOnline i := by
    refine State.promote_still (Or.inl ?_)
    rw [State.goneOnline_slot]
    exact hh
  unfold State.probationEnd
  dsimp only
  rw [hdiscard]
  change Returns i _ (((s.goneOnline i).promote i).onEntry i .online _)
  rw [hpromote]
  exact State.onEntry_returns _ _ _ _

end Sys2Proof.Machine
end

section
/-! PROOFS. Completions of a LIVE host request. -/

namespace Sys2Proof.Machine

open Sys2Proof

/-- An event that returns nothing, with its end. -/
theorem next_close {s t u : State} {i : Slot} (hs : s.summaryInLine) (hp : (s.slot i).planSettled) (h : t = u)
    (hri : t.ri = s.ri) (had : (t.slot i).ad = (s.slot i).ad) :
    (Host.Outcome.next (t.close i) : Host.Outcome State Fault Refusal) = .next u := by
  rw [State.close_quiet hs hp hri had, h]

/-! ## Final completions (R12, R58) -/

/-- The slot after a final completion with Success: the tag FREE, the score down by 1. -/
def SlotRec.succeeded (r : SlotRec) (k : Tag) (p : Policy) : SlotRec :=
  { r with tt := r.tt.setEntry k .free, hm := HmRec.compared { r.hm with score := r.hm.score - 1 } p }

theorem State.answeredUp_success {s : State} {i : Slot} {k : Tag} {q : Requester} {c : CardCpl} {p : Policy}
    (hw : s.watchFollows) (hp : (s.slot i).policy = some p) (hh : (s.slot i).tt.hold = []) :
    (s.answeredUp i k q c).scoreEvent i .success
      = (s.setSlot i ((s.slot i).succeeded k p)).emits [.completion q c] := by
  have hwi := hw i
  rw [hp] at hwi
  rw [State.scoreEvent_success (p := p) (by rw [State.answeredUp_slot]; exact hp) (by rw [State.answeredUp_slot]; exact hh)
    (by rw [State.answeredUp_slot]; exact hwi), State.answeredUp_slot, State.answeredUp, State.emits_setSlot,
    State.setSlot_setSlot]
  rfl

theorem State.countSuccess_counts {s : State} {i : Slot} (hst : (s.slot i).cs.state = .probation)
    (hm : (s.slot i).cs.probMode = .traffic) :
    s.countSuccess i =
      let n := min 65535 ((s.slot i).cs.probCount + 1)
      let t := s.setSlot i { s.slot i with cs := { (s.slot i).cs with probCount := n } }
      if (s.slot i).pol.probTraffic ≤ n then t.probationEnd i else t := by
  unfold State.countSuccess
  exact if_pos ⟨hst, hm⟩

theorem SlotRec.pol_eq {r : SlotRec} {p : Policy} (h : r.policy = some p) : r.pol = p := by simp [SlotRec.pol, h]

/-- The last success that probation counts ends it, whatever else has been set of the slot. -/
theorem State.probationEnd_close {s u : State} {i : Slot} (hh : (u.slot i).tt.hold = []) (hd : (u.slot i).planDone)
    (hiq : u.iq = s.iq) :
    let t := (u.probationEnd i).close i
    (t.slot i).cs = { (u.slot i).cs with state := .online, attempts := 0, kind := .none, probCount := 0 }
      ∧ (t.slot i).hm = { score := 0, watched := false, alert := false, firstExpiry := false }
      ∧ (t.slot i).ctf = { (u.slot i).ctf with cls := .opened } ∧ (t.slot i).tt = (u.slot i).tt
      ∧ (t.slot i).pru = (u.slot i).pru ∧ u.out <+: t.out
      ∧ (queuedFor i s.iq ≤ 3 →
        ∃ x ∈ t.iq, x.slot = i ∧ x.kind = .recovered ∧ x.state = .online ∧ x.score = 0
          ∧ x.attempts = (u.slot i).cs.attempts ∧ x.trigger = (u.slot i).cs.trigger ∧ x.countA = (u.slot i).tt.discard) := by
  have hdone : ((u.goneOnline i).slot i).planDone := by
    rw [State.goneOnline_slot]
    exact hd
  have hret := (State.probationEnd_returns hh)
  have hclose := hret.trans (Returns.close (Returns.refl i _) (hret.done hdone))
  have hslot := hclose.slot
  rw [State.goneOnline_slot] at hslot
  refine ⟨by rw [hslot], by rw [hslot], by rw [hslot], by rw [hslot], by rw [hslot], hclose.out, fun hq => ?_⟩
  rw [hclose.iq]
  refine ⟨_, State.mem_raise .recovered (u.slot i).tt.discard 0 0 ?_, rfl, rfl, ?_⟩
  · exact hiq ▸ hq
  · unfold State.incident
    rw [State.modSlot_slot_self, State.enter_slot_self]
    exact ⟨rfl, rfl, rfl, rfl, rfl⟩

/-- Settles O12: a part leaves the entry LIVE; the final completion frees it, and HM's step crosses nothing where the score
falls, or rises in a calm slot. -/
theorem completionsOfALiveRequestGoUp : Obligations.CompletionsOfALiveRequestGoUp := by
  refine ⟨fun s i k f q c b hs hp he ho hk hst hrem hlen hparts => ?_,
    fun s i k f q c b p hs hw hp hh hpol he ho hlen hend => ?_⟩ <;> rw [exec_hostCompletes c b he ho]
  · have hm : f.malformed c = false := OrtFields.malformed_false hlen fun _ _ _ => hparts
    have hc : f.continues c = true := by simp [OrtFields.continues, hk, hst, hrem]
    have hcomp : s.hostCompletes i k f q c = (s.emit (.completion q c)).setEntry i k
        (.live { f with bytes := f.bytes - c.data.length, parts := f.parts + 1 }) := by
      unfold State.hostCompletes
      rw [if_neg (by simp [hm]), if_pos hc]
    rw [hcomp]
    exact next_close hs hp rfl rfl (by rw [State.setEntry, State.modSlot_slot_self]; rfl)
  · have hm : f.malformed c = false := OrtFields.malformed_false hlen fun h1 h2 h3 => absurd (hend h1 h2) h3
    have hc : f.continues c = false := OrtFields.continues_false hend
    have hscore := State.answeredUp_success (k := k) (q := q) (c := c) hw hpol hh
    have hslot : ((s.setSlot i ((s.slot i).succeeded k p)).emits [.completion q c]).slot i = (s.slot i).succeeded k p :=
      State.setSlot_slot_self _ _ _
    have hsucc : c.status = .success → s.hostCompletes i k f q c
        = ((s.setSlot i ((s.slot i).succeeded k p)).emits [.completion q c]).countSuccess i := fun hst => by
      rw [State.hostCompletes_success hm hc hh hst, hscore]
    have hcount := State.countSuccess_counts (s := (s.setSlot i ((s.slot i).succeeded k p)).emits [.completion q c]) (i := i)
    rw [hslot] at hcount
    refine ⟨fun hst hq => ?_, fun hst hpr htr hlt => ?_, fun hst hpr htr hge hd => ?_, fun hst hcalm => ?_⟩
    · rw [hsucc hst, State.countSuccess_of_not (by rw [hslot]; exact hq)]
      exact next_close hs hp rfl rfl (by rw [hslot]; rfl)
    · have hpol' : ((s.slot i).succeeded k p).pol = p := SlotRec.pol_eq hpol
      rw [hsucc hst, hcount hpr htr, hpol', if_neg (by exact Nat.not_le.2 hlt), State.emits_setSlot, State.setSlot_setSlot]
      exact next_close hs hp rfl rfl (by rw [State.emits_slot, State.setSlot_slot_self]; rfl)
    · have hpol' : ((s.slot i).succeeded k p).pol = p := SlotRec.pol_eq hpol
      rw [hsucc hst, hcount hpr htr, hpol', if_pos (by exact hge)]
      refine ⟨_, rfl, ?_⟩
      have hend := State.probationEnd_close (s := s) (i := i)
        (u := ((s.setSlot i ((s.slot i).succeeded k p)).emits [.completion q c]).setSlot i
          { (s.slot i).succeeded k p with cs := { ((s.slot i).succeeded k p).cs with
            probCount := min 65535 (((s.slot i).succeeded k p).cs.probCount + 1) } })
        (by rw [State.setSlot_slot_self]; exact hh) (by rw [State.setSlot_slot_self]; exact hd)
        rfl
      rw [State.setSlot_slot_self] at hend
      exact hend
    · rw [State.hostCompletes_bad hm hc hh hst, State.scoreEvent_calm (n := 1) (by simp) rfl (fun _ => rfl)
        (by rw [State.answeredUp_slot]; exact hh) (by rw [State.answeredUp_slot]; exact hcalm),
        State.answeredUp_slot, State.answeredUp, State.emits_setSlot, State.setSlot_setSlot]
      exact next_close hs hp rfl rfl (by rw [State.emits_slot, State.setSlot_slot_self]; rfl)

end Sys2Proof.Machine
end

section
/-! PROOFS. Warm cycles without an isolation lead, a reset hold and a release lag: the statements that ask for CUT of them fail. -/

namespace Sys2Proof.Machine

open Sys2Proof

/-! ## A warm cycle without a reset hold and without a release lag -/

/-- A policy with every duration 0: R168 would refuse it, and the statements refuted below do not ask for a policy that
keeps R168. Its warm cycle goes on to TRAINING in the event of the fence (R69, R72, R78). -/
def Policy.instant : Policy :=
  { Policy.blank with maxAttempts := 1, autoKind := .warm, outLimit := 1, probLimit := 1, watchT := 40, fenceT := 80, probT := 20 }

/-- A slot of this policy, with power up. -/
def SlotRec.instant (st : SlotState) (kind : RecKind) (t : TtRec) : SlotRec :=
  { SlotRec.reset with
    policy := some Policy.instant
    tt := t
    cs := { SlotRec.reset.cs with state := st, kind := kind }
    pru := { SlotRec.reset.pru with isoOpen := false, asserted := false, power := true, rail := .good }
    ctf := { SlotRec.reset.ctf with cls := st.cls } }

/-- The part with one slot of this policy, and RI running with a ring of 8 entries. -/
def State.instant (st : SlotState) (kind : RecKind) (t : TtRec) : State :=
  { State.reset.setSlot 0 (SlotRec.instant st kind t) with
    ri := { RiRec.reset with
      state := .running
      cb := some
        { actionBase := 0, actionExp := 3, incidentExp := 3, prescaleSel := 0, divider := 0, scanInterval := 1
          senseInterval := 1, incidentBase := 0x1000, policyBase := 0x2000, intBase := 0, intSize := 0, enables := 0 } } }

theorem State.instant_slot (st : SlotState) (kind : RecKind) (t : TtRec) :
    (State.instant st kind t).slot 0 = SlotRec.instant st kind t := State.setSlot_slot_self _ _ _

/-- A slot that has been fenced and begins a warm cycle is in CUT, as `drainedNow` says it. -/
theorem SlotRec.drainedNow_cut {r q : SlotRec} (h : r.drainedNow q) (hk : r.cs.kind ≠ .none) : q.ctf.cls = .cut := by
  obtain ⟨-, -, hctf, -⟩ := h fun hn => absurd hn hk
  rw [hctf]

/-- A host request whose deadline has passed. -/
def staleRead : OrtFields :=
  { origin := .host ⟨1, 0, 5⟩, kind := .memoryRead, dwords := 2, bytes := 8, deadline := 0, parts := 0 }

def TtRec.oneStale : TtRec := SlotRec.reset.tt.setEntry 0 (.stale staleRead)

theorem TtRec.oneStale_entry {l : Tag} (h : l ≠ 0) : TtRec.oneStale.entry l = .free := by
  rw [TtRec.oneStale, TtRec.setEntry_ne _ _ _ _ h, SlotRec.reset_entry]

theorem SlotRec.instant_calm (st : SlotState) (kind : RecKind) (t : TtRec) : (SlotRec.instant st kind t).calm 1 :=
  ⟨Policy.instant, rfl, show 0 + 1 < 40 by decide, show 0 + 1 < 80 by decide, show 0 + 1 < 20 by decide, show 0 + 1 ≤ 1023 by decide,
    rfl⟩

/-- The late completion that ends the drain leads the slot to TRAINING. -/
theorem lateCompletion_trains {t : State}
    (h : exec (.cardCompletion 0 0 ⟨.success, [], 0⟩ false) (State.instant .fenced .warm TtRec.oneStale) = .next t) :
    (t.slot 0).ctf.cls = .hold := by
  cases h
  decide

/-- Refutes O13: with an isolation lead of 0 and neither a reset hold nor a release lag, the late completion that frees the
last STALE tag takes a FENCED slot of kind WARM through ISOLATE, ASSERT and RECONNECT to TRAINING in one event; its class is
then HOLD, where `drainedNow` has CUT. -/
theorem not_malformedLateAndUnexpectedCompletionsAreDiscarded :
    ¬ Obligations.MalformedLateAndUnexpectedCompletionsAreDiscarded := by
  rintro ⟨-, h⟩
  obtain ⟨-, -, -, hnow, -⟩ := h (State.instant .fenced .warm TtRec.oneStale) 0 ⟨.success, [], 0⟩ false rfl (fun _ => rfl) rfl
    (SlotRec.instant_calm _ _ _)
  obtain ⟨t, ht, hd, -⟩ := hnow 0 staleRead (by decide) (fun l hl => by
    rw [State.instant_slot, SlotRec.instant, TtRec.oneStale_entry hl]
    rfl) rfl rfl
  have hcut := SlotRec.drainedNow_cut hd (by rw [State.instant_slot]; decide)
  rw [lateCompletion_trains ht] at hcut
  cases hcut

/-- A link-down of a slot with nothing to drain leads it to TRAINING. -/
theorem linkDown_trains {t : State} (h : exec (.linkDown 0) (State.instant .online .none SlotRec.reset.tt) = .next t) :
    (t.slot 0).ctf.cls = .hold := by
  cases h
  decide

/-- Refutes O21: the link-down of a slot in ONLINE with nothing to drain, an isolation lead of 0 and neither a reset hold nor
a release lag takes the warm cycle to TRAINING in one event; its class is then HOLD, where `drainedNow` has CUT. -/
theorem not_linkDownFencesByState : ¬ Obligations.LinkDownFencesByState := by
  intro h
  obtain ⟨-, -, -, hnow⟩ := h (State.instant .online .none SlotRec.reset.tt) 0 rfl (fun _ => rfl)
  obtain ⟨t, ht, hd, -⟩ := hnow (Or.inl rfl) (Or.inl rfl) rfl
  have hcut := SlotRec.drainedNow_cut hd (by decide)
  rw [linkDown_trains ht] at hcut
  cases hcut

/-- FENCE with WARM of a slot with nothing to drain leads it to TRAINING. -/
theorem fenceAction_trains {t : State}
    (h : exec (.fence 0 ⟨0, 1, 0⟩) (State.instant .online .none SlotRec.reset.tt) = .next t) :
    (t.slot 0).ctf.cls = .hold := by
  cases h
  decide

/-- Refutes O39: the FENCE with kind WARM of a slot in ONLINE with nothing to drain, an isolation lead of 0 and neither a
reset hold nor a release lag takes the warm cycle to TRAINING in one event; its class is then HOLD, where `drainedNow` has
CUT. -/
theorem not_fenceActionFencesTheSlot : ¬ Obligations.FenceActionFencesTheSlot := by
  intro h
  obtain ⟨-, -, hnow, -⟩ := h (State.instant .online .none SlotRec.reset.tt) 0 ⟨0, 1, 0⟩ _ Policy.instant
    ⟨rfl, rfl, by decide, by simp [State.instant, RiRec.reset], rfl⟩ rfl rfl (by decide)
  obtain ⟨t, ht, hd, -⟩ := hnow rfl rfl (Or.inl rfl) rfl (Or.inl rfl) rfl
  have hcut := SlotRec.drainedNow_cut hd (by decide)
  rw [fenceAction_trains ht] at hcut
  cases hcut

end Sys2Proof.Machine
end

section
/-! PROOFS. Promotion of one held request, and deadline expiries on a calm slot. -/

namespace Sys2Proof.Machine

open Sys2Proof

/-! ## LIVE host entries (R8) -/

theorem hostTags_nodup : hostTags.Nodup := by decide

/-- One host tag changes the count of LIVE host entries by its own share. -/
theorem TtRec.liveHost_setEntry (t : TtRec) {k : Tag} (e : OrtEntry) (hk : k ≠ engineTag) :
    (t.setEntry k e).liveHost + (if (t.entry k).isLive then 1 else 0) = t.liveHost + if e.isLive then 1 else 0 := by
  obtain ⟨hsplit, -⟩ := hostTags_split k hk
  have hnd := hostTags_nodup
  rw [hsplit] at hnd
  obtain ⟨-, hnb, hdis⟩ := List.nodup_append.1 hnd
  have hkeep : ∀ l : List Tag, k ∉ l →
      l.countP (fun m => ((t.setEntry k e).entry m).isLive) = l.countP fun m => (t.entry m).isLive := fun l hl =>
    List.countP_congr fun m hm => by
      rw [TtRec.setEntry_ne t k m e fun h => hl (h ▸ hm)]
  have h1 := hkeep (hostTags.take k.val) fun h => hdis k h k List.mem_cons_self rfl
  have h2 := hkeep (hostTags.drop (k.val + 1)) (List.nodup_cons.1 hnb).1
  unfold TtRec.liveHost
  rw [hsplit, List.countP_append, List.countP_append, List.countP_cons, List.countP_cons, h1, h2, TtRec.setEntry_self]
  omega

theorem TtRec.liveHost_ended (t : TtRec) {k : Tag} {f : OrtFields} {e : OrtEntry} (hk : k ≠ engineTag)
    (hf : t.entry k = .live f) (he : e.isLive = false) : (t.setEntry k e).liveHost + 1 = t.liveHost := by
  have h := t.liveHost_setEntry e hk
  rw [he, hf] at h
  simpa [OrtEntry.isLive] using h

theorem TtRec.liveHost_taken (t : TtRec) {k : Tag} {f : OrtFields} (hk : k ≠ engineTag) (hf : t.entry k = .free) :
    (t.setEntry k (.live f)).liveHost = t.liveHost + 1 := by
  simpa [hf, OrtEntry.isLive] using t.liveHost_setEntry (.live f) hk

/-! ## Promotion of one held request (R11) -/

/-- The record after the oldest held request has taken a tag. -/
def SlotRec.sent (r : SlotRec) (k : Tag) (h : Held) (rest : List Held) : SlotRec :=
  { r with tt := { r.tt.setEntry k (hostEntry h.request h.deadline) with hold := rest } }

theorem SlotRec.sent_still {r : SlotRec} {k : Tag} {h : Held} {rest : List Held} (hk : k ≠ engineTag)
    (hf : r.tt.entry k = .free) (hl : r.limit ≤ r.tt.liveHost + 1) : (r.sent k h rest).still := by
  refine Or.inr (SlotRec.takeable_of_full ?_)
  have hlive : (r.sent k h rest).tt.liveHost = r.tt.liveHost + 1 := r.tt.liveHost_taken hk hf
  rw [hlive]
  exact hl

/-- With one tag to take below the limit, one held request goes down. -/
theorem State.promote_one {s : State} {i : Slot} {k : Tag} {h : Held} {rest : List Held} (hh : (s.slot i).tt.hold = h :: rest)
    (hk : k ≠ engineTag) (hf : (s.slot i).tt.entry k = .free) (hlow : ∀ l, l < k → (s.slot i).tt.entry l ≠ .free)
    (hl : (s.slot i).tt.liveHost + 1 = (s.slot i).limit) :
    s.promote i = (s.setSlot i ((s.slot i).sent k h rest)).emits [.sendDown i k h.request.op] := by
  have htake : (s.slot i).takeable = some k := SlotRec.takeable_eq (by omega) hk hf hlow
  have hloop : promoteLoop i (s.slot i).tt.hold.length (s.slot i)
      = ((s.slot i).sent k h rest, [.sendDown i k h.request.op]) := by
    rw [hh, List.length_cons, promoteLoop, hh, htake]
    dsimp only
    rw [show ((s.slot i).allocate k h).setTt { ((s.slot i).allocate k h).tt with hold := rest } = (s.slot i).sent k h rest
        from rfl, promoteLoop_still (SlotRec.sent_still hk hf hl.ge)]
  unfold State.promote
  rw [hloop]

/-! ## HM's checks where WATCHED stands (R29, R31) -/

theorem State.alignWatch_stands {s : State} {i : Slot} {p : Policy} (hp : (s.slot i).policy = some p)
    (hw : decide (p.watchT ≤ (s.slot i).hm.score) = (s.slot i).hm.watched) : s.alignWatch i = s := by
  unfold State.alignWatch
  rw [hp]
  exact if_pos hw

/-- The checks before the promotion that ends them, where no threshold is crossed and WATCHED stands. -/
theorem State.checks_stand {s : State} {i : Slot} {p : Policy} (e : ScoreEvent) {old : Nat}
    (hp : (s.slot i).policy = some p) (hw : decide (p.watchT ≤ (s.slot i).hm.score) = (s.slot i).hm.watched)
    (h : (s.slot i).uncrossed p old) :
    ((s.alignWatch i).alignAlert i).checkThresholds i e old
      = s.setSlot i (SlotRec.reported { s.slot i with hm := (s.slot i).hm.compared p } e.positive) := by
  rw [State.alignWatch_stands hp hw, State.alignAlert_eq hp,
    State.checkThresholds_uncrossed (p := p) (by rw [State.setSlot_slot_self]; exact hp) (by rw [State.setSlot_slot_self]; exact h),
    State.setSlot_setSlot, State.setSlot_slot_self]
  unfold HmRec.compared
  rw [hw]

/-! ## Deadline expiry (R18, R35) -/

/-- The slot with the entry STALE, the score up by 8 and the first expiry of the stay noted. -/
def SlotRec.expired (r : SlotRec) (k : Tag) (f : OrtFields) : SlotRec :=
  { r with tt := r.tt.setEntry k (.stale f), hm := { r.hm with score := min 1023 (r.hm.score + 8), firstExpiry := true } }

/-- The queue after an expiry on tag `k`. -/
def State.expiryQueue (s : State) (i : Slot) (k : Tag) (f : OrtFields) : List Incident :=
  if (s.slot i).hm.firstExpiry then s.iq
  else
    iwTake
      { slot := i, kind := .deadlineExpired, state := (s.slot i).cs.state, timestamp := s.tb.counter
        score := min 1023 ((s.slot i).hm.score + 8), attempts := (s.slot i).cs.attempts, trigger := (s.slot i).cs.trigger
        mergedCount := 0, merged := 0, countA := k.val, countB := f.kind.code, detail := 0 }
      s.iq

/-- The expiry of a host request answered, weighed and reported, before HM's checks. -/
def State.expired (s : State) (i : Slot) (k : Tag) (f : OrtFields) (q : Requester) : State :=
  { s.setSlot i ((s.slot i).expired k f) with out := s.out ++ [abortUp q], iq := s.expiryQueue i k f }

theorem State.expired_slot (s : State) (i : Slot) (k : Tag) (f : OrtFields) (q : Requester) :
    (s.expired i k f q).slot i = (s.slot i).expired k f := State.setSlot_slot_self s i _

theorem State.noteExpiry_eq (s : State) (i : Slot) (k : Tag) (f : OrtFields) (q : Requester) :
    (((s.emit (abortUp q)).setEntry i k (.stale f)).weigh i (.deadlineExpiry k f.kind)).noteExpiry i (.deadlineExpiry k f.kind)
      = s.expired i k f q := by
  have hslot : ((((s.emit (abortUp q)).setEntry i k (.stale f)).weigh i (.deadlineExpiry k f.kind)).slot i)
      = { s.slot i with tt := (s.slot i).tt.setEntry k (.stale f)
                        hm := { (s.slot i).hm with score := min 1023 ((s.slot i).hm.score + 8) } } := by
    rw [State.weigh, State.modHm, State.modSlot_slot_self, State.setEntry, State.modSlot_slot_self]
    rfl
  have hset : ((s.emit (abortUp q)).setEntry i k (.stale f)).weigh i (.deadlineExpiry k f.kind)
      = (s.emit (abortUp q)).setSlot i
          { s.slot i with tt := (s.slot i).tt.setEntry k (.stale f)
                          hm := { (s.slot i).hm with score := min 1023 ((s.slot i).hm.score + 8) } } := by
    rw [State.weigh, State.modHm, State.modSlot_eq, State.setEntry, State.modSlot_slot_self, State.modSlot_eq,
      State.setSlot_setSlot]
    rfl
  unfold State.noteExpiry
  dsimp only
  split
  next h =>
    rw [hslot] at h
    have hfirst : (s.slot i).hm.firstExpiry = true := h
    have hrec : (s.slot i).expired k f
        = { s.slot i with tt := (s.slot i).tt.setEntry k (.stale f)
                          hm := { (s.slot i).hm with score := min 1023 ((s.slot i).hm.score + 8) } } := by
      rw [SlotRec.expired, ← hfirst]
    rw [State.expired, State.expiryQueue, if_pos hfirst, hrec, hset]
    rfl
  next h =>
    rw [hslot] at h
    rw [State.expired, State.expiryQueue, if_neg h, State.modHm, State.modSlot_eq, State.raise_slot, hslot, State.raise,
      State.incident, hslot, hset]
    simp only [State.setSlot, Vector.set_set]
    rfl

/-- The deadline of a LIVE host entry that has been reached. -/
theorem exec_deadlineExpiry {s : State} {i : Slot} {k : Tag} {f : OrtFields} {q : Requester} (b : Bool)
    (he : (s.slot i).tt.entry k = .live f) (ho : f.origin = .host q) (hd : (s.tb.counter - f.deadline).toNat < 2 ^ 31) :
    exec (.deadlineExpiry i k b) s = .next (((((((s.expired i k f q).alignWatch i).alignAlert i).checkThresholds i
      (.deadlineExpiry k f.kind) (s.slot i).hm.score).promote i).promote i).close i) := by
  have hold : (((s.emit (abortUp q)).setEntry i k (.stale f)).slot i).hm.score = (s.slot i).hm.score := by
    rw [State.setEntry, State.modSlot_slot_self]
    rfl
  have hexp : s.deadlineExpiry i k b = ((((((s.expired i k f q).alignWatch i).alignAlert i).checkThresholds i
      (.deadlineExpiry k f.kind) (s.slot i).hm.score).promote i).promote i) := by
    unfold State.deadlineExpiry
    rw [he]
    dsimp only
    rw [if_pos (show deadlineReached s.now f.deadline = true from deadlineReached_iff.2 hd), ho]
    dsimp only
    rw [State.scoreEvent, State.scoreChecks, State.noteExpiry_eq, hold]
  rw [← hexp]
  rfl

/-- The slot after an expiry that crosses no threshold. -/
def SlotRec.expiredCalm (r : SlotRec) (k : Tag) (f : OrtFields) : SlotRec :=
  { r.scored 8 with
    tt := r.tt.setEntry k (.stale f)
    hm := { r.hm with score := r.hm.score + 8, alert := false, firstExpiry := true } }

/-- The expiry on a calm slot: the score up by 8. -/
theorem SlotRec.expired_scored {r : SlotRec} {p : Policy} {k : Tag} {f : OrtFields} (hw : r.hm.score + 8 < p.watchT)
    (hf : r.hm.score + 8 < p.fenceT) (hmax : r.hm.score + 8 ≤ 1023) (hd : r.hm.watched = false) :
    SlotRec.reported { r.expired k f with hm := (r.expired k f).hm.compared p } true
      = r.expiredCalm k f := by
  have h := SlotRec.scored_eq (r := { r with tt := r.tt.setEntry k (.stale f), hm := { r.hm with firstExpiry := true } })
    hw hf hd
  rw [SlotRec.expired, show min 1023 (r.hm.score + 8) = r.hm.score + 8 by omega]
  exact h

/-- An expiry on a calm slot, before the promotions. -/
theorem State.expired_calm {s : State} {i : Slot} {k : Tag} {f : OrtFields} {q : Requester} (h : (s.slot i).calm 8) :
    (((s.expired i k f q).alignWatch i).alignAlert i).checkThresholds i (.deadlineExpiry k f.kind) (s.slot i).hm.score
      = (s.expired i k f q).setSlot i ((s.slot i).expiredCalm k f) := by
  obtain ⟨p, hp, hw, hf, hb, hmax, hd⟩ := h
  have hscore : ((s.slot i).expired k f).hm.score = (s.slot i).hm.score + 8 := Nat.min_eq_right hmax
  rw [State.checks_stand (p := p) _ (by rw [State.expired_slot]; exact hp), State.expired_slot,
    show (ScoreEvent.deadlineExpiry k f.kind).positive = true from rfl, SlotRec.expired_scored hw hf hmax hd]
  · rw [State.expired_slot, hscore]
    exact (decide_eq_false (by omega)).trans hd.symm
  · rw [State.expired_slot]
    exact SlotRec.uncrossed_of_lt (by omega) (by omega)

/-- The state after an expiry in the words of Safety, whatever the slot is set to. -/
theorem State.expired_setSlot {s : State} {i : Slot} {k : Tag} {f : OrtFields} {q : Requester} {r : SlotRec}
    (hmax : (s.slot i).hm.score + 8 ≤ 1023) :
    (s.expired i k f q).setSlot i r = { s.setSlot i r with
      out := s.out ++ [.completion q { status := .aborted, data := [], remaining := 0 }]
      iq :=
        if (s.slot i).hm.firstExpiry then s.iq
        else
          iwTake
            { slot := i, kind := .deadlineExpired, state := (s.slot i).cs.state, timestamp := s.tb.counter
              score := (s.slot i).hm.score + 8, attempts := (s.slot i).cs.attempts, trigger := (s.slot i).cs.trigger
              mergedCount := 0, merged := 0, countA := k.val, countB := f.kind.code, detail := 0 }
            s.iq } := by
  rw [State.expired, State.expiryQueue, Nat.min_eq_right hmax]
  simp only [State.setSlot, Vector.set_set]
  rfl

/-- Settles O14: nothing crosses a threshold and nothing is held. -/
theorem deadlineExpiryMakesTheTagStale : Obligations.DeadlineExpiryMakesTheTagStale := by
  intro s i k f q b r hs hp hh hcalm he ho hd
  obtain ⟨p, hpol, hw, hf, hb, hmax, hdn⟩ := hcalm
  have hstill : ((s.expired i k f q).setSlot i ((s.slot i).expiredCalm k f)).promote i = _ :=
    State.promote_still (Or.inl (by rw [State.setSlot_slot_self]; exact hh))
  rw [exec_deadlineExpiry b he ho hd, State.expired_calm ⟨p, hpol, hw, hf, hb, hmax, hdn⟩, hstill, hstill]
  exact next_close hs hp (State.expired_setSlot hmax) rfl (by rw [State.setSlot_slot_self]; rfl)

end Sys2Proof.Machine
end

section
/-! PROOFS. Events that send nothing down, and a fence whose drain runs. -/

namespace Sys2Proof.Machine

open Sys2Proof

/-! ## Events that send nothing down -/

/-- The output is no tracked host request that goes down. -/
def Output.notDown (o : Output) : Prop := ∀ i m op, o ≠ .sendDown i m op

/-- From `s` to `t` outputs have been added, and no tracked host request among them. -/
def Silent (s t : State) : Prop := ∃ os, t.out = s.out ++ os ∧ ∀ o ∈ os, o.notDown

theorem Silent.of_out {s t : State} (h : t.out = s.out) : Silent s t := ⟨[], by rw [h, List.append_nil], by simp⟩

theorem Silent.refl (s : State) : Silent s s := .of_out rfl

theorem Silent.trans {s t u : State} (h : Silent s t) (k : Silent t u) : Silent s u := by
  obtain ⟨os, ho, hn⟩ := h
  obtain ⟨ps, hp, hm⟩ := k
  refine ⟨os ++ ps, by rw [hp, ho, List.append_assoc], fun o hmem => ?_⟩
  rcases List.mem_append.1 hmem with h | h
  · exact hn o h
  · exact hm o h

theorem Silent.emits {s : State} {os : List Output} (h : ∀ o ∈ os, o.notDown) : Silent s (s.emits os) := ⟨os, rfl, h⟩

theorem Silent.issueRead (s : State) (w : Reader) (a : Addr) (n : Nat) : Silent s (s.issueRead w a n) :=
  ⟨_, rfl, by simp [Output.notDown]⟩

theorem abortLive_notDown (t : TtRec) : ∀ o ∈ t.abortLive, o.notDown := by
  intro o ho
  obtain ⟨k, -, hk⟩ := List.mem_filterMap.1 ho
  unfold OrtEntry.abortOut at hk
  split at hk
  · split at hk
    · cases hk
      exact fun _ _ _ => by simp [abortUp]
    · cases hk
  · cases hk

theorem abortHeld_notDown (t : TtRec) : ∀ o ∈ t.abortHeld, o.notDown := by
  intro o ho
  obtain ⟨h, -, rfl⟩ := List.mem_map.1 ho
  exact fun _ _ _ => by simp [abortUp]

theorem State.seNext_silent (s : State) : Silent s s.seNext := by
  unfold State.seNext
  split
  · exact Silent.refl s
  · exact Silent.issueRead _ _ _ _

theorem State.seDrop_silent (s : State) (i : Slot) : Silent s (s.seDrop i) := by
  unfold State.seDrop
  dsimp only
  split
  · exact State.seNext_silent _
  · exact Silent.refl s

theorem State.giveBack_silent (s : State) (i : Slot) (e : ActEntry) (o : ActOutcome) (n : Nat) :
    Silent s (s.giveBack i e o n) := by
  unfold State.giveBack
  split
  · exact ⟨_, rfl, by simp [Output.notDown]⟩
  · exact Silent.refl s

theorem State.skipAll_silent (s : State) (i : Slot) (es : List ActEntry) : Silent s (s.skipAll i es) := by
  unfold State.skipAll
  induction es generalizing s with
  | nil => exact Silent.refl s
  | cons e es ih => exact (s.giveBack_silent i e .skipped 0).trans (ih _)

theorem State.endEntry_silent (s : State) (i : Slot) (o : ActOutcome) (n : Nat) : Silent s (s.endEntry i o n) := by
  unfold State.endEntry
  dsimp only
  split
  · exact Silent.refl s
  · split
    · exact s.giveBack_silent i _ o n
    · exact (s.giveBack_silent i _ o n).trans (State.skipAll_silent _ i _)

theorem State.cancelOp_silent (s : State) (i : Slot) : Silent s (s.cancelOp i) := by
  unfold State.cancelOp
  dsimp only
  split
  · exact (s.seDrop_silent i).trans (State.endEntry_silent _ i _ _)
  · exact s.seDrop_silent i

theorem State.align_silent (s : State) : Silent s s.align := by
  unfold State.align
  dsimp only
  split
  · split
    · split
      · exact ⟨_, rfl, by simp [Output.notDown]⟩
      · exact Silent.refl s
    · exact Silent.refl s
  · exact Silent.refl s

/-! ## What a cancelled operation leaves of the slot -/

theorem State.seDrop_slot (s : State) (i j : Slot) : (s.seDrop i).slot j = s.slot j := by
  rw [State.slot, (s.seDrop_slots i).1]
  rfl

theorem State.cancelOp_slot (s : State) (i : Slot) :
    (s.cancelOp i).slot i = { s.slot i with ad := ((s.cancelOp i).slot i).ad } := by
  unfold State.cancelOp
  dsimp only
  split
  · rw [((s.seDrop i).endEntry_returns i .overtaken 0).slot, State.seDrop_slot]
  · rw [State.seDrop_slot]

/-- An entry returned with an outcome other than DONE leaves no plan between two entries. -/
theorem State.endEntry_settled {s : State} {i : Slot} {o : ActOutcome} (n : Nat) (ho : o ≠ .done)
    (h : (s.slot i).planSettled) : ((s.endEntry i o n).slot i).planSettled := by
  unfold State.endEntry
  dsimp only
  split
  · exact h
  · rw [if_neg fun hd => ho hd.1, State.setAd, State.modSlot_slot_self]
    exact fun _ => rfl

theorem State.cancelOp_settled {s : State} {i : Slot} (h : (s.slot i).planSettled) :
    ((s.cancelOp i).slot i).planSettled := by
  have hd : ((s.seDrop i).slot i).planSettled := by rw [State.seDrop_slot]; exact h
  unfold State.cancelOp
  dsimp only
  split
  · exact State.endEntry_settled 0 (by decide) hd
  · exact hd

/-! ## A fence whose drain runs (R21, R43, R45) -/

theorem TtRec.staleCount_pos {t : TtRec} {k : Tag} (hk : k ≠ engineTag) (h : (t.entry k).isStale = true) :
    t.staleCount ≠ 0 := by
  obtain ⟨hsplit, -⟩ := hostTags_split k hk
  have hmem : k ∈ hostTags ++ [engineTag] := by
    rw [hsplit]
    simp
  exact Nat.pos_iff_ne_zero.1 (List.countP_pos_iff.2 ⟨k, hmem, h⟩)

/-- The slot at the start of the drain, but for AD's record. -/
def SlotRec.fencedBy (r : SlotRec) (t : Trigger) (k : RecKind) : SlotRec :=
  { (r.enter .fenced).fenceWork with cs := (r.enter .fenced).cs.fence t k }

/-- The fence before its incidents and the drain. -/
def State.fenceCut (s : State) (i : Slot) (t : Trigger) (k : RecKind) : State :=
  (((s.enter i .fenced).modCs i fun c => c.fence t k).fenceWork i).cancelOp i

theorem State.fenceWork_slot (s : State) (i : Slot) (t : Trigger) (k : RecKind) :
    (((s.enter i .fenced).modCs i fun c => c.fence t k).fenceWork i).slot i = (s.slot i).fencedBy t k := by
  rw [State.fenceWork, State.emits_slot, State.setSlot_slot_self, State.modCs, State.modSlot_slot_self, State.enter_slot_self]
  rfl

theorem State.fenceCut_slot (s : State) (i : Slot) (t : Trigger) (k : RecKind) :
    (s.fenceCut i t k).slot i = { (s.slot i).fencedBy t k with ad := ((s.fenceCut i t k).slot i).ad } := by
  have h := State.cancelOp_slot (((s.enter i .fenced).modCs i fun c => c.fence t k).fenceWork i) i
  rw [State.fenceWork_slot] at h
  exact h

theorem State.fenceCut_settled {s : State} {i : Slot} (t : Trigger) (k : RecKind) (h : (s.slot i).planSettled) :
    ((s.fenceCut i t k).slot i).planSettled := by
  refine State.cancelOp_settled ?_
  rw [State.fenceWork_slot]
  exact h

/-- The fence answers first what is LIVE and what is held. -/
theorem State.fenceCut_out (s : State) (i : Slot) (t : Trigger) (k : RecKind) :
    Silent (s.emits ((s.slot i).tt.abortLive ++ (s.slot i).tt.abortHeld)) (s.fenceCut i t k) := by
  refine Silent.trans (.of_out ?_) (State.cancelOp_silent _ i)
  rw [State.fenceWork, State.modCs, State.modSlot_slot_self, State.enter_slot_self]
  rfl

/-- The incidents of a fence (R43 step 7, R44). -/
def State.fenceRaises (u : State) (i : Slot) (t : Trigger) (k : RecKind) (n : Nat) (f : Option Nat) : State :=
  let v := (if t = .linkDown then u.raise i .linkDown else u).raise i .contained n 0 (detailOf k.code 0)
  match f with
  | some code => v.raise i .recoveryFailed (v.slot i).tt.discard code (detailOf 7 0)
  | none => v

theorem State.fence_eq (s : State) (i : Slot) (t : Trigger) (k : RecKind) (f : Option Nat) :
    s.fence i t k f = ((s.fenceCut i t k).fenceRaises i t k (s.slot i).tt.abortCount f).startDrain i := rfl

theorem State.fenceRaises_slots (u : State) (i : Slot) (t : Trigger) (k : RecKind) (n : Nat) (f : Option Nat) :
    (u.fenceRaises i t k n f).slots = u.slots ∧ (u.fenceRaises i t k n f).out = u.out := by
  unfold State.fenceRaises
  by_cases ht : t = .linkDown
  · rw [if_pos ht]
    cases f <;> exact ⟨rfl, rfl⟩
  · rw [if_neg ht]
    cases f <;> exact ⟨rfl, rfl⟩

/-- A fence with a STALE tag and a drain that is not 0 waits in FENCED. -/
theorem State.fence_drains {s : State} {i : Slot} (t : Trigger) (k : RecKind) (f : Option Nat) {l : Tag}
    (hd : (s.pol i).drain ≠ 0) (hl : l ≠ engineTag) (hs : ((s.slot i).tt.entry l).isStale = true)
    (hp : (s.slot i).planSettled) :
    let u := s.fence i t k f
    (u.slot i).cs.state = .fenced ∧ (u.slot i).tt.hold = [] ∧ (u.slot i).planSettled
      ∧ Silent (s.emits ((s.slot i).tt.abortLive ++ (s.slot i).tt.abortHeld)) u := by
  obtain ⟨hslots, hout⟩ := (s.fenceCut i t k).fenceRaises_slots i t k (s.slot i).tt.abortCount f
  rw [State.fence_eq]
  generalize (s.fenceCut i t k).fenceRaises i t k (s.slot i).tt.abortCount f = v at hslots hout ⊢
  have hslot : v.slot i = (s.fenceCut i t k).slot i := by rw [State.slot, hslots]; rfl
  have hrec := hslot.trans (s.fenceCut_slot i t k)
  have hstale : (v.slot i).tt.staleCount ≠ 0 := by
    refine TtRec.staleCount_pos hl ?_
    rw [hrec]
    change (((s.slot i).tt.cutOff).entry l).isStale = true
    rw [TtRec.cutOff_entry]
    cases he : (s.slot i).tt.entry l with
    | stale g => rfl
    | live g => rfl
    | free => rw [he] at hs; cases hs
  have hdrain : (v.pol i).drain ≠ 0 := by
    rw [State.pol, hrec]
    exact hd
  have hstart : v.startDrain i = v.modCs i fun c => { c with drain := some (v.pol i).drain } :=
    if_neg (not_or.2 ⟨hdrain, hstale⟩)
  have hset : (v.slot i).planSettled := by rw [hslot]; exact State.fenceCut_settled t k hp
  dsimp only
  rw [hstart, State.modCs, State.modSlot_slot_self]
  refine ⟨by rw [hrec]; rfl, by rw [hrec]; rfl, hset, (s.fenceCut_out i t k).trans (.of_out ?_)⟩
  rw [State.modSlot_out, hout]

/-! ## HM's checks of an event that fences (R29, R31 to R33) -/

/-- WATCHED and the alert flag are HM's alone, and a score that has not fallen below the watch threshold sends nothing. -/
theorem State.align_marks {s : State} {i : Slot} {p : Policy} (hp : (s.slot i).policy = some p)
    (hw : (s.slot i).hm.watched = true → p.watchT ≤ (s.slot i).hm.score) :
    ∃ h : HmRec, h.score = (s.slot i).hm.score ∧ ((s.alignWatch i).alignAlert i).slot i = { s.slot i with hm := h }
      ∧ ((s.alignWatch i).alignAlert i).out = s.out := by
  have hwatch : ∃ h : HmRec, h.score = (s.slot i).hm.score ∧ (s.alignWatch i).slot i = { s.slot i with hm := h }
      ∧ (s.alignWatch i).out = s.out := by
    unfold State.alignWatch
    rw [hp]
    dsimp only
    split
    next => exact ⟨_, rfl, rfl, rfl⟩
    next hne =>
      have hup : p.watchT ≤ (s.slot i).hm.score := by
        by_contra hlow
        rw [decide_eq_false hlow] at hne
        exact hlow (hw (by simpa using Ne.symm hne))
      rw [if_pos (decide_eq_true hup)]
      exact ⟨{ (s.slot i).hm with watched := decide (p.watchT ≤ (s.slot i).hm.score) }, rfl,
        by rw [State.raise_slot, State.modHm, State.modSlot_slot_self], rfl⟩
  obtain ⟨h, hscore, hslot, hout⟩ := hwatch
  rw [State.alignAlert_eq (p := p) (by rw [hslot]; exact hp), State.setSlot_slot_self, hslot, State.setSlot_out, hout]
  exact ⟨{ h with alert := h.alert && decide (p.fenceT ≤ h.score) }, hscore, rfl, rfl⟩

/-- The thresholds whose crossing fences the slot. -/
theorem State.checkThresholds_fences {s : State} {i : Slot} {p : Policy} {e : ScoreEvent} {old : Nat}
    (hp : (s.slot i).policy = some p) (ht : (s.slot i).cs.state.tracks = true)
    (h : (s.slot i).cs.state = .probation ∧ crossed old (s.slot i).hm.score p.probT = true
      ∨ (s.slot i).cs.state ≠ .probation ∧ p.autoContain = true ∧ crossed old (s.slot i).hm.score p.fenceT = true) :
    ∃ t k f, s.checkThresholds i e old = s.fence i t k f := by
  unfold State.checkThresholds
  rw [hp]
  rcases h with ⟨hst, hc⟩ | ⟨hst, ha, hc⟩
  · simp only [hst]
    rw [if_pos hc]
    exact ⟨_, _, _, rfl⟩
  · dsimp only
    split
    next => rw [if_pos hc, State.fenceEvent, if_pos ha]; exact ⟨_, _, _, rfl⟩
    next => rw [if_pos hc, State.fenceEvent, if_pos ha]; exact ⟨_, _, _, rfl⟩
    next hpr => exact absurd hpr hst
    next => cases hcs : (s.slot i).cs.state <;> simp_all [SlotState.tracks]

end Sys2Proof.Machine
end

section
/-! PROOFS. Promotion at a final completion, at an expiry, and after a fence. -/

namespace Sys2Proof.Machine

open Sys2Proof

/-! ## Promotion after a final completion (R11, R12) -/

/-- HM's taking of a scoring event that crosses no threshold and leaves WATCHED as it stands, up to the promotion that
ends it. -/
theorem State.scoreEvent_stands {s : State} {i : Slot} {p : Policy} {e : ScoreEvent} (hx : ∀ k q, e ≠ .deadlineExpiry k q)
    (hp : (s.slot i).policy = some p)
    (hw : decide (p.watchT ≤ e.apply (s.slot i).hm.score) = (s.slot i).hm.watched)
    (hc : SlotRec.uncrossed { s.slot i with hm := { (s.slot i).hm with score := e.apply (s.slot i).hm.score } } p
      (s.slot i).hm.score) :
    s.scoreEvent i e = (s.setSlot i (SlotRec.reported
      { s.slot i with hm := HmRec.compared { (s.slot i).hm with score := e.apply (s.slot i).hm.score } p }
      e.positive)).promote i := by
  have hweigh : s.weigh i e
      = s.setSlot i { s.slot i with hm := { (s.slot i).hm with score := e.apply (s.slot i).hm.score } } := rfl
  have hnote : ∀ u : State, u.noteExpiry i e = u := fun u => by
    cases e with
    | deadlineExpiry k q => exact absurd rfl (hx k q)
    | _ => rfl
  unfold State.scoreEvent State.scoreChecks
  rw [hnote, hweigh, State.checks_stand (p := p) e (by rw [State.setSlot_slot_self]; exact hp)
    (by rw [State.setSlot_slot_self]; exact hw) (by rw [State.setSlot_slot_self]; exact hc), State.setSlot_setSlot,
    State.setSlot_slot_self]

/-- Two records that agree on the tags, the policy, the state and WATCHED agree on what can be promoted. -/
theorem SlotRec.still_congr {r q : SlotRec} (hp : r.policy = q.policy) (ht : r.tt = q.tt) (hw : r.hm.watched = q.hm.watched)
    (hs : r.cs.state = q.cs.state) : r.still ↔ q.still := by
  unfold SlotRec.still
  rw [ht, SlotRec.takeable_congr hp (by rw [ht]) hw hs]

/-- The limit in force, as the statements of promotion write it. -/
theorem SlotRec.limit_eq_of {r : SlotRec} {p : Policy} (hp : r.policy = some p) :
    r.limit = if r.cs.state = .probation ∨ r.hm.watched = true then p.probLimit else p.outLimit := by
  rw [SlotRec.limit_eq, SlotRec.pol_eq hp]

/-- A success on a slot below the watch threshold with nothing to promote. -/
theorem State.scoreEvent_success_still {s : State} {i : Slot} {p : Policy} (hp : (s.slot i).policy = some p)
    (hs : (s.slot i).still) (hw : (s.slot i).hm.score < p.watchT) (hnw : (s.slot i).hm.watched = false) :
    s.scoreEvent i .success = s.setSlot i { s.slot i with hm := { (s.slot i).hm with
      score := (s.slot i).hm.score - 1
      alert := (s.slot i).hm.alert && decide (p.fenceT ≤ (s.slot i).hm.score - 1) } } := by
  have hdec : decide (p.watchT ≤ (s.slot i).hm.score - 1) = false := decide_eq_false (by omega)
  have hrec : HmRec.compared { (s.slot i).hm with score := (s.slot i).hm.score - 1 } p = { (s.slot i).hm with
      score := (s.slot i).hm.score - 1
      alert := (s.slot i).hm.alert && decide (p.fenceT ≤ (s.slot i).hm.score - 1) } := by
    unfold HmRec.compared
    dsimp only
    rw [hdec, ← hnw]
  rw [State.scoreEvent_stands (p := p) (e := .success) (by simp) hp (hdec.trans hnw.symm) (SlotRec.uncrossed_of_le (Nat.sub_le _ _)),
    show ScoreEvent.success.positive = false from rfl, SlotRec.reported_false]
  dsimp only [ScoreEvent.apply]
  rw [hrec]
  refine State.promote_still ?_
  rw [State.setSlot_slot_self]
  exact (SlotRec.still_congr rfl rfl rfl rfl).2 hs

/-- The tag that a final completion has freed, or a lower one, goes to the oldest held request. -/
theorem State.answeredUp_promotes {s : State} {i : Slot} {k l : Tag} {f : OrtFields} (q : Requester) (c : CardCpl) {h : Held}
    {rest : List Held} (hk : k ≠ engineTag) (hh : (s.slot i).tt.hold = h :: rest) (he : (s.slot i).tt.entry k = .live f)
    (hfull : (s.slot i).tt.liveHost = (s.slot i).limit) (hl : l ≠ engineTag)
    (hfree : l = k ∨ (s.slot i).tt.entry l = .free) (hlow : ∀ m, m < l → m ≠ k ∧ (s.slot i).tt.entry m ≠ .free) :
    let r := SlotRec.sent { s.slot i with tt := (s.slot i).tt.setEntry k .free } l h rest
    r.still ∧ (s.answeredUp i k q c).promote i
      = (s.setSlot i r).emits ([.completion q c] ++ [.sendDown i l h.request.op]) := by
  have hu : ((s.answeredUp i k q c).slot i) = { s.slot i with tt := (s.slot i).tt.setEntry k .free } :=
    s.answeredUp_slot i k q c
  have hfree' : ((s.slot i).tt.setEntry k .free).entry l = .free := by
    by_cases hlk : l = k
    · rw [hlk, TtRec.setEntry_self]
    · rw [TtRec.setEntry_ne _ _ _ _ hlk]
      exact hfree.resolve_left hlk
  have hlow' : ∀ m, m < l → ((s.slot i).tt.setEntry k .free).entry m ≠ .free := fun m hm => by
    rw [TtRec.setEntry_ne _ _ _ _ (hlow m hm).1]
    exact (hlow m hm).2
  have hlive : ((s.slot i).tt.setEntry k .free).liveHost + 1 = (s.slot i).limit :=
    (TtRec.liveHost_ended _ hk he rfl).trans hfull
  refine ⟨SlotRec.sent_still hl hfree' hlive.ge, ?_⟩
  rw [State.promote_one (k := l) (h := h) (rest := rest) (by rw [hu]; exact hh) hl (by rw [hu]; exact hfree')
    (by rw [hu]; exact hlow') (by rw [hu]; exact hlive), hu, State.answeredUp, State.emits_setSlot, State.setSlot_setSlot]
  simp only [State.emits, List.append_assoc]

/-- A final completion with Success outside PROBATION, up to its end. -/
theorem State.hostCompletes_final {s : State} {i : Slot} {k : Tag} {f : OrtFields} {q : Requester} {c : CardCpl}
    (hst : c.status = .success) (hlen : c.data.length ≤ f.bytes) (hrem : f.kind = .memoryRead → c.remaining = 0) :
    s.hostCompletes i k f q c = (((s.answeredUp i k q c).promote i).scoreEvent i .success).countSuccess i := by
  have hmal : f.malformed c = false := OrtFields.malformed_false hlen fun h1 _ h3 => absurd (hrem h1) h3
  have hcont : f.continues c = false := OrtFields.continues_false fun h1 _ => hrem h1
  unfold State.hostCompletes
  rw [if_neg (by simp [hmal]), if_neg (by simp [hcont]), hst]
  rfl

theorem State.watchFollows_below {s : State} {i : Slot} {p : Policy} (h : s.watchFollows) (hp : (s.slot i).policy = some p)
    (hw : (s.slot i).hm.watched = false) : (s.slot i).hm.score < p.watchT := by
  have hi := h i
  rw [hp, hw] at hi
  exact Nat.lt_of_not_le fun hle => by simp [hle] at hi

/-- An expiry on a slot at its limit goes on to the oldest held request, with the lowest FREE tag. -/
theorem State.expired_promotes {s u : State} {i : Slot} {k l : Tag} {f g : OrtFields} {h : Held} {rest : List Held}
    (hu : u.slot i = (s.slot i).expiredCalm k g) (hk : k ≠ engineTag) (hh : (s.slot i).tt.hold = h :: rest)
    (he : (s.slot i).tt.entry k = .live f) (hfull : (s.slot i).tt.liveHost = (s.slot i).limit) (hl : l ≠ engineTag)
    (hfree : (s.slot i).tt.entry l = .free) (hlow : ∀ m, m < l → (s.slot i).tt.entry m ≠ .free) :
    let r := ((s.slot i).expiredCalm k g).sent l h rest
    r.still ∧ u.promote i = (u.setSlot i r).emits [.sendDown i l h.request.op] := by
  have hlk : l ≠ k := fun hlk => by rw [hlk, he] at hfree; cases hfree
  have hfree' : ((s.slot i).tt.setEntry k (.stale g)).entry l = .free := by rw [TtRec.setEntry_ne _ _ _ _ hlk, hfree]
  have hlow' : ∀ m, m < l → ((s.slot i).tt.setEntry k (.stale g)).entry m ≠ .free := fun m hm => by
    by_cases hmk : m = k
    · rw [hmk, TtRec.setEntry_self]
      simp
    · rw [TtRec.setEntry_ne _ _ _ _ hmk]
      exact hlow m hm
  have hlimit : ((s.slot i).expiredCalm k g).limit = (s.slot i).limit := by
    rw [SlotRec.limit_eq, SlotRec.limit_eq]
    rfl
  have hlive : ((s.slot i).tt.setEntry k (.stale g)).liveHost + 1 = ((s.slot i).expiredCalm k g).limit :=
    ((TtRec.liveHost_ended _ hk he rfl).trans hfull).trans hlimit.symm
  refine ⟨SlotRec.sent_still hl hfree' hlive.ge, ?_⟩
  rw [State.promote_one (k := l) (h := h) (rest := rest) (by rw [hu]; exact hh) hl (by rw [hu]; exact hfree')
    (by rw [hu]; exact hlow') (by rw [hu]; exact hlive), hu]

/-- The checks of an expiry that crosses the fence threshold, or that of probation. -/
theorem State.expired_fences {s : State} {i : Slot} {k : Tag} {f : OrtFields} {q : Requester} {p : Policy}
    (hwf : s.watchFollows) (hp : (s.slot i).policy = some p) (ht : (s.slot i).cs.state.tracks = true) (hk : k ≠ engineTag)
    (hset : (s.slot i).planSettled) (hmax : (s.slot i).hm.score + 8 ≤ 1023) (hd : p.drain ≠ 0)
    (hcross : (s.slot i).cs.state = .probation ∧ (s.slot i).hm.score < p.probT ∧ p.probT ≤ (s.slot i).hm.score + 8
      ∨ (s.slot i).cs.state ≠ .probation ∧ p.autoContain = true ∧ (s.slot i).hm.score < p.fenceT
        ∧ p.fenceT ≤ (s.slot i).hm.score + 8) :
    let u := (((s.expired i k f q).alignWatch i).alignAlert i).checkThresholds i (.deadlineExpiry k f.kind)
      (s.slot i).hm.score
    (u.slot i).cs.state = .fenced ∧ (u.slot i).tt.hold = [] ∧ (u.slot i).planSettled
      ∧ Silent (s.emits ([abortUp q]
          ++ (((s.slot i).tt.setEntry k (.stale f)).abortLive ++ ((s.slot i).tt.setEntry k (.stale f)).abortHeld))) u := by
  have hslot := s.expired_slot i k f q
  have hscore : ((s.slot i).expired k f).hm.score = (s.slot i).hm.score + 8 := Nat.min_eq_right hmax
  have hcr : ∀ t, (s.slot i).hm.score < t → t ≤ (s.slot i).hm.score + 8 →
      crossed (s.slot i).hm.score ((s.slot i).hm.score + 8) t = true := fun t h1 h2 => by simp [crossed, h1, h2]
  have hwatch : ((s.expired i k f q).slot i).hm.watched = true → p.watchT ≤ ((s.expired i k f q).slot i).hm.score := by
    have hi := hwf i
    rw [hp] at hi
    rw [hslot, hscore]
    intro hw
    have hle : p.watchT ≤ (s.slot i).hm.score := of_decide_eq_true (hi.symm.trans hw)
    omega
  obtain ⟨m, hm, hrec, hout⟩ := State.align_marks (s := s.expired i k f q) (p := p) (by rw [hslot]; exact hp) hwatch
  rw [hslot] at hm hrec
  rw [hscore] at hm
  generalize ((s.expired i k f q).alignWatch i).alignAlert i = v at hrec hout ⊢
  obtain ⟨t, kind, fl, hf⟩ := State.checkThresholds_fences (s := v) (i := i) (p := p) (e := .deadlineExpiry k f.kind)
    (old := (s.slot i).hm.score) (by rw [hrec]; exact hp) (by rw [hrec]; exact ht) (by
      rw [hrec]
      dsimp only
      rw [hm]
      exact hcross.imp (fun ⟨a, b, c⟩ => ⟨a, hcr _ b c⟩) fun ⟨a, b, c, d⟩ => ⟨a, b, hcr _ c d⟩)
  have hfence := State.fence_drains (s := v) (i := i) t kind fl (l := k)
    (by rw [State.pol, hrec]; exact (SlotRec.pol_eq hp).symm ▸ hd) hk
    (by rw [hrec]; exact congrArg OrtEntry.isStale (TtRec.setEntry_self _ _ _)) (by rw [hrec]; exact hset)
  dsimp only at hfence ⊢
  rw [hf]
  obtain ⟨h1, h2, h3, h4⟩ := hfence
  refine ⟨h1, h2, h3, Silent.trans (.of_out ?_) h4⟩
  rw [hrec]
  change v.out ++ _ = s.out ++ _
  rw [hout, State.expired, List.append_assoc]
  rfl

/-- Settles O60: at a final completion and at a calm expiry one tag is there to take; a fence empties the Hold Queue
before the promotion. -/
theorem promotionTakesTheOldestHeldRequest : Obligations.PromotionTakesTheOldestHeldRequest := by
  intro s i k l f q b h rest p r limit sent hs hwf hset hp ht hk hh he ho hlim
  have hfull : r.tt.liveHost = r.limit := hlim.trans (SlotRec.limit_eq_of hp).symm
  refine ⟨fun c hst hlen hrem hnw hnp hl hfree hlow => ?_, fun hd hcalm hl hfree hlow => ?_, fun hd hmax hdr hcross => ?_⟩
  · obtain ⟨hstill, hprom⟩ := State.answeredUp_promotes q c hk hh he hfull hl hfree hlow
    have hscore := State.scoreEvent_success_still (s := (s.answeredUp i k q c).promote i) (i := i) (p := p)
      (by rw [hprom, State.emits_slot, State.setSlot_slot_self]; exact hp)
      (by rw [hprom, State.emits_slot, State.setSlot_slot_self]; exact hstill)
      (by rw [hprom, State.emits_slot, State.setSlot_slot_self]; exact State.watchFollows_below hwf hp hnw)
      (by rw [hprom, State.emits_slot, State.setSlot_slot_self]; exact hnw)
    rw [exec_hostCompletes c b he ho, State.hostCompletes_final hst hlen hrem, hscore, hprom, State.emits_slot,
      State.setSlot_slot_self, State.emits_setSlot, State.setSlot_setSlot,
      State.countSuccess_of_not (Or.inl (by rw [State.emits_slot, State.setSlot_slot_self]; exact hnp))]
    exact next_close hs hset rfl rfl (by rw [State.emits_slot, State.setSlot_slot_self]; rfl)
  · obtain ⟨-, -, -, -, -, hmax, -⟩ := id hcalm
    obtain ⟨hstill, hprom⟩ := State.expired_promotes (u := (s.expired i k f q).setSlot i ((s.slot i).expiredCalm k f)) (g := f)
      (State.setSlot_slot_self _ _ _) hk hh he hfull hl hfree hlow
    have hagain : ∀ u : State, u.slot i = (r.expiredCalm k f).sent l h rest → u.promote i = u := fun u hu =>
      State.promote_still (by rw [hu]; exact hstill)
    rw [exec_deadlineExpiry b he ho hd, State.expired_calm hcalm, hprom,
      hagain _ (by rw [State.emits_slot, State.setSlot_slot_self]), State.setSlot_setSlot, State.expired_setSlot hmax]
    refine next_close hs hset ?_ rfl ((congrArg SlotRec.ad (State.setSlot_slot_self s i
      (((s.slot i).expiredCalm k f).sent l h rest))).trans rfl)
    simp only [State.emits, List.append_assoc]
    rfl
  · rw [exec_deadlineExpiry b he ho hd]
    obtain ⟨h1, h2, h3, h4⟩ := State.expired_fences (f := f) (q := q) (k := k) hwf hp ht hk hset hmax hdr hcross
    have hstill : ∀ u : State, (u.slot i).tt.hold = [] → u.promote i = u := fun u hu => State.promote_still (Or.inl hu)
    generalize (((s.expired i k f q).alignWatch i).alignAlert i).checkThresholds i (.deadlineExpiry k f.kind)
      (s.slot i).hm.score = u at h1 h2 h3 h4 ⊢
    rw [hstill u h2, hstill u h2, State.close, State.settle_settled h3]
    have hslot := (u.align_returns i).slot
    obtain ⟨os, hos, hn⟩ := h4.trans u.align_silent
    refine ⟨_, rfl, by rw [hslot]; exact h1, by rw [hslot]; exact h2, ?_, ?_⟩
    · rw [hos]
      refine ⟨os, ?_⟩
      simp only [State.emits, List.append_assoc]
      rfl
    · rw [hos, State.emits_out, List.append_assoc, List.drop_left]
      intro o hmem m op
      simp only [List.mem_append, List.mem_singleton] at hmem
      rcases hmem with (rfl | hmem | hmem) | hmem
      · simp [abortUp]
      · exact abortLive_notDown _ o hmem _ _ _
      · exact abortHeld_notDown _ o hmem _ _ _
      · exact hn o hmem _ _ _

end Sys2Proof.Machine
end

section
/-! PROOFS. Reset assertions, the arrival in ISOLATED, and a state entry seen from before its event. -/

namespace Sys2Proof.Machine

open Sys2Proof

/-! ## Reset asserted and reported (R22, R72, R129) -/

/-- The record after a reset assertion has been reported. -/
def SlotRec.resetReported (r : SlotRec) : SlotRec := { r with tt := r.tt.freeAll, ctf := { r.ctf with holdover := none } }

/-- PRU's record in ASSERT with this hold. -/
def PruRec.inAssert (p : PruRec) (n : Nat) : PruRec := { p with asserted := true, timer := some n, phase := .assert }

/-- The entry to ASSERT, before the phase that a hold of 0 ends. -/
def State.enterAssert (s : State) (i : Slot) : State :=
  (s.modPru i fun p => p.inAssert ((s.slot i).pru.hold (s.pol i).resetHold)).resetAssertion i

theorem State.assertReset_eq (s : State) (i : Slot) :
    s.assertReset i = if (s.slot i).pru.hold (s.pol i).resetHold = 0 then (s.enterAssert i).assertDone i
      else s.enterAssert i := rfl

theorem State.resetAssertion_slot (s : State) (i : Slot) : (s.resetAssertion i).slot i = (s.slot i).resetReported :=
  State.setSlot_slot_self _ _ _

theorem State.resetAssertion_out (s : State) (i : Slot) :
    (s.resetAssertion i).out = s.out ++ ((s.slot i).tt.abortHeld ++ (s.slot i).tt.abortLive) := rfl

theorem State.enterAssert_slot (s : State) (i : Slot) :
    (s.enterAssert i).slot i = SlotRec.resetReported
      { s.slot i with pru := (s.slot i).pru.inAssert ((s.slot i).pru.hold (s.slot i).pol.resetHold) } := by
  rw [State.enterAssert, State.resetAssertion_slot, State.modPru_slot_self]
  rfl

theorem State.enterAssert_out (s : State) (i : Slot) :
    (s.enterAssert i).out = s.out ++ ((s.slot i).tt.abortHeld ++ (s.slot i).tt.abortLive) := by
  rw [State.enterAssert, State.resetAssertion_out, State.modPru_slot_self]
  rfl

/-! ## What follows ASSERT (R50, R72, R80) -/

/-- The slot in ISOLATED with PRU at rest, before AD returns what waits for it. -/
def State.goneIsolated (s : State) (i : Slot) : State :=
  let t := ((s.modPru i PruRec.rest).enter i .isolated).modCs i CsRec.isolate
  t.raise i .isolated (t.slot i).tt.discard

theorem State.goneIsolated_slot (s : State) (i : Slot) : (s.goneIsolated i).slot i = { s.slot i with
    pru := (s.slot i).pru.rest
    cs := { (s.slot i).cs with
      state := .isolated, kind := .none, target := .none, retryPending := false, restoreWanted := false }
    ctf := { (s.slot i).ctf with cls := SlotState.isolated.cls } } := by
  rw [State.goneIsolated, State.raise_slot, State.modCs, State.modSlot_slot_self, State.enter_slot_self,
    State.modPru_slot_self]
  rfl

theorem State.goneIsolated_ends (s : State) (i : Slot) :
    (s.modPru i PruRec.rest).enterIsolated i = (s.goneIsolated i).onEntry i .isolated (s.slot i).cs.attempts := by
  have h : (s.modPru i PruRec.rest).enterIsolated i
      = (s.goneIsolated i).onEntry i .isolated ((s.goneIsolated i).slot i).cs.attempts := rfl
  rw [h, congrArg (fun r : SlotRec => r.cs.attempts) (s.goneIsolated_slot i)]

theorem State.powerOffNow_slot (s : State) (i : Slot) : (s.powerOffNow i).slot i = SlotRec.enter
    (SlotRec.resetReported { s.slot i with pru := (s.slot i).pru.powerOff (s.slot i).pol.bleedWait }) .bleeding := by
  rw [State.powerOffNow, State.enter_slot_self, State.resetAssertion_slot, State.modPru_slot_self]
  rfl

theorem State.powerOffNow_out (s : State) (i : Slot) :
    (s.powerOffNow i).out = s.out ++ ((s.slot i).tt.abortHeld ++ (s.slot i).tt.abortLive) := by
  rw [State.powerOffNow, State.enter, State.modSlot_out, State.resetAssertion_out, State.modPru_slot_self]
  rfl

/-- Once every tag is FREE and nothing is held there is nothing to answer. -/
theorem TtRec.freeAll_aborts (t : TtRec) : t.freeAll.abortHeld ++ t.freeAll.abortLive = [] := by
  rw [List.append_eq_nil_iff]
  refine ⟨rfl, List.filterMap_eq_nil_iff.2 fun k _ => ?_⟩
  rw [TtRec.freeAll_entry]
  rfl

/-! ## A state entry seen from before the event (R148 to R152) -/

/-- What comes before a state entry in its event, and after it, adds outputs, and leaves the action alone. -/
theorem State.arrived_of {s u v w : State} {pre : List Output} {i : Slot} {st : SlotState} {n rd rd' : Nat}
    (h : u.arrived v [] i st n rd) (had : (u.slot i).ad = (s.slot i).ad) (hri : u.ri = s.ri) (htb : u.tb = s.tb)
    (hout : u.out = s.out ++ pre) (hw : v.out <+: w.out) (hin : w.ri.inFlight = v.ri.inFlight)
    (hca : w.ri.causes = v.ri.causes) (haw : (w.slot i).ad = (v.slot i).ad)
    (hrd : ∀ k o, (k, st, o) ∈ entryReturns → k = .powerOff ∨ k = .retire → rd' = rd) : s.arrived w pre i st n rd' := by
  intro e f cb k hold hk
  have hold' : u.holdsEntry i e f cb := by
    obtain ⟨hc, hr, hcb, hf⟩ := hold
    exact ⟨by rw [had]; exact hc, by rw [had]; exact hr, by rw [hri]; exact hcb, by rw [hri]; exact hf⟩
  obtain ⟨hret, hkeep⟩ := h e f cb k hold' hk
  refine ⟨fun o ho => ?_, fun hno => ?_⟩
  · obtain ⟨h1, h2, h3, h4⟩ := hret o ho
    have hr : (if k = .powerOff ∨ k = .retire then rd' else n) = if k = .powerOff ∨ k = .retire then rd else n := by
      split
      next hk' => exact hrd k o ho hk'
      next => rfl
    rw [List.append_nil, hout, htb] at h1
    rw [hri] at h2 h3
    unfold State.returned
    rw [hr]
    exact ⟨h1.trans hw, hin.trans h2, hca.trans h3, haw.trans h4⟩
  · obtain ⟨h1, h2⟩ := hkeep hno
    exact ⟨(haw.trans h1).trans had, by rw [hin, h2, hri]⟩

theorem State.align_arrives (s : State) (i : Slot) : s.out <+: s.align.out ∧ s.align.ri.inFlight = s.ri.inFlight
    ∧ s.align.ri.causes = s.ri.causes ∧ (s.align.slot i).ad = (s.slot i).ad := by
  refine ⟨(s.align_only i).out, by rw [State.align_ri], by rw [State.align_ri], ?_⟩
  rw [State.slot, s.align_ring.slots]
  rfl

/-- The end of the NONE path with the end of its event. -/
theorem State.goneIsolated_close {s t : State} {i : Slot} {pre : List Output} (hd : (s.slot i).planDone)
    (hout : t.out = s.out ++ pre) (hri : t.ri = s.ri) (htb : t.tb = s.tb) (hiq : t.iq = s.iq)
    (had : (t.slot i).ad = (s.slot i).ad) (hcs : (t.slot i).cs = (s.slot i).cs)
    (hdis : (t.slot i).tt.discard = (s.slot i).tt.discard) :
    let w := ((t.modPru i PruRec.rest).enterIsolated i).close i
    Returns i (t.goneIsolated i) w ∧ s.arrived w pre i .isolated (s.slot i).cs.attempts 0
      ∧ (queuedFor i s.iq ≤ 3 → ∃ x ∈ w.iq, x.slot = i ∧ x.kind = .isolated ∧ x.trigger = (s.slot i).cs.trigger
        ∧ x.countA = (s.slot i).tt.discard) := by
  have hgone := t.goneIsolated_slot i
  have hdone : ((t.goneIsolated i).slot i).planDone := by
    rw [hgone]
    exact (congrArg AdRec.remaining had).trans hd
  have hentry := (t.goneIsolated i).onEntry_returns i .isolated (t.slot i).cs.attempts
  dsimp only
  rw [State.goneIsolated_ends]
  have hclose := hentry.trans (Returns.close (Returns.refl i _) (hentry.done hdone))
  refine ⟨hclose, ?_, fun hq => ?_⟩
  · have harr := State.onEntry_arrived (t.goneIsolated i) i (t.slot i).cs.attempts
    rw [hgone] at harr
    rw [State.close, State.settle_settled (hentry.done hdone).settled]
    obtain ⟨h1, h2, h3, h4⟩ := ((t.goneIsolated i).onEntry i .isolated (t.slot i).cs.attempts).align_arrives i
    rw [← hcs]
    refine State.arrived_of harr (by rw [hgone]; exact had) hri htb hout h1 h2 h3 h4 fun k o hko hk => ?_
    rcases hk with rfl | rfl <;> simp [entryReturns] at hko
  · rw [hclose.iq]
    refine ⟨_, State.mem_raise .isolated _ 0 0 (hiq ▸ hq), rfl, rfl, ?_, ?_⟩
    · change (((t.modPru i PruRec.rest).enter i .isolated).modCs i CsRec.isolate |>.slot i).cs.trigger = _
      rw [State.modCs, State.modSlot_slot_self, State.enter_slot_self, State.modPru_slot_self]
      exact (congrArg CsRec.trigger hcs :)
    · change (((t.modPru i PruRec.rest).enter i .isolated).modCs i CsRec.isolate |>.slot i).tt.discard = _
      rw [State.modCs, State.modSlot_slot_self, State.enter_slot_self, State.modPru_slot_self]
      exact hdis

end Sys2Proof.Machine
end

section
/-! PROOFS. The ends of ISOLATE and ASSERT by sequence. -/

namespace Sys2Proof.Machine

open Sys2Proof

/-! ## The timers of ISOLATE and ASSERT (R69, R71, R72) -/

theorem State.isolateTimer_eq {s : State} {i : Slot} (hp : (s.slot i).pru.phase = .isolate)
    (ht : (s.slot i).pru.timer = some 0) : exec (.isolateEnd i) s = .next ((s.assertReset i).close i) := by
  have h : s.isolateTimer i = s.assertReset i := if_pos (by simp [PruRec.ends, hp, ht])
  rw [← h]
  rfl

theorem State.assertTimer_eq {s : State} {i : Slot} (hp : (s.slot i).pru.phase = .assert)
    (ht : (s.slot i).pru.timer = some 0) : exec (.assertEnd i) s = .next ((s.assertDone i).close i) := by
  have h : s.assertTimer i = s.assertDone i := if_pos (by simp [PruRec.ends, hp, ht])
  rw [← h]
  rfl

theorem PruRec.hold_eq_zero {p : PruRec} (n : Nat) (h : p.sequence ≠ .warm) : p.hold n = 0 := by
  unfold PruRec.hold
  split
  next hw => exact absurd hw h
  next => rfl

theorem PruRec.hold_warm {p : PruRec} (n : Nat) (h : p.sequence = .warm) : p.hold n = n := by
  unfold PruRec.hold
  rw [h]

/-- On the warm cycle ASSERT holds. -/
theorem State.assertReset_warm {s : State} {i : Slot} (hw : (s.slot i).pru.sequence = .warm)
    (hh : (s.slot i).pol.resetHold ≠ 0) : s.assertReset i = s.enterAssert i := by
  rw [State.assertReset_eq, PruRec.hold_warm _ hw]
  exact if_neg hh

/-- In every other sequence ASSERT ends at once. -/
theorem State.assertReset_through {s : State} {i : Slot} (hw : (s.slot i).pru.sequence ≠ .warm) :
    s.assertReset i = (s.enterAssert i).assertDone i := by
  rw [State.assertReset_eq, if_pos (PruRec.hold_eq_zero _ hw)]

theorem State.assertDone_isolate {s : State} {i : Slot} (h : (s.slot i).pru.sequence = .isolate) :
    s.assertDone i = (s.modPru i PruRec.rest).enterIsolated i := by simp only [State.assertDone, h]

theorem State.assertDone_coldDown {s : State} {i : Slot} (h : (s.slot i).pru.sequence = .coldDown) :
    s.assertDone i = s.powerOffNow i := by simp only [State.assertDone, h]

theorem State.assertDone_warm {s : State} {i : Slot} (h : (s.slot i).pru.sequence = .warm) :
    s.assertDone i = s.reconnect i := by simp only [State.assertDone, h]

theorem State.assertDone_other {s : State} {i : Slot} (h1 : (s.slot i).pru.sequence ≠ .warm)
    (h2 : (s.slot i).pru.sequence ≠ .isolate) (h3 : (s.slot i).pru.sequence ≠ .coldDown) : s.assertDone i = s := by
  unfold State.assertDone
  split
  · contradiction
  · contradiction
  · contradiction
  · rfl

/-- What every way on from ISOLATE has in common: reset ASSERTED and reported. -/
def SlotRec.asserted (r q : SlotRec) : Prop :=
  q.pru.asserted = true ∧ q.tt = r.tt.freeAll ∧ q.ctf.holdover = none

theorem SlotRec.asserted.spelt {r q : SlotRec} (h : r.asserted q) :
    q.pru.asserted = true ∧ (∀ k, q.tt.entry k = .free) ∧ q.tt.hold = [] ∧ q.tt.discard = r.tt.discard
      ∧ q.ctf.holdover = none := by
  obtain ⟨h1, h2, h3⟩ := h
  exact ⟨h1, fun k => by rw [h2, TtRec.freeAll_entry], by rw [h2]; rfl, by rw [h2]; rfl, h3⟩

/-- The entry to ASSERT and what follows it in its event, before returns. -/
def State.pastAssert (s : State) (i : Slot) : State :=
  match (s.slot i).pru.sequence with
  | .isolate => (s.enterAssert i).goneIsolated i
  | .coldDown => (s.enterAssert i).powerOffNow i
  | _ => s.enterAssert i

theorem State.enterAssert_sequence (s : State) (i : Slot) :
    ((s.enterAssert i).slot i).pru.sequence = (s.slot i).pru.sequence := by
  rw [State.enterAssert_slot]
  rfl

/-- The timer of ISOLATE with the end of its event. -/
theorem State.assertReset_returns {s : State} {i : Slot} (hd : (s.slot i).planDone) (hh : (s.slot i).pol.resetHold ≠ 0) :
    Returns i (s.pastAssert i) ((s.assertReset i).close i) := by
  have hseq := s.enterAssert_sequence i
  have hdone : ((s.enterAssert i).slot i).planDone := by
    rw [State.enterAssert_slot]
    exact hd
  unfold State.pastAssert
  split
  next h =>
    rw [State.assertReset_through (by rw [h]; decide), State.assertDone_isolate (by rw [hseq, h]), State.goneIsolated_ends]
    have hent := ((s.enterAssert i).goneIsolated i).onEntry_returns i .isolated ((s.enterAssert i).slot i).cs.attempts
    exact hent.trans (Returns.close (Returns.refl i _) (hent.done (by rw [State.goneIsolated_slot]; exact hdone)))
  next h =>
    rw [State.assertReset_through (by rw [h]; decide), State.assertDone_coldDown (by rw [hseq, h])]
    exact Returns.close (Returns.refl i _) (by rw [State.powerOffNow_slot]; exact hdone)
  next h1 h2 =>
    have hsame : s.assertReset i = s.enterAssert i := by
      by_cases hw : (s.slot i).pru.sequence = .warm
      · exact State.assertReset_warm hw hh
      · rw [State.assertReset_through hw, State.assertDone_other (by rwa [hseq]) (by rwa [hseq]) (by rwa [hseq])]
    rw [hsame]
    exact Returns.close (Returns.refl i _) hdone

theorem State.pastAssert_asserted (s : State) (i : Slot) : (s.slot i).asserted ((s.pastAssert i).slot i) := by
  have hassert := s.enterAssert_slot i
  unfold State.pastAssert
  split
  · rw [State.goneIsolated_slot, hassert]
    exact ⟨rfl, rfl, rfl⟩
  · rw [State.powerOffNow_slot, hassert]
    exact ⟨rfl, rfl, rfl⟩
  · rw [hassert]
    exact ⟨rfl, rfl, rfl⟩

theorem State.pastAssert_out (s : State) (i : Slot) :
    (s.pastAssert i).out = s.out ++ ((s.slot i).tt.abortHeld ++ (s.slot i).tt.abortLive) := by
  have hout := s.enterAssert_out i
  unfold State.pastAssert
  split
  · exact hout
  · rw [State.powerOffNow_out, State.enterAssert_slot, hout]
    exact (congrArg _ (TtRec.freeAll_aborts _)).trans (List.append_nil _)
  · exact hout

/-- Power-off after ASSERT with every other output up. -/
theorem State.powerOff_signals {s : State} {i : Slot} (h1 : (s.slot i).pru.isoOpen = true)
    (h2 : (s.slot i).pru.asserted = false) (h3 : (s.slot i).pru.power = true) (h4 : (s.slot i).pru.bleed = false) :
    ((s.enterAssert i).powerOffNow i).signals
      = s.signals ++ [⟨i, .reset, true⟩, ⟨i, .power, false⟩, ⟨i, .bleed, true⟩] := by
  have hs : ((s.enterAssert i).powerOffNow i).signals = (s.enterAssert i).signals
      ++ signalChanges i ((s.enterAssert i).slot i).pru (((s.enterAssert i).slot i).pru.powerOff ((s.enterAssert i).pol i).bleedWait) :=
    rfl
  have ha : (s.enterAssert i).signals = s.signals ++ signalChanges i (s.slot i).pru
      ((s.slot i).pru.inAssert ((s.slot i).pru.hold (s.pol i).resetHold)) := rfl
  rw [hs, ha, State.enterAssert_slot, List.append_assoc]
  simp [signalChanges, PruRec.inAssert, PruRec.powerOff, SlotRec.resetReported, h1, h2, h3, h4]

/-- Isolation CLOSED with a release lag: the one output that changes. -/
theorem State.reconnect_lags {s : State} {i : Slot} (h : (s.slot i).pol.releaseLag ≠ 0) :
    s.reconnect i = { s.setSlot i { s.slot i with
        pru := { (s.slot i).pru with isoOpen := false, timer := some (s.slot i).pol.releaseLag, phase := .reconnect } } with
      signals := s.signals ++ if (s.slot i).pru.isoOpen then [⟨i, .isolation, false⟩] else [] } := by
  have hsig : signalChanges i (s.slot i).pru
      { (s.slot i).pru with isoOpen := false, timer := some (s.slot i).pol.releaseLag, phase := .reconnect }
      = if (s.slot i).pru.isoOpen then [⟨i, .isolation, false⟩] else [] := by simp [signalChanges]
  rw [← hsig]
  unfold State.reconnect
  dsimp only
  exact if_neg h

/-- Settles O23, by the sequence: the state before the returns of each, and what returns leave alone. -/
theorem isolateAndAssertEndBySequence : Obligations.IsolateAndAssertEndBySequence := by
  refine ⟨fun s i hs hd hph ht hh => ?_, fun s i hs hd hph ht => ?_⟩
  · rw [State.isolateTimer_eq hph ht]
    have hret := State.assertReset_returns hd hh
    have hslot := hret.slot
    have hassert := s.enterAssert_slot i
    obtain ⟨h1, h2, h3, h4, h5⟩ : _ := SlotRec.asserted.spelt (s.pastAssert_asserted i)
    refine ⟨_, rfl, by rw [hslot]; exact h1, by rw [hslot]; exact h2, by rw [hslot]; exact h3, by rw [hslot]; exact h4,
      by rw [hslot]; exact h5, ?_, fun hq => ?_, fun hq => ?_, fun hq => ?_⟩
    · rw [List.append_assoc, ← State.pastAssert_out]
      exact hret.out
    · have hp : (s.pastAssert i).slot i = (s.enterAssert i).slot i := by simp only [State.pastAssert, hq]
      rw [hslot, hp, hassert, PruRec.hold_warm _ hq]
      exact ⟨rfl, rfl⟩
    · have hp : (s.pastAssert i).slot i = ((s.enterAssert i).goneIsolated i).slot i := by simp only [State.pastAssert, hq]
      have hne : (s.slot i).pru.sequence ≠ .warm := by rw [hq]; decide
      obtain ⟨-, harr, hinc⟩ := State.goneIsolated_close (t := s.enterAssert i) hd (s.enterAssert_out i) rfl rfl rfl
        (by rw [hassert]; rfl) (by rw [hassert]; rfl) (by rw [hassert]; rfl)
      rw [← State.assertDone_isolate (by rw [State.enterAssert_sequence, hq]), ← State.assertReset_through hne] at harr hinc
      refine ⟨?_, ?_, harr, hinc⟩ <;> rw [hslot, hp, State.goneIsolated_slot, hassert] <;> rfl
    · have hp : s.pastAssert i = (s.enterAssert i).powerOffNow i := by simp only [State.pastAssert, hq]
      have hrec := hslot.trans (congrArg (fun r : SlotRec => { r with ad := (((s.assertReset i).close i).slot i).ad })
        ((congrArg (State.slot · i) hp).trans ((s.enterAssert i).powerOffNow_slot i)))
      rw [hassert] at hrec
      refine ⟨by rw [hrec]; rfl, by rw [hrec]; exact ⟨rfl, rfl, rfl⟩, by rw [hrec]; rfl, by rw [hrec]; rfl, by rw [hrec]; rfl,
        by rw [hrec]; rfl, by rw [hrec]; rfl, by rw [hrec]; rfl, fun a b c d => ?_⟩
      rw [hret.signals, hp, State.powerOff_signals a b c d]
  · rw [State.assertTimer_eq hph ht]
    refine ⟨_, rfl, fun hq hlag => ?_, fun hq => ?_, fun hq => ?_⟩
    · rw [State.assertDone_warm hq, State.reconnect_lags hlag]
      refine State.close_quiet hs hd.settled rfl ?_
      change ((s.setSlot i _).slot i).ad = _
      rw [State.setSlot_slot_self]
    · obtain ⟨hret, harr, -⟩ := State.goneIsolated_close (t := s) (pre := []) hd (List.append_nil _).symm rfl rfl rfl rfl rfl rfl
      have hslot := hret.slot
      rw [State.goneIsolated_slot] at hslot
      rw [State.assertDone_isolate hq, hslot]
      exact ⟨rfl, rfl, rfl, rfl, rfl, rfl, rfl, harr⟩
    · have hret : Returns i (s.powerOffNow i) ((s.powerOffNow i).close i) :=
        Returns.close (Returns.refl i _) (by rw [State.powerOffNow_slot]; exact hd)
      have hslot := hret.slot
      rw [State.powerOffNow_slot] at hslot
      rw [State.assertDone_coldDown hq, hslot]
      exact ⟨rfl, ⟨rfl, rfl, rfl⟩, rfl, rfl, rfl⟩

end Sys2Proof.Machine
end

section
/-! PROOFS. Several incidents taken in one event, and one slot at a host-port reset. -/

namespace Sys2Proof.Machine

open Sys2Proof

/-! ## Several incidents taken in one event (R180, R181) -/

/-- Incidents taken in order. -/
def iwTakes (xs : List Incident) (q : List Incident) : List Incident := xs.foldl (fun q x => iwTake x q) q

theorem iwTakes_cons (x : Incident) (xs q : List Incident) : iwTakes (x :: xs) q = iwTakes xs (iwTake x q) := rfl

theorem iwTakes_append (xs ys q : List Incident) : iwTakes (xs ++ ys) q = iwTakes ys (iwTakes xs q) := List.foldl_append

/-- A merge touches only incidents of its slot. -/
theorem mem_mergeNewest {i : Slot} {k : IncKind} {x : Incident} {q : List Incident} (hi : x.slot ≠ i) (h : x ∈ q) :
    x ∈ mergeNewest i k q := by
  induction q with
  | nil => cases h
  | cons y ys ih =>
    unfold mergeNewest
    split
    next hy =>
      rcases List.mem_cons.1 h with rfl | h
      · exact absurd hy.1 hi
      · exact List.mem_cons_of_mem _ h
    next =>
      rcases List.mem_cons.1 h with rfl | h
      · exact List.mem_cons_self
      · exact List.mem_cons_of_mem _ (ih h)

theorem mem_iwTake_other {x y : Incident} {q : List Incident} (hs : x.slot ≠ y.slot) (h : x ∈ q) : x ∈ iwTake y q := by
  unfold iwTake
  split
  · exact List.mem_append_left _ h
  · exact mem_mergeNewest hs h

theorem queuedFor_iwTake_other {i : Slot} {y : Incident} (q : List Incident) (h : y.slot ≠ i) :
    queuedFor i (iwTake y q) = queuedFor i q := by
  unfold iwTake
  split
  · simp [queuedFor, List.countP_append, h]
  · exact queuedFor_congr (mergeNewest_slots _ _ _) i

theorem mem_iwTakes_other {x : Incident} {xs : List Incident} {q : List Incident} (hs : ∀ y ∈ xs, x.slot ≠ y.slot)
    (h : x ∈ q) : x ∈ iwTakes xs q := by
  induction xs generalizing q with
  | nil => exact h
  | cons y ys ih =>
    obtain ⟨hy, hys⟩ := List.forall_mem_cons.1 hs
    exact ih hys (mem_iwTake_other hy h)

/-- With one incident for each slot, each of them with room is queued. -/
theorem mem_iwTakes {x : Incident} {xs : List Incident} {q : List Incident} (hp : xs.Pairwise fun y z => y.slot ≠ z.slot)
    (hx : x ∈ xs) (h : queuedFor x.slot q < 4) : x ∈ iwTakes xs q := by
  induction xs generalizing q with
  | nil => cases hx
  | cons y ys ih =>
    obtain ⟨hy, hys⟩ := List.pairwise_cons.1 hp
    rcases List.mem_cons.1 hx with rfl | hx
    · rw [iwTakes_cons]
      exact mem_iwTakes_other hy (mem_iwTake_self h)
    · exact ih hys hx (by rw [queuedFor_iwTake_other _ (hy x hx)]; exact h)

/-- With one incident for each slot, and room for each, the queue is only appended to. -/
theorem prefix_iwTakes {xs : List Incident} {q : List Incident} (hp : xs.Pairwise fun y z => y.slot ≠ z.slot)
    (h : ∀ x ∈ xs, queuedFor x.slot q < 4) : q <+: iwTakes xs q := by
  induction xs generalizing q with
  | nil => exact List.prefix_rfl
  | cons y ys ih =>
    obtain ⟨hy, hys⟩ := List.pairwise_cons.1 hp
    obtain ⟨hq, hqs⟩ := List.forall_mem_cons.1 h
    have happ : iwTake y q = q ++ [y] := if_pos hq
    rw [iwTakes_cons]
    refine List.IsPrefix.trans ?_ (ih hys fun x hx => by rw [queuedFor_iwTake_other _ (hy x hx)]; exact hqs x hx)
    rw [happ]
    exact List.prefix_append _ _

/-! ## One slot at a host-port reset (R66, R86) -/

/-- CS and PRU's work on the slot's record. -/
def SlotRec.resetMove (r : SlotRec) : SlotRec :=
  if r.cs.state.movedByReset then
    { SlotRec.resetReported { r with pru := r.pru.hostIsolate } with
      cs := { r.cs.isolate with state := .isolated, trigger := .hostPortReset, drain := none }
      ctf := { r.ctf with holdover := none, cls := SlotState.isolated.cls } }
  else if r.cs.state = .bleeding then { r with cs := { r.cs with target := .off, retryPending := false } }
  else r

/-- The outputs of the slot that change. -/
def State.moveSignals (s : State) (i : Slot) : List SignalChange :=
  if (s.slot i).cs.state.movedByReset then signalChanges i (s.slot i).pru (s.slot i).pru.hostIsolate else []

/-- The incident of a slot that the reset moves. -/
def State.moveIncident (s : State) (i : Slot) : Incident :=
  { slot := i, kind := .isolated, state := .isolated, timestamp := s.now, score := (s.slot i).hm.score
    attempts := (s.slot i).cs.attempts, trigger := .hostPortReset, mergedCount := 0, merged := 0
    countA := (s.slot i).tt.discard, countB := 0, detail := 0 }

def State.moveIncidents (s : State) (i : Slot) : List Incident :=
  if (s.slot i).cs.state.movedByReset then [s.moveIncident i] else []

/-- Nothing of the slot has to be answered. -/
def SlotRec.answered (r : SlotRec) : Prop := r.tt.abortHeld ++ r.tt.abortLive = []

theorem State.resetSlot_slot (s : State) (i : Slot) : (s.resetSlot i).slot i = (s.slot i).resetMove := by
  unfold State.resetSlot SlotRec.resetMove
  dsimp only
  split
  · unfold State.moveIsolated
    dsimp only
    rw [State.raise_slot, State.modCs, State.modSlot_slot_self, State.enter_slot_self, State.resetAssertion_slot,
      State.modPru_slot_self]
    rfl
  · split
    · rw [State.modCs, State.modSlot_slot_self]
    · rfl

theorem SlotRec.resetMove_answered {r : SlotRec} (h : r.answered) : r.resetMove.answered := by
  unfold SlotRec.resetMove
  split
  · exact TtRec.freeAll_aborts _
  · split <;> exact h

/-- What the reset of one slot makes of the part outside the slot's record. -/
structure Moved (l : List Slot) (s t : State) : Prop where
  slot : ∀ i, t.slot i = if i ∈ l then (s.slot i).resetMove else s.slot i
  iq : t.iq = iwTakes (l.flatMap s.moveIncidents) s.iq
  signals : t.signals = s.signals ++ l.flatMap s.moveSignals
  out : t.out = s.out
  tb : t.tb = s.tb
  sampleTimer : t.sampleTimer = s.sampleTimer
  senseInterval : t.senseInterval = s.senseInterval
  rm : t.rm = s.rm
  se : t.se = s.se
  ri : t.ri = s.ri

theorem State.moveIsolated_iq (s : State) (i : Slot) : (s.moveIsolated i).iq = iwTake (s.moveIncident i) s.iq := by
  have h : (s.moveIsolated i).iq = iwTake ((((s.modPru i PruRec.hostIsolate).resetAssertion i).enter i .isolated |>.modCs i
      fun c => { c.isolate with trigger := .hostPortReset, drain := none }).incident i .isolated
      ((((s.modPru i PruRec.hostIsolate).resetAssertion i).enter i .isolated |>.modCs i
        fun c => { c.isolate with trigger := .hostPortReset, drain := none }).slot i).tt.discard 0 0) s.iq := rfl
  rw [h, State.incident, State.modCs, State.modSlot_slot_self, State.enter_slot_self, State.resetAssertion_slot,
    State.modPru_slot_self]
  rfl

theorem State.moveIsolated_out {s : State} {i : Slot} (h : (s.slot i).answered) : (s.moveIsolated i).out = s.out := by
  have ho : (s.moveIsolated i).out = ((s.modPru i PruRec.hostIsolate).resetAssertion i).out := rfl
  rw [ho, State.resetAssertion_out, State.modPru_slot_self]
  exact (congrArg _ h).trans (List.append_nil _)

theorem State.resetSlot_moved {s : State} {i : Slot} (h : (s.slot i).answered) : Moved [i] s (s.resetSlot i) := by
  have hslot : ∀ j, (s.resetSlot i).slot j = if j ∈ [i] then (s.slot j).resetMove else s.slot j := fun j => by
    by_cases hj : j = i
    · rw [hj, if_pos (by simp), State.resetSlot_slot]
    · rw [if_neg (by simpa using hj), (s.resetSlot_only i).others j hj]
  have hrest : ∀ t : State, t.iq = iwTakes (s.moveIncidents i) s.iq → t.signals = s.signals ++ s.moveSignals i →
      s.resetSlot i = t → t.out = s.out → t.tb = s.tb → t.sampleTimer = s.sampleTimer → t.senseInterval = s.senseInterval →
      t.rm = s.rm → t.se = s.se → t.ri = s.ri → Moved [i] s (s.resetSlot i) := fun t h1 h2 ht h4 h5 h6 h7 h8 h9 h10 => by
    refine ⟨hslot, ?_, ?_, ?_, ?_, ?_, ?_, ?_, ?_, ?_⟩ <;> rw [ht] <;> simp_all
  by_cases hm : (s.slot i).cs.state.movedByReset = true
  · refine hrest (s.moveIsolated i) ?_ ?_ (if_pos hm) (State.moveIsolated_out h) rfl rfl rfl rfl rfl rfl
    · rw [State.moveIncidents, if_pos hm, State.moveIsolated_iq]
      rfl
    · rw [State.moveSignals, if_pos hm]
      rfl
  · have hnm : s.moveSignals i = [] ∧ s.moveIncidents i = [] := ⟨if_neg hm, if_neg hm⟩
    by_cases hb : (s.slot i).cs.state = .bleeding
    · refine hrest (s.modCs i fun c => { c with target := .off, retryPending := false }) ?_ ?_ ?_ rfl rfl rfl rfl rfl rfl rfl
      · rw [hnm.2]; rfl
      · rw [hnm.1, List.append_nil]; rfl
      · rw [State.resetSlot, if_neg hm, if_pos hb]
    · refine hrest s ?_ ?_ ?_ rfl rfl rfl rfl rfl rfl rfl
      · rw [hnm.2]; rfl
      · rw [hnm.1, List.append_nil]
      · rw [State.resetSlot, if_neg hm, if_neg hb]

end Sys2Proof.Machine
end

section
/-! PROOFS. The host-port reset of every slot. -/

namespace Sys2Proof.Machine

open Sys2Proof

/-! ## Every slot at a host-port reset (R66; log 8) -/

/-- The slots taken in order, each once. -/
theorem State.resetSlots_moved (l : List Slot) : ∀ s : State, l.Nodup → (∀ i ∈ l, (s.slot i).answered) →
    Moved l s (l.foldl State.resetSlot s) := by
  induction l with
  | nil => exact fun s _ _ => ⟨fun _ => by simp, rfl, by simp, rfl, rfl, rfl, rfl, rfl, rfl, rfl⟩
  | cons j l ih =>
    intro s hl ha
    obtain ⟨hj, hnd⟩ := List.nodup_cons.1 hl
    obtain ⟨haj, hal⟩ := List.forall_mem_cons.1 ha
    have hone := State.resetSlot_moved haj
    have hother : ∀ i ∈ l, (s.resetSlot j).slot i = s.slot i := fun i hi =>
      (s.resetSlot_only j).others i fun h => hj (h ▸ hi)
    have hrest := ih (s.resetSlot j) hnd fun i hi => by rw [hother i hi]; exact hal i hi
    have hinc : l.flatMap (s.resetSlot j).moveIncidents = l.flatMap s.moveIncidents :=
      List.flatMap_congr fun i hi => by
        simp only [State.moveIncidents, State.moveIncident, hother i hi, State.now, hone.tb]
    have hsig : l.flatMap (s.resetSlot j).moveSignals = l.flatMap s.moveSignals :=
      List.flatMap_congr fun i hi => by simp only [State.moveSignals, hother i hi]
    refine ⟨fun i => ?_, ?_, ?_, hrest.out.trans hone.out, hrest.tb.trans hone.tb, hrest.sampleTimer.trans hone.sampleTimer,
      hrest.senseInterval.trans hone.senseInterval, hrest.rm.trans hone.rm, hrest.se.trans hone.se, hrest.ri.trans hone.ri⟩
    · rw [List.foldl_cons, hrest.slot, hone.slot]
      by_cases hi : i = j
      · subst hi
        simp [hj]
      · simp [hi]
    · rw [List.foldl_cons, hrest.iq, hone.iq, hinc, List.flatMap_cons, List.flatMap_cons, List.flatMap_nil, List.append_nil,
        iwTakes_append]
    · rw [List.foldl_cons, hrest.signals, hone.signals, hsig, List.flatMap_cons, List.flatMap_cons, List.flatMap_nil,
        List.append_nil, List.append_assoc]

/-- TT leaves nothing to answer. -/
theorem SlotRec.hostReset_answered (r : SlotRec) : r.hostReset.answered := by
  refine List.append_eq_nil_iff.2 ⟨rfl, List.filterMap_eq_nil_iff.2 fun k _ => ?_⟩
  change (r.tt.cutOff.entry k).abortOut = none
  rw [TtRec.cutOff_entry]
  cases r.tt.entry k <;> rfl

theorem State.hostPort_moved (s : State) (o : List Slot) : Moved (slotOrder o) s.resetBlocks (s.hostPort o) :=
  State.resetSlots_moved _ _ (nodup_slotOrder o) fun i _ => by
    rw [State.resetBlocks_slot]
    exact SlotRec.hostReset_answered _

theorem State.hostPort_slot (s : State) (o : List Slot) (i : Slot) : (s.hostPort o).slot i = (s.slot i).hostReset.resetMove := by
  rw [(s.hostPort_moved o).slot, if_pos (mem_slotOrder o i), State.resetBlocks_slot]

/-! ## The sample shares (R96) -/

theorem RmRec.withdraw_sample (m : RmRec) (i : Slot) :
    ((m.withdraw i .sample).req i).sample = false ∧ ∀ j, j ≠ i → (m.withdraw i .sample).req j = m.req j := by
  unfold RmRec.withdraw
  dsimp only
  split
  · split
    · exact ⟨by rw [RmRec.setReq_self]; rfl, fun j h => RmRec.setReq_ne _ _ _ _ h⟩
    · exact ⟨by rw [RmRec.setReq_self]; rfl, fun j h => RmRec.setReq_ne _ _ _ _ h⟩
  · exact ⟨by rw [RmRec.setReq_self]; rfl, fun j h => RmRec.setReq_ne _ _ _ _ h⟩
  · exact ⟨by rw [RmRec.setReq_self]; rfl, fun j h => RmRec.setReq_ne _ _ _ _ h⟩

/-- A withdrawal changes the requests alone. -/
theorem RmRec.withdraw_same (m : RmRec) (i : Slot) (k : Share) : m.withdraw i k = { m with reqs := (m.withdraw i k).reqs } := by
  unfold RmRec.withdraw
  dsimp only
  split
  · split <;> rfl
  · rfl
  · rfl

theorem RmRec.withdraws_same (l : List Slot) (m : RmRec) :
    l.foldl (fun m i => m.withdraw i .sample) m
      = { m with reqs := (l.foldl (fun m i => m.withdraw i .sample) m).reqs } := by
  induction l generalizing m with
  | nil => rfl
  | cons i l ih =>
    obtain ⟨r, hr⟩ : ∃ r, m.withdraw i .sample = { m with reqs := r } := ⟨_, m.withdraw_same i .sample⟩
    rw [List.foldl_cons, hr, ih]

theorem RmRec.hostReset_same (m : RmRec) : m.hostReset = { m with reqs := m.hostReset.reqs } := RmRec.withdraws_same allSlots m

theorem State.resetBlocks_rm (s : State) : s.resetBlocks.rm = s.rm.hostReset := by simp only [State.resetBlocks]

theorem RmRec.withdraws_sample (l : List Slot) (m : RmRec) (i : Slot) (h : i ∈ l ∨ (m.req i).sample = false) :
    ((l.foldl (fun m i => m.withdraw i .sample) m).req i).sample = false := by
  induction l generalizing m with
  | nil => simpa using h
  | cons j l ih =>
    rw [List.foldl_cons]
    refine ih _ ?_
    by_cases hij : i = j
    · exact Or.inr (by rw [hij]; exact (m.withdraw_sample j).1)
    · rcases h with h | h
      · exact Or.inl ((List.mem_cons.1 h).resolve_left hij)
      · exact Or.inr (by rw [(m.withdraw_sample j).2 i hij]; exact h)

/-! ## The outputs and the incidents of the slots that move -/

/-- A changed output of the reset is one of its slot. -/
theorem State.moveSignals_filter (s : State) (i j : Slot) :
    (s.moveSignals j).filter (fun x => decide (x.slot = i)) = if j = i then s.moveSignals j else [] := by
  have hslot : ∀ c ∈ s.moveSignals j, c.slot = j := fun c hc => by
    unfold State.moveSignals at hc
    split at hc
    · exact signalChanges_slot hc
    · cases hc
  split
  next h => exact List.filter_eq_self.2 fun c hc => by simp [hslot c hc, h]
  next h => exact List.filter_eq_nil_iff.2 fun c hc => by simp [hslot c hc, h]

theorem State.moveSignals_of (s : State) (i : Slot) (l : List Slot) (hn : l.Nodup) :
    (l.flatMap s.moveSignals).filter (fun x => decide (x.slot = i)) = if i ∈ l then s.moveSignals i else [] := by
  induction l with
  | nil => rfl
  | cons j l ih =>
    obtain ⟨hj, hnd⟩ := List.nodup_cons.1 hn
    rw [List.flatMap_cons, List.filter_append, ih hnd, State.moveSignals_filter]
    by_cases hij : i = j
    · subst hij
      simp [hj]
    · simp [hij, Ne.symm hij]

theorem State.moveSignals_up {s : State} {i : Slot} (hm : (s.slot i).cs.state.movedByReset = true) (hu : (s.slot i).pru.up) :
    s.moveSignals i = [⟨i, .isolation, true⟩, ⟨i, .reset, true⟩] := by
  obtain ⟨h1, h2, h3, h4⟩ := hu
  rw [State.moveSignals, if_pos hm]
  simp [signalChanges, PruRec.hostIsolate, PruRec.rest, h1, h2, h3, h4]

theorem State.moveIncidents_slot {s : State} {i : Slot} {x : Incident} (h : x ∈ s.moveIncidents i) : x.slot = i := by
  unfold State.moveIncidents at h
  split at h
  · rw [List.mem_singleton.1 h]
    rfl
  · cases h

theorem State.moveIncidents_apart (s : State) (l : List Slot) (hn : l.Nodup) :
    (l.flatMap s.moveIncidents).Pairwise fun y z => y.slot ≠ z.slot := by
  induction l with
  | nil => exact List.Pairwise.nil
  | cons j l ih =>
    obtain ⟨hj, hnd⟩ := List.nodup_cons.1 hn
    rw [List.flatMap_cons, List.pairwise_append]
    refine ⟨?_, ih hnd, fun x hx y hy => ?_⟩
    · unfold State.moveIncidents
      split
      · exact List.pairwise_singleton _ _
      · exact List.Pairwise.nil
    · obtain ⟨k, hk, hyk⟩ := List.mem_flatMap.1 hy
      rw [State.moveIncidents_slot hx, State.moveIncidents_slot hyk]
      exact fun h => hj (h ▸ hk)

/-! ## The record after the reset -/

theorem SlotRec.resetMove_moved {r : SlotRec} (h : r.cs.state.movedByReset = true) :
    r.resetMove = { SlotRec.resetReported { r with pru := r.pru.hostIsolate } with
      cs := { r.cs.isolate with state := .isolated, trigger := .hostPortReset, drain := none }
      ctf := { r.ctf with holdover := none, cls := SlotState.isolated.cls } } := if_pos h

theorem SlotRec.resetMove_bleeding {r : SlotRec} (h : r.cs.state = .bleeding) :
    r.resetMove = { r with cs := { r.cs with target := .off, retryPending := false } } := by
  rw [SlotRec.resetMove, if_neg (by rw [h]; decide), if_pos h]

theorem SlotRec.resetMove_kept {r : SlotRec} (h : r.cs.state.movedByReset = false) (hb : r.cs.state ≠ .bleeding) :
    r.resetMove = r := by
  rw [SlotRec.resetMove, if_neg (by rw [h]; decide), if_neg hb]

/-- What a host-port reset makes of every slot, whatever its state. -/
def SlotRec.resetKept (r q : SlotRec) : Prop :=
  q.cs.attempts = 0 ∧ q.hm.score = 0 ∧ q.hm.watched = false ∧ q.hm.alert = false ∧ q.hm.firstExpiry = r.hm.firstExpiry
    ∧ q.tt.hold = [] ∧ q.tt.discard = r.tt.discard ∧ q.ctf.holdover = none ∧ q.ctf.dmaReported = r.ctf.dmaReported
    ∧ q.policy = r.policy ∧ q.sense = r.sense ∧ q.cs.probMode = r.cs.probMode
    ∧ q.ad.current = none ∧ q.ad.remaining = [] ∧ q.ad.occupant = .none
    ∧ q.pru.power = r.pru.power ∧ q.pru.bleed = r.pru.bleed ∧ q.pru.rail = r.pru.rail

theorem SlotRec.hostReset_kept (r : SlotRec) : r.resetKept r.hostReset.resetMove := by
  by_cases hm : r.cs.state.movedByReset = true
  · rw [SlotRec.resetMove_moved (r := r.hostReset) hm]
    exact ⟨rfl, rfl, rfl, rfl, rfl, rfl, rfl, rfl, rfl, rfl, rfl, rfl, rfl, rfl, rfl, rfl, rfl, rfl⟩
  · by_cases hb : r.cs.state = .bleeding
    · rw [SlotRec.resetMove_bleeding (r := r.hostReset) hb]
      exact ⟨rfl, rfl, rfl, rfl, rfl, rfl, rfl, rfl, rfl, rfl, rfl, rfl, rfl, rfl, rfl, rfl, rfl, rfl⟩
    · rw [SlotRec.resetMove_kept (r := r.hostReset) (eq_false_of_ne_true hm) hb]
      exact ⟨rfl, rfl, rfl, rfl, rfl, rfl, rfl, rfl, rfl, rfl, rfl, rfl, rfl, rfl, rfl, rfl, rfl, rfl⟩

/-- A slot that the reset does not move. -/
theorem SlotRec.hostReset_unmoved {r : SlotRec} (h : r.cs.state.movedByReset = false) :
    r.hostReset.resetMove.cs.state = r.cs.state ∧ r.hostReset.resetMove.cs.trigger = r.cs.trigger
      ∧ r.hostReset.resetMove.pru = r.pru ∧ ∀ k, r.hostReset.resetMove.tt.entry k = (r.tt.entry k).toStale := by
  by_cases hb : r.cs.state = .bleeding
  · rw [SlotRec.resetMove_bleeding (r := r.hostReset) hb]
    exact ⟨rfl, rfl, rfl, TtRec.cutOff_entry r.tt⟩
  · rw [SlotRec.resetMove_kept (r := r.hostReset) h hb]
    exact ⟨rfl, rfl, rfl, TtRec.cutOff_entry r.tt⟩

/-- The incident of a slot that the reset moves is queued where there is room. -/
theorem State.hostPort_incident {s : State} (o : List Slot) {i : Slot} (hm : (s.slot i).cs.state.movedByReset = true)
    (hq : queuedFor i s.iq ≤ 3) :
    ∃ x ∈ (s.hostPort o).iq, x.slot = i ∧ x.kind = .isolated ∧ x.trigger = .hostPortReset ∧ x.state = .isolated
      ∧ x.attempts = 0 ∧ x.countA = (s.slot i).tt.discard := by
  have hslot := s.resetBlocks_slot i
  have hmem : s.resetBlocks.moveIncident i ∈ (slotOrder o).flatMap s.resetBlocks.moveIncidents := by
    refine List.mem_flatMap.2 ⟨i, mem_slotOrder o i, ?_⟩
    rw [State.moveIncidents, if_pos (by rw [hslot]; exact hm)]
    exact List.mem_singleton_self _
  refine ⟨s.resetBlocks.moveIncident i, ?_, rfl, rfl, rfl, rfl, ?_, ?_⟩
  · rw [(s.hostPort_moved o).iq]
    exact mem_iwTakes (State.moveIncidents_apart _ _ (nodup_slotOrder o)) hmem (Nat.lt_succ_of_le hq)
  · rw [State.moveIncident, hslot]
    rfl
  · rw [State.moveIncident, hslot]
    rfl

/-- Settles O5: each slot is moved once, and its incident and outputs are untouched by those of the others. -/
theorem hostPortResetBySlotState : Obligations.HostPortResetBySlotState := by
  intro o s
  have hm := s.hostPort_moved o
  have hrm : (s.hostPort o).rm = s.rm.hostReset := hm.rm.trans s.resetBlocks_rm
  have hstate : ∀ i, (s.resetBlocks.slot i).cs.state = (s.slot i).cs.state := fun i => by
    rw [State.resetBlocks_slot]
    rfl
  refine ⟨_, rfl, fun i => ?_, ⟨_, hm.signals, fun i hmv hup => ?_⟩, hm.out, hm.tb, hm.sampleTimer, hm.senseInterval,
    by rw [hrm, RmRec.hostReset_same], by rw [hrm, RmRec.hostReset_same], by rw [hrm, RmRec.hostReset_same],
    by rw [hrm, RmRec.hostReset_same], by rw [hrm, RmRec.hostReset_same],
    by rw [hm.se]; rfl, by rw [hm.se]; rfl, by rw [hm.se]; rfl, by rw [hm.se]; rfl, by rw [hm.ri]; rfl, fun hq => ?_⟩
  · obtain ⟨h1, h2, h3, h4, h5, h6, h7, h8, h9, h10, h11, h12, h13, h14, h15, h16, h17, h18⟩ := (s.slot i).hostReset_kept
    rw [s.hostPort_slot o i]
    refine ⟨h1, h2, h3, h4, h5, h6, h7, h8, h9, h10, h11, h12, h13, h14, h15, h16, h17, h18, ?_, fun hmv => ?_,
      SlotRec.hostReset_unmoved, fun hb => ?_⟩
    · rw [hrm]
      exact RmRec.withdraws_sample allSlots s.rm i (Or.inl (mem_allSlots i))
    · have hinc := State.hostPort_incident o hmv
      rw [SlotRec.resetMove_moved (r := (s.slot i).hostReset) hmv]
      exact ⟨rfl, rfl, rfl, rfl, rfl, rfl, rfl, rfl, rfl, rfl, rfl, rfl, rfl, TtRec.freeAll_entry _, hinc⟩
    · rw [SlotRec.resetMove_bleeding (r := (s.slot i).hostReset) hb]
      exact ⟨rfl, rfl⟩
  · rw [State.moveSignals_of _ _ _ (nodup_slotOrder o), if_pos (mem_slotOrder o i)]
    refine State.moveSignals_up (by rw [hstate]; exact hmv) ?_
    rw [State.resetBlocks_slot]
    exact hup
  · rw [hm.iq]
    exact prefix_iwTakes (State.moveIncidents_apart _ _ (nodup_slotOrder o)) fun x _ => hq x.slot

end Sys2Proof.Machine
end

section
/-! PROOFS. Returns and the ends of engine operations seen across the rest of an event; the end of a snapshot. -/

namespace Sys2Proof.Machine

open Sys2Proof

/-! ## `returned` and `operationEnded` seen across more of the event -/

theorem State.returned.after {s t u : State} {pre : List Output} {i : Slot} {e : ActEntry} {f : InFlight}
    {cb : ControlBlock} {o : ActOutcome} {st : SlotState} {n : Nat} (h : s.returned t pre i e f cb o st n)
    (hout : t.out <+: u.out) (hin : u.ri.inFlight = t.ri.inFlight) (hca : u.ri.causes = t.ri.causes)
    (had : (u.slot i).ad = (t.slot i).ad) : s.returned u pre i e f cb o st n := by
  obtain ⟨h1, h2, h3, h4⟩ := h
  exact ⟨h1.trans hout, hin.trans h2, hca.trans h3, had.trans h4⟩

theorem State.returned.before {r s t : State} {pre : List Output} {i : Slot} {e : ActEntry} {f : InFlight}
    {cb : ControlBlock} {o : ActOutcome} {st : SlotState} {n : Nat} (h : s.returned t [] i e f cb o st n)
    (hout : s.out = r.out ++ pre) (hri : s.ri = r.ri) (htb : s.tb = r.tb) : r.returned t pre i e f cb o st n := by
  unfold State.returned at *
  rw [hout, hri, htb, List.append_nil] at h
  exact h

theorem State.operationEnded.after {s t u : State} {pre : List Output} (h : s.operationEnded t pre) (hse : u.se = t.se)
    (hout : t.out <+: u.out) : s.operationEnded u pre := by
  unfold State.operationEnded at *
  rw [hse]
  exact ⟨h.1, fun op rest hq => by
    obtain ⟨a, b, c, d, e, f, g, k⟩ := h.2 op rest hq
    exact ⟨a, b, c, d, e, f, g, k.trans hout⟩⟩

theorem State.operationEnded.before {r s t : State} {pre pre' : List Output} (h : s.operationEnded t pre')
    (hq : s.se.queue = r.se.queue) (hout : s.out ++ pre' = r.out ++ pre) (hid : s.readId = r.readId) (htb : s.tb = r.tb)
    (hpol : ∀ op ∈ r.se.queue, (s.slot op.slot).policy = (r.slot op.slot).policy) : r.operationEnded t pre := by
  unfold State.operationEnded at *
  rw [hq, hid, htb, hout] at h
  refine ⟨h.1, fun op rest hr => ?_⟩
  have hp : (s.slot op.slot).pol = (r.slot op.slot).pol := by
    unfold SlotRec.pol
    rw [hpol op (by rw [hr]; exact List.mem_cons_self)]
  have := h.2 op rest hr
  rw [hp] at this
  exact this

/-- With the current operation put aside, the next one starts, or the engine is idle. -/
theorem State.seNext_ended {s : State} (hc : s.se.current = none) (hst : s.se.step = .idle) (hw : s.se.waiting = .nothing) :
    s.operationEnded s.seNext [] := by
  have hclear : s.seClear = s := by
    have : ({ s.se with current := none, step := .idle, waiting := .nothing } : SeRec) = s.se := by
      rw [← hc, ← hst, ← hw]
    unfold State.seClear
    rw [this]
  have h := s.seClear_seNext_ended
  rw [hclear] at h
  exact h

/-! ## What a return leaves of the read identities -/

theorem State.giveBack_readId (s : State) (i : Slot) (e : ActEntry) (o : ActOutcome) (n : Nat) :
    (s.giveBack i e o n).readId = s.readId := by
  unfold State.giveBack
  split <;> rfl

theorem State.skipAll_readId (s : State) (i : Slot) (es : List ActEntry) : (s.skipAll i es).readId = s.readId := by
  unfold State.skipAll
  induction es generalizing s with
  | nil => rfl
  | cons e es ih => exact (ih _).trans (s.giveBack_readId i e .skipped 0)

theorem State.endEntry_readId (s : State) (i : Slot) (o : ActOutcome) (n : Nat) :
    (s.endEntry i o n).readId = s.readId := by
  unfold State.endEntry
  dsimp only
  split
  · rfl
  · split
    · exact s.giveBack_readId i _ o n
    · exact (State.skipAll_readId _ i _).trans (s.giveBack_readId i _ o n)

/-- The outputs of the return of the last entry that a record holds. -/
theorem State.endEntry_out {s : State} {i : Slot} {e : ActEntry} {f : InFlight} {cb : ControlBlock} (o : ActOutcome) (n : Nat)
    (h : s.holdsEntry i e f cb) : (s.endEntry i o n).out = s.out ++ s.returnOf cb i e o (s.slot i).cs.state n := by
  obtain ⟨hc, hr, hcb, hf⟩ := h
  have hend : s.endEntry i o n = (s.giveBack i e o n).setAd i AdRec.free := by
    simp [State.endEntry, hc, hr, State.skipAll]
  rw [hend, s.giveBack_eq i e f cb o n hcb hf, State.returnOf_eq _ _ _ _ _ _ _ _ hf]
  rfl

/-! ## A snapshot that ends (R106, R110) -/

theorem State.seNext_slot (s : State) (j : Slot) : s.seNext.slot j = s.slot j := by
  rw [State.slot, s.seNext_slots.1]
  rfl

theorem State.seNext_same (s : State) : s.seNext.ri = s.ri ∧ s.seNext.iq = s.iq ∧ s.out <+: s.seNext.out := by
  unfold State.seNext
  split
  · exact ⟨rfl, rfl, List.prefix_rfl⟩
  · exact ⟨rfl, rfl, List.prefix_append _ _⟩

/-- The end of a snapshot with what is returned. -/
theorem State.snapshotEnds_returned {s : State} {i : Slot} {a : ActEntry} {g : InFlight} {cb : ControlBlock}
    (o : ActOutcome) (n : Nat) (h : s.holdsEntry i a g cb) (ha : a.act = some .snapshot) :
    let t := s.snapshotEnds i o n
    s.returned t [] i a g cb o (s.slot i).cs.state n ∧ s.operationEnded t (s.returnOf cb i a o (s.slot i).cs.state n) := by
  have hruns : (s.seClear.slot i).ad.runs .snapshot = true := by
    change (s.slot i).ad.runs .snapshot = true
    rw [AdRec.runs, h.1]
    exact decide_eq_true ha
  have hends : s.snapshotEnds i o n = (s.seClear.endEntry i o n).seNext := by
    rw [State.snapshotEnds, State.endSnapshot, if_pos hruns]
  have hold : s.seClear.holdsEntry i a g cb := h
  have hret := s.seClear.endEntry_returns i o n
  have hlast := (s.seClear.endEntry_only i o n)
  obtain ⟨hri, -, hout⟩ := (s.seClear.endEntry i o n).seNext_same
  dsimp only
  rw [hends]
  refine ⟨?_, ?_⟩
  · have h1 : s.returned (s.seClear.endEntry i o n) [] i a g cb o (s.slot i).cs.state n :=
      s.seClear.endEntry_returned i a g cb o n hold
    exact h1.after hout (by rw [hri]) (by rw [hri]) (by rw [State.seNext_slot])
  · refine (State.seNext_ended (s := s.seClear.endEntry i o n) (by rw [hret.se]; rfl) (by rw [hret.se]; rfl)
      (by rw [hret.se]; rfl)).before (by rw [hret.se]; rfl) ?_ (State.endEntry_readId _ _ _ _) hlast.tb fun op _ => ?_
    · rw [List.append_nil, State.endEntry_out o n hold]
      rfl
    · by_cases hi : op.slot = i
      · rw [hi, hlast.policy]
        rfl
      · rw [hlast.others _ hi]
        rfl

/-- What the end of a snapshot leaves of the slot, whatever the record holds. -/
theorem State.snapshotEnds_slot (s : State) (i : Slot) (o : ActOutcome) (n : Nat) :
    (s.snapshotEnds i o n).slot i = { s.slot i with ad := ((s.snapshotEnds i o n).slot i).ad }
      ∧ (s.snapshotEnds i o n).iq = s.iq
      ∧ (o ≠ .done → (s.slot i).planSettled → ((s.snapshotEnds i o n).slot i).planSettled) := by
  unfold State.snapshotEnds State.endSnapshot
  rw [State.seNext_slot]
  split
  · have hret := s.seClear.endEntry_returns i o n
    exact ⟨hret.slot, (State.seNext_same _).2.1.trans hret.iq, fun ho hp => State.endEntry_settled n ho hp⟩
  · exact ⟨rfl, (State.seNext_same _).2.1, fun _ hp => hp⟩

end Sys2Proof.Machine
end

section
/-! PROOFS. A restore that fails its attempt, and failed accesses of either operation. -/

namespace Sys2Proof.Machine

open Sys2Proof

/-! ## A restore that fails its attempt (R51, R114) -/

/-- Without a current operation a cancellation only empties the queue of the slot's operations. -/
theorem State.seDrop_idle {s : State} (i : Slot) (h : s.se.current = none) :
    s.seDrop i = { s with se := { s.se with queue := s.se.queue.filter fun op => !decide (op.slot = i) } } := by
  have hr : s.se.runsFor i = false := by simp [SeRec.runsFor, h]
  unfold State.seDrop
  dsimp only
  rw [hr, if_neg (by simp)]

theorem State.cancelOp_idle {s : State} (i : Slot) (h : s.se.current = none) :
    (s.cancelOp i).se = { s.se with queue := s.se.queue.filter fun op => !decide (op.slot = i) }
      ∧ (s.cancelOp i).iq = s.iq ∧ (s.cancelOp i).readId = s.readId := by
  unfold State.cancelOp
  rw [State.seDrop_idle i h]
  dsimp only
  split
  · have hret := State.endEntry_returns
      { s with se := { s.se with queue := s.se.queue.filter fun op => !decide (op.slot = i) } } i .overtaken 0
    exact ⟨hret.se, hret.iq, State.endEntry_readId _ _ _ _⟩
  · exact ⟨rfl, rfl, rfl⟩

theorem CsRec.failCheck_kind (c : CsRec) (n : Nat) : (c.failCheck n).kind = .cold := by
  unfold CsRec.failCheck
  split <;> rfl

/-- The slot after the shutdown path of a failed attempt, but for AD's record. -/
def SlotRec.failed (r : SlotRec) : SlotRec :=
  SlotRec.enter (SlotRec.resetReported { r with
    cs := r.cs.failCheck r.pol.maxAttempts
    pru := { r.pru with sequence := .shutdown }.powerOff r.pol.bleedWait }) .bleeding

/-- The attempt check and the cancellation of a failed attempt. -/
def State.failChecked (s : State) (i : Slot) (cause index : Nat) : State :=
  ((s.raise i .recoveryFailed (s.slot i).tt.discard (s.slot i).cs.state.code (detailOf cause index)).modCs i
    fun c => c.failCheck (s.slot i).pol.maxAttempts).cancelOp i

theorem State.failAttempt_eq (s : State) (i : Slot) (cause index : Nat) :
    s.failAttempt i cause index = (s.failChecked i cause index).shutdown i := rfl

theorem State.failChecked_slot (s : State) (i : Slot) (cause index : Nat) :
    (s.failChecked i cause index).slot i = { s.slot i with
      cs := (s.slot i).cs.failCheck (s.slot i).pol.maxAttempts
      ad := ((s.failChecked i cause index).slot i).ad } := by
  have h := State.cancelOp_slot ((s.raise i .recoveryFailed (s.slot i).tt.discard (s.slot i).cs.state.code
    (detailOf cause index)).modCs i fun c => c.failCheck (s.slot i).pol.maxAttempts) i
  rw [State.modCs, State.modSlot_slot_self, State.raise_slot] at h
  exact h

theorem State.failChecked_settled {s : State} {i : Slot} (cause index : Nat) (h : (s.slot i).planSettled) :
    ((s.failChecked i cause index).slot i).planSettled := by
  refine State.cancelOp_settled ?_
  rw [State.modCs, State.modSlot_slot_self]
  exact h

theorem State.shutdown_slot (s : State) (i : Slot) : (s.shutdown i).slot i = SlotRec.enter (SlotRec.resetReported { s.slot i with
    pru := { (s.slot i).pru with sequence := .shutdown }.powerOff (s.slot i).pol.bleedWait }) .bleeding := by
  rw [State.shutdown, State.powerOffNow_slot, State.modPru_slot_self]
  rfl

theorem State.failAttempt_slot (s : State) (i : Slot) (cause index : Nat) :
    (s.failAttempt i cause index).slot i
      = { (s.slot i).failed with ad := ((s.failChecked i cause index).slot i).ad } := by
  rw [State.failAttempt_eq, State.shutdown_slot]
  conv_lhs => rw [State.failChecked_slot]
  rfl

/-- The queue after a failed attempt: RECOVERY_FAILED has been taken. -/
theorem State.failAttempt_iq {s : State} (i : Slot) (cause index : Nat) (h : s.se.current = none) :
    (s.failAttempt i cause index).iq = iwTake (s.incident i .recoveryFailed (s.slot i).tt.discard (s.slot i).cs.state.code
      (detailOf cause index)) s.iq :=
  (State.cancelOp_idle (s := (s.raise i .recoveryFailed (s.slot i).tt.discard (s.slot i).cs.state.code
    (detailOf cause index)).modCs i fun c => c.failCheck (s.slot i).pol.maxAttempts) i h).2.1

/-- A restore that fails its attempt, with the start of the next operation. -/
def State.restoreFails (s : State) (i : Slot) (cause : Nat) : State :=
  (s.seClear.failAttempt i cause s.se.cardIndex).seNext

theorem State.restoreFails_slot (s : State) (i : Slot) (cause : Nat) :
    ∃ a : AdRec, (s.restoreFails i cause).slot i = { (s.slot i).failed with ad := a }
      ∧ ((s.slot i).planSettled → ((s.restoreFails i cause).slot i).planSettled) := by
  refine ⟨((s.seClear.failChecked i cause s.se.cardIndex).slot i).ad, ?_, fun h => ?_⟩
  · rw [State.restoreFails, State.seNext_slot, State.failAttempt_slot]
    rfl
  · rw [State.restoreFails, State.seNext_slot, State.failAttempt_slot]
    exact State.failChecked_settled (s := s.seClear) cause _ h

theorem State.restoreFails_ended {s : State} {i : Slot} (cause : Nat) (hq : ∀ op ∈ s.se.queue, op.slot ≠ i) :
    ∃ pre, s.operationEnded (s.restoreFails i cause) pre := by
  have honly := s.seClear.failAttempt_only i cause s.se.cardIndex
  obtain ⟨pre, hpre⟩ := honly.out
  have hidle := State.cancelOp_idle (s := (s.seClear.raise i .recoveryFailed (s.seClear.slot i).tt.discard
    (s.seClear.slot i).cs.state.code (detailOf cause s.se.cardIndex)).modCs i
      fun c => c.failCheck (s.seClear.slot i).pol.maxAttempts) i rfl
  have hfilter : s.se.queue.filter (fun op => !decide (op.slot = i)) = s.se.queue :=
    List.filter_eq_self.2 fun op hop => by simp [hq op hop]
  have hse : (s.seClear.failAttempt i cause s.se.cardIndex).se
      = { s.seClear.se with queue := s.se.queue.filter fun op => !decide (op.slot = i) } := hidle.1
  refine ⟨pre, (State.seNext_ended (by rw [hse]; rfl) (by rw [hse]; rfl) (by rw [hse]; rfl)).before (by rw [hse]; exact hfilter)
    (by rw [List.append_nil]; exact hpre.symm) hidle.2.2 honly.tb fun op hop => ?_⟩
  rw [honly.others _ (hq op hop)]
  rfl

theorem State.restoreFails_incident {s : State} {i : Slot} (cause : Nat) (h : queuedFor i s.iq ≤ 3) :
    ∃ x ∈ (s.restoreFails i cause).iq, x.slot = i ∧ x.kind = .recoveryFailed
      ∧ x.detail = BitVec.ofNat 64 (cause + 4294967296 * s.se.cardIndex) := by
  have hiq : (s.restoreFails i cause).iq = _ :=
    (State.seNext_same _).2.1.trans (State.failAttempt_iq (s := s.seClear) i cause s.se.cardIndex rfl)
  rw [hiq]
  exact ⟨_, mem_iwTake_self (Nat.lt_succ_of_le h), rfl, rfl, rfl⟩

theorem State.restoreFails_queued (s : State) (i : Slot) (cause : Nat) :
    queuedFor i (s.restoreFails i cause).iq ≤ queuedFor i s.iq + 1 := by
  have hiq : (s.restoreFails i cause).iq = _ :=
    (State.seNext_same _).2.1.trans (State.failAttempt_iq (s := s.seClear) i cause s.se.cardIndex rfl)
  rw [hiq]
  exact queuedFor_iwTake_le _ _ _

/-! ## Failed accesses of either operation -/

/-- The index of the access at the position, as the statements write it. -/
theorem SeRec.cardIndex_eq (e : SeRec) :
    e.cardIndex = (e.map.getD e.entry ⟨0, 0, false, false, false⟩).index + e.dword := rfl

/-- What a failed access leaves of what HM reads. -/
theorem State.accessFailed_slot (s : State) (i : Slot) (k : OpKind) (cause : Nat) :
    ((s.accessFailed i k cause).slot i).policy = (s.slot i).policy ∧ ((s.accessFailed i k cause).slot i).hm = (s.slot i).hm
      ∧ ((s.slot i).tt.hold = [] → ((s.accessFailed i k cause).slot i).tt.hold = [])
      ∧ ((s.slot i).cs.state ≠ .probation → ((s.accessFailed i k cause).slot i).cs.state ≠ .probation)
      ∧ ((s.slot i).planSettled → ((s.accessFailed i k cause).slot i).planSettled)
      ∧ queuedFor i (s.accessFailed i k cause).iq ≤ queuedFor i s.iq + 1 := by
  cases k with
  | snapshot =>
    obtain ⟨hslot, hiq, hset⟩ := s.snapshotEnds_slot i .failed s.se.cardIndex
    change (((s.snapshotEnds i .failed s.se.cardIndex).slot i).policy = _ ∧ _)
    refine ⟨by rw [hslot], by rw [State.accessFailed, hslot], fun h => ?_, fun h => ?_, hset (by decide), ?_⟩
    · rw [State.accessFailed, hslot]
      exact h
    · rw [State.accessFailed, hslot]
      exact h
    · rw [State.accessFailed, hiq]
      omega
  | restore =>
    obtain ⟨a, hslot, hset⟩ := s.restoreFails_slot i cause
    change (((s.restoreFails i cause).slot i).policy = _ ∧ ((s.restoreFails i cause).slot i).hm = _
      ∧ (_ → ((s.restoreFails i cause).slot i).tt.hold = []) ∧ (_ → ((s.restoreFails i cause).slot i).cs.state ≠ _) ∧ _)
    rw [hslot]
    refine ⟨rfl, rfl, fun _ => rfl, fun _ => ?_, ?_, s.restoreFails_queued i cause⟩
    · change SlotState.bleeding ≠ .probation
      decide
    · exact hset

end Sys2Proof.Machine
end

section
/-! PROOFS. HM's part of an event of the engine tag, and its two orders. -/

namespace Sys2Proof.Machine

open Sys2Proof

/-! ## HM's part of an event of the engine tag (R29, R104) -/

/-- From `u` to `w` HM has taken its part of the event: of slot `i` only HM's record has changed, with the score as it was,
and at most `m` incidents have been raised. -/
structure Scored (i : Slot) (m : Nat) (u w : State) : Prop where
  slot : w.slot i = { u.slot i with hm := (w.slot i).hm }
  score : (w.slot i).hm.score = (u.slot i).hm.score
  others : ∀ j, j ≠ i → w.slot j = u.slot j
  out : w.out = u.out
  se : w.se = u.se
  ri : w.ri = u.ri
  tb : w.tb = u.tb
  readId : w.readId = u.readId
  mem : ∀ x ∈ u.iq, queuedFor i u.iq + m ≤ 4 → x ∈ w.iq
  queued : queuedFor i w.iq ≤ queuedFor i u.iq + m

theorem Scored.refl (i : Slot) (u : State) : Scored i 0 u u :=
  ⟨rfl, rfl, fun _ _ => rfl, rfl, rfl, rfl, rfl, rfl, fun _ h _ => h, le_rfl⟩

theorem Scored.trans {i : Slot} {m n : Nat} {u v w : State} (h : Scored i m u v) (k : Scored i n v w) :
    Scored i (m + n) u w := by
  refine ⟨?_, k.score.trans h.score, fun j hj => (k.others j hj).trans (h.others j hj), k.out.trans h.out, k.se.trans h.se,
    k.ri.trans h.ri, k.tb.trans h.tb, k.readId.trans h.readId, fun x hx hq => ?_, ?_⟩
  · rw [k.slot, h.slot]
  · have hv := h.queued
    exact k.mem x (h.mem x hx (by omega)) (by omega)
  · have h1 := h.queued
    have h2 := k.queued
    omega

/-- HM's record set, with the score as it was. -/
theorem Scored.setHm (u : State) (i : Slot) {h : HmRec} (hs : h.score = (u.slot i).hm.score) :
    Scored i 0 u (u.setSlot i { u.slot i with hm := h }) := by
  refine ⟨?_, ?_, fun j hj => State.setSlot_slot_ne _ _ _ _ hj, rfl, rfl, rfl, rfl, rfl, fun _ h _ => h, le_rfl⟩ <;>
    rw [State.setSlot_slot_self]
  exact hs

theorem Scored.raise (u : State) (i : Slot) (k : IncKind) (a b : Nat) (d : BitVec 64) : Scored i 1 u (u.raise i k a b d) :=
  ⟨rfl, rfl, fun _ _ => rfl, rfl, rfl, rfl, rfl, rfl,
    fun _ hx hq => mem_iwTake (show queuedFor i u.iq < 4 by omega) hx, queuedFor_iwTake_le _ _ _⟩

theorem Scored.mono {i : Slot} {m n : Nat} {u w : State} (h : Scored i m u w) (hn : m ≤ n) : Scored i n u w :=
  ⟨h.slot, h.score, h.others, h.out, h.se, h.ri, h.tb, h.readId, fun x hx hq => h.mem x hx (by omega),
    h.queued.trans (by omega)⟩

theorem State.noteExpiry_scored (u : State) (i : Slot) (e : ScoreEvent) :
    Scored i 1 u (u.noteExpiry i e) ∧ ((u.noteExpiry i e).slot i).hm.watched = (u.slot i).hm.watched := by
  cases e with
  | deadlineExpiry k q =>
    unfold State.noteExpiry
    dsimp only
    split
    · exact ⟨(Scored.refl i u).mono (Nat.zero_le _), rfl⟩
    · refine ⟨(Scored.raise u i _ _ _ _).trans (Scored.setHm _ i (h := { (u.slot i).hm with firstExpiry := true }) rfl), ?_⟩
      rw [State.modHm, State.modSlot_slot_self]
      rfl
  | _ => exact ⟨(Scored.refl i u).mono (Nat.zero_le _), rfl⟩

/-- HM's checks outside PROBATION where the score stays below every threshold and nothing is held. -/
theorem State.scoreChecks_scored {u : State} {i : Slot} {p : Policy} (e : ScoreEvent) (old : Nat)
    (hp : (u.slot i).policy = some p) (hw : (u.slot i).hm.score < p.watchT) (hf : (u.slot i).hm.score < p.fenceT)
    (hb : (u.slot i).hm.score < p.probT) (hd : (u.slot i).hm.watched = false) (hh : (u.slot i).tt.hold = [])
    (hst : (u.slot i).cs.state ≠ .probation) : Scored i 1 u (u.scoreChecks i e old) := by
  obtain ⟨hnote, hwatch⟩ := u.noteExpiry_scored i e
  unfold State.scoreChecks
  generalize u.noteExpiry i e = v at hnote hwatch ⊢
  have hslot := hnote.slot
  have hscore := hnote.score
  have hdec : decide (p.watchT ≤ (v.slot i).hm.score) = (v.slot i).hm.watched := by
    rw [hwatch, hd, hscore]
    exact decide_eq_false (by omega)
  rw [State.checks_stand (p := p) e (by rw [hslot]; exact hp) hdec (SlotRec.uncrossed_of_lt (by omega) (by omega)),
    SlotRec.reported_of_ne _ (by rw [hslot]; exact hst), State.promote_still]
  · exact hnote.trans (Scored.setHm v i (h := (v.slot i).hm.compared p) rfl)
  · rw [State.setSlot_slot_self]
    refine Or.inl ?_
    rw [hslot]
    exact hh

/-- HM and SE take a failed access in either order: HM's checks before it, or after it. -/
theorem State.engineEvent_orders {X : State} {i : Slot} {b : Bool} {e : ScoreEvent} {res : AccessResult} {kd : OpKind}
    {cause n : Nat} (hres : ∀ u : State, u.se = X.se → u.accessResult i res = u.accessFailed i kd cause)
    (hn : e.apply (X.slot i).hm.score = min 1023 ((X.slot i).hm.score + n)) (hcalm : (X.slot i).calm n)
    (hh : (X.slot i).tt.hold = []) (hst : (X.slot i).cs.state ≠ .probation) :
    ∃ (u : State) (m m' : Nat), m + m' = 1 ∧ Scored i m (X.weigh i e) u
      ∧ Scored i m' (u.accessFailed i kd cause) (X.engineEvent i b e res) := by
  obtain ⟨p, hp, hw, hf, hb, hmax, hd⟩ := hcalm
  have hscore : ((X.weigh i e).slot i).hm.score = (X.slot i).hm.score + n := by
    rw [State.weigh, State.modHm, State.modSlot_slot_self]
    exact hn.trans (Nat.min_eq_right hmax)
  have hweigh : (X.weigh i e).slot i = { X.slot i with hm := ((X.weigh i e).slot i).hm } := by
    rw [State.weigh, State.modHm, State.modSlot_slot_self]
  have hwd : ((X.weigh i e).slot i).hm.watched = false := by
    rw [State.weigh, State.modHm, State.modSlot_slot_self]
    exact hd
  cases b with
  | true =>
    obtain ⟨h1, h2, h3, h4, -⟩ := (X.weigh i e).accessFailed_slot i kd cause
    have hev : X.engineEvent i true e res = ((X.weigh i e).accessFailed i kd cause).scoreChecks i e (X.slot i).hm.score := by
      rw [← hres (X.weigh i e) rfl]
      rfl
    refine ⟨_, 0, 1, rfl, Scored.refl i _, ?_⟩
    rw [hev]
    exact State.scoreChecks_scored (p := p) e _ (by rw [h1, hweigh]; exact hp) (by rw [h2, hscore]; exact hw)
      (by rw [h2, hscore]; exact hf) (by rw [h2, hscore]; exact hb) (by rw [h2]; exact hwd)
      (h3 (by rw [hweigh]; exact hh)) (h4 (by rw [hweigh]; exact hst))
  | false =>
    have hsc := State.scoreChecks_scored (u := X.weigh i e) (i := i) (p := p) e (X.slot i).hm.score
      (by rw [hweigh]; exact hp) (by rw [hscore]; exact hw) (by rw [hscore]; exact hf) (by rw [hscore]; exact hb) hwd
      (by rw [hweigh]; exact hh) (by rw [hweigh]; exact hst)
    refine ⟨_, 1, 0, rfl, hsc, ?_⟩
    have hev : X.engineEvent i false e res = ((X.weigh i e).scoreChecks i e (X.slot i).hm.score).accessFailed i kd cause := by
      rw [← hres ((X.weigh i e).scoreChecks i e (X.slot i).hm.score) hsc.se]
      rfl
    rw [hev]
    exact Scored.refl i _

/-- A failed result for the access that the current operation waits for. -/
theorem State.accessResult_failed {u : State} {i : Slot} {kd : OpKind} (hc : u.se.current = some ⟨kd, i⟩)
    (hw : u.se.waiting = .card) :
    u.accessResult i .nonSuccess = u.accessFailed i kd 4 ∧ u.accessResult i .timeout = u.accessFailed i kd 3 := by
  refine ⟨?_, ?_⟩ <;> unfold State.accessResult <;> rw [hc] <;> exact if_pos ⟨rfl, hw⟩

end Sys2Proof.Machine
end

section
/-! PROOFS. A failed access of a scored event, with the end of the event. -/

namespace Sys2Proof.Machine

open Sys2Proof

/-! ## The end of an operation with its event -/

theorem State.align_slot (s : State) (j : Slot) : s.align.slot j = s.slot j := by
  rw [State.slot, s.align_ring.slots]
  rfl

theorem State.returnOf_congr {s t : State} (hri : t.ri = s.ri) (htb : t.tb = s.tb) (cb : ControlBlock) (i : Slot) (e : ActEntry)
    (o : ActOutcome) (st : SlotState) (n : Nat) : t.returnOf cb i e o st n = s.returnOf cb i e o st n := by
  unfold State.returnOf
  rw [hri, htb]

/-- The end of an event whose slot has no entry waiting to start. -/
theorem State.close_ended {w : State} {i : Slot} (h : (w.slot i).planSettled) : w.close i = w.align := by
  rw [State.close, State.settle_settled h]

theorem State.returned.align {s t : State} {pre : List Output} {i : Slot} {e : ActEntry} {f : InFlight}
    {cb : ControlBlock} {o : ActOutcome} {st : SlotState} {n : Nat} (h : s.returned t pre i e f cb o st n) :
    s.returned t.align pre i e f cb o st n := by
  obtain ⟨h1, h2, h3, h4⟩ := t.align_arrives i
  exact h.after h1 h2 h3 h4

theorem State.operationEnded.align {s t : State} {pre : List Output} (h : s.operationEnded t pre) :
    s.operationEnded t.align pre := h.after t.align_ring.se (t.align_arrives 0).1

/-! ## A failed access of a scored event -/

/-- The engine tag set, and the weight applied. -/
structure Weighed (s : State) (i : Slot) (x : OrtEntry) (n : Nat) (W : State) : Prop where
  slot : W.slot i = { s.slot i with
    tt := (s.slot i).tt.setEntry engineTag x, hm := { (s.slot i).hm with score := (s.slot i).hm.score + n } }
  others : ∀ j, j ≠ i → W.slot j = s.slot j
  out : W.out = s.out
  se : W.se = s.se
  ri : W.ri = s.ri
  tb : W.tb = s.tb
  readId : W.readId = s.readId
  iq : W.iq = s.iq

theorem State.weigh_weighed {s : State} {i : Slot} (x : OrtEntry) {e : ScoreEvent} {n : Nat}
    (h : e.apply (s.slot i).hm.score = (s.slot i).hm.score + n) :
    Weighed s i x n ((s.setEntry i engineTag x).weigh i e) := by
  refine ⟨?_, fun j hj => ?_, rfl, rfl, rfl, rfl, rfl, rfl⟩
  · rw [State.weigh, State.modHm, State.modSlot_slot_self, State.setEntry, State.modSlot_slot_self]
    change ({ s.slot i with
      tt := _, hm := { (s.slot i).hm with score := e.apply (s.slot i).hm.score } } : SlotRec) = _
    rw [h]
    rfl
  · rw [State.weigh, State.modHm, State.modSlot_slot_ne _ _ _ _ hj, State.setEntry, State.modSlot_slot_ne _ _ _ _ hj]

/-- A snapshot whose access fails: FAILED with the index, and the next operation starts. -/
theorem State.failedSnapshot_scored {s W u w : State} {i : Slot} {x : OrtEntry} {n m m' cause : Nat} {a : ActEntry}
    {g : InFlight} {cb : ControlBlock} (hW : Weighed s i x n W) (hu : Scored i m W u)
    (hw : Scored i m' (u.accessFailed i .snapshot cause) w) (h : s.holdsEntry i a g cb) (ha : a.act = some .snapshot) :
    s.returned w [] i a g cb .failed (s.slot i).cs.state s.se.cardIndex ∧ (w.slot i).cs = (s.slot i).cs
      ∧ s.operationEnded w (s.returnOf cb i a .failed (s.slot i).cs.state s.se.cardIndex)
      ∧ (w.slot i).tt.entry engineTag = x := by
  have hslot : u.slot i = { s.slot i with tt := (s.slot i).tt.setEntry engineTag x, hm := (u.slot i).hm } := by
    rw [hu.slot, hW.slot]
  have hri : u.ri = s.ri := hu.ri.trans hW.ri
  have htb : u.tb = s.tb := hu.tb.trans hW.tb
  have hse : u.se = s.se := hu.se.trans hW.se
  have hout : u.out = s.out := hu.out.trans hW.out
  have hold : u.holdsEntry i a g cb := by
    obtain ⟨h1, h2, h3, h4⟩ := h
    exact ⟨by rw [hslot]; exact h1, by rw [hslot]; exact h2, by rw [hri]; exact h3, by rw [hri]; exact h4⟩
  obtain ⟨hret, hend⟩ := State.snapshotEnds_returned .failed u.se.cardIndex hold ha
  obtain ⟨hends, -, -⟩ := u.snapshotEnds_slot i .failed u.se.cardIndex
  have hstate : (u.slot i).cs.state = (s.slot i).cs.state := by rw [hslot]
  rw [hse, hstate] at hret hend
  rw [State.returnOf_congr hri htb] at hend
  rw [hse] at hends
  have hv : u.accessFailed i .snapshot cause = u.snapshotEnds i .failed s.se.cardIndex := by rw [State.accessFailed, hse]
  rw [hv] at hw
  have hpol : ∀ op ∈ s.se.queue, (u.slot op.slot).policy = (s.slot op.slot).policy := fun op _ => by
    by_cases hi : op.slot = i
    · rw [hi, hslot]
    · rw [hu.others _ hi, hW.others _ hi]
  refine ⟨((hret.before (pre := []) (by rw [hout, List.append_nil]) hri htb).after (by rw [hw.out]) (by rw [hw.ri])
    (by rw [hw.ri]) (by rw [hw.slot])), ?_, ?_, ?_⟩
  · rw [hw.slot, hends, hslot]
  · exact (hend.before (by rw [hse]) (by rw [hout]) (hu.readId.trans hW.readId) htb hpol).after hw.se (by rw [hw.out])
  · rw [hw.slot, hends, hslot]
    exact TtRec.setEntry_self _ _ _

/-- A restore whose access fails: the attempt fails, and the next operation starts. -/
theorem State.failedRestore_scored {s W u w : State} {i : Slot} {x : OrtEntry} {n m m' cause : Nat} (hm : m + m' = 1)
    (hW : Weighed s i x n W) (hu : Scored i m W u) (hw : Scored i m' (u.accessFailed i .restore cause) w) :
    (w.slot i).cs.state = .bleeding ∧ (w.slot i).cs.kind = .cold ∧ (w.slot i).pru.dark ∧ (w.slot i).pru.bleed = true
      ∧ (∀ l, (w.slot i).tt.entry l = .free) ∧ ((∀ op ∈ s.se.queue, op.slot ≠ i) → ∃ pre, s.operationEnded w pre)
      ∧ (queuedFor i s.iq ≤ 2 → ∃ y ∈ w.iq, y.slot = i ∧ y.kind = .recoveryFailed
        ∧ y.detail = BitVec.ofNat 64 (cause + 4294967296 * s.se.cardIndex)) := by
  have hse : u.se = s.se := hu.se.trans hW.se
  change Scored i m' (u.restoreFails i cause) w at hw
  obtain ⟨a, hslot, -⟩ := u.restoreFails_slot i cause
  have hrec := hw.slot
  rw [hslot] at hrec
  refine ⟨by rw [hrec]; rfl, ?_, by rw [hrec]; exact ⟨rfl, rfl, rfl⟩, by rw [hrec]; rfl, fun l => ?_, fun hq => ?_, fun hq => ?_⟩
  · rw [hrec]
    exact CsRec.failCheck_kind _ _
  · rw [hrec]
    exact TtRec.freeAll_entry _ _
  · obtain ⟨pre, hpre⟩ := State.restoreFails_ended cause (by rw [hse]; exact hq)
    refine ⟨pre, (hpre.before (by rw [hse]) (by rw [hu.out, hW.out]) (hu.readId.trans hW.readId) (hu.tb.trans hW.tb)
      fun op hop => ?_).after hw.se (by rw [hw.out])⟩
    rw [hu.others _ (hq op hop), hW.others _ (hq op hop)]
  · have hq1 := hu.queued
    rw [hW.iq] at hq1
    obtain ⟨y, hy, h1, h2, h3⟩ := u.restoreFails_incident (i := i) cause (by omega)
    rw [hse] at h3
    exact ⟨y, hw.mem y hy (by have := u.restoreFails_queued i cause; omega), h1, h2, h3⟩

/-- An event of the engine tag that fails the access, in either order, with the end of the event. -/
theorem State.failedAccess_ends {s : State} {i : Slot} {kd : OpKind} {x : OrtEntry} {e : ScoreEvent} {res : AccessResult}
    (b : Bool) {n cause : Nat} (hp : (s.slot i).planSettled) (hh : (s.slot i).tt.hold = [])
    (hst : (s.slot i).cs.state ≠ .probation) (hc : s.se.current = some ⟨kd, i⟩) (hw : s.se.waiting = .card)
    (hcalm : (s.slot i).calm n) (happly : ∀ m, e.apply m = min 1023 (m + n))
    (hres : res = .nonSuccess ∧ cause = 4 ∨ res = .timeout ∧ cause = 3) :
    let t := ((s.setEntry i engineTag x).engineEvent i b e res).close i
    (t.slot i).hm.score = (s.slot i).hm.score + n
      ∧ (kd = .snapshot → ∀ a g cb, s.holdsEntry i a g cb → a.act = some .snapshot →
        s.returned t [] i a g cb .failed (s.slot i).cs.state s.se.cardIndex ∧ (t.slot i).cs = (s.slot i).cs
          ∧ s.operationEnded t (s.returnOf cb i a .failed (s.slot i).cs.state s.se.cardIndex)
          ∧ (t.slot i).tt.entry engineTag = x)
      ∧ (kd = .restore →
        (t.slot i).cs.state = .bleeding ∧ (t.slot i).cs.kind = .cold ∧ (t.slot i).pru.dark ∧ (t.slot i).pru.bleed = true
          ∧ (∀ l, (t.slot i).tt.entry l = .free) ∧ ((∀ op ∈ s.se.queue, op.slot ≠ i) → ∃ pre, s.operationEnded t pre)
          ∧ (queuedFor i s.iq ≤ 2 → ∃ y ∈ t.iq, y.slot = i ∧ y.kind = .recoveryFailed
            ∧ y.detail = BitVec.ofNat 64 (cause + 4294967296 * s.se.cardIndex))) := by
  have hX : (s.setEntry i engineTag x).slot i = { s.slot i with tt := (s.slot i).tt.setEntry engineTag x } := by
    rw [State.setEntry, State.modSlot_slot_self]
    rfl
  have hmax : (s.slot i).hm.score + n ≤ 1023 := by
    obtain ⟨-, -, -, -, -, hmax, -⟩ := hcalm
    exact hmax
  have hW := State.weigh_weighed (s := s) (i := i) x ((happly _).trans (Nat.min_eq_right hmax))
  obtain ⟨u, m, m', hm, hu, hev⟩ := State.engineEvent_orders (X := s.setEntry i engineTag x) (i := i) (b := b) (e := e)
    (res := res) (kd := kd) (cause := cause) (n := n) (fun u hu => by
      have hfail := State.accessResult_failed (u := u) (i := i) (kd := kd) (by rw [hu]; exact hc) (by rw [hu]; exact hw)
      rcases hres with ⟨rfl, rfl⟩ | ⟨rfl, rfl⟩
      · exact hfail.1
      · exact hfail.2) (happly _) (by rw [hX]; exact hcalm) (by rw [hX]; exact hh) (by rw [hX]; exact hst)
  obtain ⟨-, hhm, -, -, hset, -⟩ := u.accessFailed_slot i kd cause
  generalize (s.setEntry i engineTag x).engineEvent i b e res = w at hev ⊢
  have hus : (u.slot i).planSettled := by
    rw [hu.slot, hW.slot]
    exact hp
  have hws : (w.slot i).planSettled := by
    rw [hev.slot]
    exact hset hus
  dsimp only
  rw [State.close_ended hws, State.align_slot]
  refine ⟨?_, fun hk a g cb h ha => ?_, fun hk => ?_⟩
  · rw [hev.score, hhm, hu.score, hW.slot]
  · subst hk
    obtain ⟨h1, h2, h3, h4⟩ := State.failedSnapshot_scored hW hu hev h ha
    exact ⟨h1.align, h2, h3.align, h4⟩
  · subst hk
    obtain ⟨h1, h2, h3, h4, h5, h6, h7⟩ := State.failedRestore_scored hm hW hu hev
    refine ⟨h1, h2, h3, h4, h5, fun hq => ?_, ?_⟩
    · obtain ⟨pre, hpre⟩ := h6 hq
      exact ⟨pre, hpre.align⟩
    · rw [w.align_ring.iq]
      exact h7

end Sys2Proof.Machine
end

section
/-! PROOFS. Completions and the deadline of the engine tag, and an access offered while it is taken. -/

namespace Sys2Proof.Machine

open Sys2Proof

/-! ## An access offered while the engine tag is taken (R16) -/

theorem State.offer_refused {s : State} {i : Slot} (k : OpKind) (w : Option Dword)
    (h : (s.slot i).tt.entry engineTag ≠ .free) : s.offer i k w = s.accessFailed i k 4 := by
  unfold State.offer
  dsimp only
  exact if_neg (mt OrtEntry.isFree_iff.1 h)

theorem ReadResult.bytes_of_length {b : List Byte} {n : Nat} (h : b.length = n) :
    (ReadResult.data b).bytes n = some b := by
  unfold ReadResult.bytes
  simp [h]

/-- The read that SE waits for ends with the bytes it asked for. -/
theorem exec_shadowReadDone {s : State} {op : SeOp} {ref : ReadRef} {b : List Byte}
    (hc : s.se.current = some op) :
    exec (.shadowReadDone ref.id (.data b)) s = .next ((s.shadowRead ref.id (.data b)).close op.slot) := by
  have h : (s.shadowRead ref.id (.data b)).closeEngine s.se.current = (s.shadowRead ref.id (.data b)).close op.slot := by
    rw [hc]
    rfl
  rw [← h]
  rfl

/-- SE's record at the first access of a copy. -/
def SeRec.copying (e : SeRec) (m : List MapEntry) : SeRec :=
  { e with map := m, step := .copy, entry := 0, dword := 0, waiting := .nothing }

/-- The entries of a map that is said read with the engine tag taken: the first access of the copy is refused. -/
theorem State.shadowRead_copyRefused {s : State} {i : Slot} {ref : ReadRef} {b : List Byte} {m : List MapEntry}
    (hc : s.se.current = some ⟨.snapshot, i⟩) (hw : s.se.waiting = .read ref (.mapEntries m.length))
    (hb : b.length = 4 * m.length) (hm : mapSays b m) (ht : (s.slot i).tt.entry engineTag ≠ .free) :
    s.shadowRead ref.id (.data b)
      = ({ s with se := s.se.copying m }.emits
          [.hostWrite s.se.areaAddr (headerBytes .partialCopy m.length s.se.generation s.now 0)]).snapshotEnds i .failed
        (m.getD 0 ⟨0, 0, false, false, false⟩).index := by
  have hread : s.shadowRead ref.id (.data b) = s.mapEntriesRead ⟨.snapshot, i⟩ b m.length := by
    unfold State.shadowRead
    rw [hc, hw]
    dsimp only
    rw [if_pos rfl, ReadResult.bytes_of_length (n := s.se.asked (.mapEntries m.length)) hb]
  have hmap : s.mapEntriesRead ⟨.snapshot, i⟩ b m.length = { s with se := { s.se with map := m } }.copyBegin i := by
    unfold State.mapEntriesRead
    rw [(mapEntries_iff b m.length m).2 ⟨rfl, hm⟩]
  rw [hread, hmap, State.copyBegin]
  exact State.offer_refused .snapshot none ht

/-- SE's record at the first access of a write-back. -/
def SeRec.writingBack (e : SeRec) (b : List Byte) (q : Pass) (n : Nat) : SeRec :=
  { e with
    staging := dwordsOf b (totalDwords e.map), waiting := .nothing, step := .writeBack, pass := q, entry := n, dword := 0 }

/-- The data read with the engine tag taken: the first access of the write-back is refused. -/
theorem State.shadowRead_writeRefused {s : State} {i : Slot} {ref : ReadRef} {b : List Byte} {q : Pass} {n : Nat}
    {m : MapEntry} (hc : s.se.current = some ⟨.restore, i⟩) (hw : s.se.waiting = .read ref .data)
    (hb : b.length = 4 * totalDwords s.se.map) (hm : follows s.se.map .first 0 q n m)
    (ht : (s.slot i).tt.entry engineTag ≠ .free) :
    s.shadowRead ref.id (.data b) = { s with se := s.se.writingBack b q n }.restoreFails i 4 := by
  have hread : s.shadowRead ref.id (.data b) = s.writeBackBegin i b := by
    unfold State.shadowRead
    rw [hc, hw]
    dsimp only
    rw [if_pos rfl, ReadResult.bytes_of_length (n := s.se.asked .data) hb]
  rw [hread]
  unfold State.writeBackBegin
  dsimp only
  rw [(nextPlace_some s.se.map .first q 0 n).2 ⟨m, hm⟩]
  exact State.offer_refused .restore _ ht

/-! ## Completions and the deadline of the engine tag (R13, R16, R18) -/

theorem exec_engineCompletes {s : State} {i : Slot} {f : OrtFields} (c : CardCpl) (b : Bool)
    (he : (s.slot i).tt.entry engineTag = .live f) (ho : f.origin = .engine) :
    exec (.cardCompletion i 31 c b) s = .next ((s.engineCompletes i engineTag f c b).close i) := by
  have h : s.cardCompletion i 31 c b = s.engineCompletes i engineTag f c b := by
    have hk : (⟨31, by decide⟩ : Tag) = engineTag := rfl
    unfold State.cardCompletion
    rw [dif_pos (by decide)]
    dsimp only
    rw [hk, he]
    dsimp only
    rw [ho]
  exact congrArg (fun t : State => Host.Outcome.next (t.close i)) h

/-- The entry of an engine access is never one of a memory read: only the length makes a completion malformed. -/
theorem OrtFields.malformed_engine {f : OrtFields} (c : CardCpl) (hk : f.kind ≠ .memoryRead) :
    f.malformed c = decide (f.bytes < c.data.length) := by simp [OrtFields.malformed, hk]

theorem State.engineCompletes_malformed {s : State} {i : Slot} {f : OrtFields} {c : CardCpl} (b : Bool)
    (h : f.malformed c = true) : s.engineCompletes i engineTag f c b
      = (s.setEntry i engineTag .free).engineEvent i b .malformed .nonSuccess := if_pos h

theorem State.engineCompletes_bad {s : State} {i : Slot} {f : OrtFields} {c : CardCpl} (b : Bool)
    (h : f.malformed c = false) (hs : c.status ≠ .success) : s.engineCompletes i engineTag f c b
      = (s.setEntry i engineTag .free).engineEvent i b .badStatus .nonSuccess := by
  unfold State.engineCompletes
  rw [if_neg (by simp [h])]
  split
  next hc => exact absurd hc hs
  next => rfl

theorem exec_engineDeadline {s : State} {i : Slot} {f : OrtFields} (b : Bool)
    (he : (s.slot i).tt.entry engineTag = .live f) (ho : f.origin = .engine) (hd : (s.tb.counter - f.deadline).toNat < 2 ^ 31) :
    exec (.deadlineExpiry i engineTag b) s
      = .next (((s.setEntry i engineTag (.stale f)).engineEvent i b (.deadlineExpiry engineTag f.kind) .timeout).close i) := by
  have h : s.deadlineExpiry i engineTag b
      = (s.setEntry i engineTag (.stale f)).engineEvent i b (.deadlineExpiry engineTag f.kind) .timeout := by
    unfold State.deadlineExpiry
    rw [he]
    dsimp only
    rw [if_pos (show deadlineReached s.now f.deadline = true from deadlineReached_iff.2 hd), ho]
  exact congrArg (fun t : State => Host.Outcome.next (t.close i)) h

/-- Settles O37: a scored failure in either order, and an offer refused without one. -/
theorem failedCardAccessEndsTheOperation : Obligations.FailedCardAccessEndsTheOperation := by
  refine ⟨fun s i kd k c cpl b n cause fl hs hp hh hst hc hw he ho hk hne hcase hcalm => ?_, fun s i ref b hs hp ht => ⟨?_, ?_⟩⟩
  · have hkind : fl.kind ≠ .memoryRead := by rw [hk]; exact hne
    have hends := fun (x : OrtEntry) (e : ScoreEvent) (res : AccessResult) h1 h2 =>
      State.failedAccess_ends (s := s) (i := i) (kd := kd) (x := x) (e := e) (res := res) b (n := n) (cause := cause)
        hp hh hst hc hw hcalm h1 h2
    rcases hcase with ⟨rfl, hstat, hlen, rfl, rfl⟩ | ⟨rfl, hlen, rfl, rfl⟩ | ⟨rfl, hd, rfl, rfl⟩
    · rw [exec_engineCompletes cpl b he ho, State.engineCompletes_bad b
        (by rw [OrtFields.malformed_engine _ hkind]; exact decide_eq_false (Nat.not_lt.2 hlen)) hstat]
      exact ⟨_, rfl, hends .free .badStatus .nonSuccess (fun _ => rfl) (Or.inl ⟨rfl, rfl⟩)⟩
    · rw [exec_engineCompletes cpl b he ho, State.engineCompletes_malformed b
        (by rw [OrtFields.malformed_engine _ hkind]; exact decide_eq_true hlen)]
      exact ⟨_, rfl, hends .free .malformed .nonSuccess (fun _ => rfl) (Or.inl ⟨rfl, rfl⟩)⟩
    · rw [exec_engineDeadline b he ho hd]
      exact ⟨_, rfl, hends (.stale fl) (.deadlineExpiry engineTag fl.kind) .timeout (fun _ => rfl) (Or.inr ⟨rfl, rfl⟩)⟩
  · intro m a g cb hc hw hb hm hold ha
    rw [exec_shadowReadDone hc, State.shadowRead_copyRefused hc hw hb hm ht]
    generalize hu : ({ s with se := s.se.copying m }.emits
      [.hostWrite s.se.areaAddr (headerBytes .partialCopy m.length s.se.generation s.now 0)]) = u
    have hslot : u.slot i = s.slot i := by rw [← hu]; rfl
    have hu' : u.holdsEntry i a g cb := by rw [← hu]; exact hold
    obtain ⟨hret, -⟩ := State.snapshotEnds_returned .failed (m.getD 0 ⟨0, 0, false, false, false⟩).index hu' ha
    obtain ⟨hrec, -, hset⟩ := u.snapshotEnds_slot i .failed (m.getD 0 ⟨0, 0, false, false, false⟩).index
    rw [State.close_ended (hset (by decide) (by rw [hslot]; exact hp))]
    rw [hslot] at hret hrec
    refine ⟨_, rfl, ?_, ?_, ?_, (hret.before (by rw [← hu]; rfl) (by rw [← hu]; rfl) (by rw [← hu]; rfl)).align⟩ <;>
      rw [State.align_slot, hrec]
  · intro q n m hc hw hb hm hd
    rw [exec_shadowReadDone hc, State.shadowRead_writeRefused hc hw hb hm ht]
    obtain ⟨x, hrec, hset⟩ := State.restoreFails_slot { s with se := s.se.writingBack b q n } i 4
    have hindex : (s.se.writingBack b q n).cardIndex = m.index := by
      have hget : s.se.map[n]? = some m := hm.1
      rw [SeRec.cardIndex_eq]
      change (s.se.map.getD n ⟨0, 0, false, false, false⟩).index + 0 = m.index
      rw [List.getD_eq_getElem?_getD, hget]
      rfl
    rw [State.close_ended (hset hd.settled)]
    refine ⟨_, rfl, ?_, ?_, ?_, ?_, fun l => ?_, fun hq => ?_⟩
    · rw [State.align_slot, hrec]
      rfl
    · rw [State.align_slot, hrec]
      rfl
    · rw [State.align_slot, hrec]
      exact CsRec.failCheck_kind _ _
    · rw [State.align_slot, hrec]
      exact ⟨rfl, rfl, rfl⟩
    · rw [State.align_slot, hrec]
      exact TtRec.freeAll_entry _ _
    · have hinc := State.restoreFails_incident (s := { s with se := s.se.writingBack b q n }) (i := i) 4 hq
      rw [hindex] at hinc
      rw [(State.restoreFails { s with se := s.se.writingBack b q n } i 4).align_ring.iq]
      exact hinc

end Sys2Proof.Machine
end

section
/-! PROOFS. The acceptance of a policy with nothing held, the summary's interrupt message, and INIT's read of the Control Block. -/

namespace Sys2Proof.Machine

open Sys2Proof

/-! ## The acceptance of a policy (R36, R41) -/

/-- WATCHED follows the score where nothing is held: at most an incident is raised. -/
theorem State.alignWatch_unheld {s : State} {i : Slot} {p : Policy} (hp : (s.slot i).policy = some p)
    (hh : (s.slot i).tt.hold = []) : ∃ q, s.alignWatch i = { s.setSlot i { s.slot i with
      hm := { (s.slot i).hm with watched := decide (p.watchT ≤ (s.slot i).hm.score) } } with iq := q } := by
  unfold State.alignWatch
  rw [hp]
  dsimp only
  split
  next h =>
    refine ⟨s.iq, (State.setSlot_of_eq ?_).symm⟩
    rw [h]
  next =>
    split
    · exact ⟨_, rfl⟩
    · rw [State.promote_still (Or.inl (by rw [State.modHm, State.modSlot_slot_self]; exact hh))]
      exact ⟨s.iq, rfl⟩

/-- The record with the policy taken: attempts held within the maximum, and WATCHED by the new threshold. -/
def SlotRec.accepting (r : SlotRec) (p : Policy) : SlotRec :=
  { r with
    policy := some p
    cs := { r.cs with attempts := min p.maxAttempts r.cs.attempts }
    hm := { r.hm with watched := decide (p.watchT ≤ r.hm.score) } }

/-- The acceptance up to the alert flag, with nothing held. -/
theorem State.acceptPolicy_unheld {s : State} {i : Slot} (p : Policy) (hh : (s.slot i).tt.hold = []) :
    ∃ q, s.acceptPolicy i p
      = ({ s.setSlot i ((s.slot i).accepting p) with iq := q }.alertAtAcceptance i p).promote i := by
  have hprom : (s.modSlot i fun r =>
      { r with policy := some p, cs := { r.cs with attempts := min p.maxAttempts r.cs.attempts } }).promote i = _ :=
    State.promote_still (Or.inl (by rw [State.modSlot_slot_self]; exact hh))
  obtain ⟨q, hq⟩ := State.alignWatch_unheld (s := s.modSlot i fun r =>
      { r with policy := some p, cs := { r.cs with attempts := min p.maxAttempts r.cs.attempts } }) (i := i) (p := p)
    (by rw [State.modSlot_slot_self]) (by rw [State.modSlot_slot_self]; exact hh)
  refine ⟨q, ?_⟩
  unfold State.acceptPolicy
  dsimp only
  rw [hprom, hq, State.modSlot_slot_self, State.modSlot_eq, State.setSlot_setSlot]
  rfl

/-- With the alert flag clear nothing more follows. -/
theorem State.acceptPolicy_calm {s : State} {i : Slot} (p : Policy) (hh : (s.slot i).tt.hold = [])
    (ha : (s.slot i).hm.alert = false) :
    ∃ q, s.acceptPolicy i p = { s.setSlot i ((s.slot i).accepting p) with iq := q } := by
  obtain ⟨q, hq⟩ := State.acceptPolicy_unheld p hh
  refine ⟨q, ?_⟩
  have hslot : ({ s.setSlot i ((s.slot i).accepting p) with iq := q }).slot i = (s.slot i).accepting p :=
    State.setSlot_slot_self s i _
  have halert : ({ s.setSlot i ((s.slot i).accepting p) with iq := q }).alignAlert i
      = { s.setSlot i ((s.slot i).accepting p) with iq := q } := by
    rw [State.alignAlert_eq (p := p) (by rw [hslot]; rfl), hslot]
    refine State.setSlot_of_eq ?_
    rw [hslot]
    unfold SlotRec.accepting
    dsimp only
    rw [ha, Bool.false_and]
  have hat : ({ s.setSlot i ((s.slot i).accepting p) with iq := q }).alertAtAcceptance i p
      = { s.setSlot i ((s.slot i).accepting p) with iq := q } := by
    unfold State.alertAtAcceptance
    dsimp only
    rw [halert, hslot]
    refine if_neg fun h => ?_
    have : (s.slot i).hm.alert = true := h.1
    rw [ha] at this
    cases this
  rw [hq, hat, State.promote_still (Or.inl (by rw [hslot]; exact hh))]

/-! ## The summary and its interrupt message (R175) -/

theorem State.align_out_rise {s : State} {c : ControlBlock} (hn : s.ri.summaryNow = true) (hs : s.ri.summary = false)
    (hc : s.ri.cb = some c) (hi : 0 < c.intSize) : s.align.out = s.out ++ [.interrupt c.intBase s.align.ri.kstat] := by
  have hk : s.align.ri.kstat = ({ s.ri with summary := s.ri.summaryNow } : RiRec).kstat := by rw [State.align_ri]
  rw [hk]
  unfold State.align
  dsimp only
  rw [hn, hs, hc]
  dsimp only
  rw [if_pos (by decide), if_pos hi]
  rfl

theorem State.align_out_still {s : State}
    (h : s.ri.summaryNow = false ∨ s.ri.summary = true ∨ ∃ c, s.ri.cb = some c ∧ c.intSize = 0) : s.align.out = s.out := by
  unfold State.align
  dsimp only
  split
  next hup =>
    rw [Bool.and_eq_true, Bool.not_eq_true'] at hup
    obtain ⟨hn, hs⟩ := hup
    rcases h with h | h | ⟨c, hc, hz⟩
    · rw [hn] at h; cases h
    · rw [hs] at h; cases h
    · rw [hc]
      dsimp only
      rw [if_neg (by omega)]
  next => rfl

/-! ## INIT's read of the Control Block (R166) -/

theorem exec_controlBlockRead {s : State} {ref : ReadRef} (res : ReadResult) (h : s.ri.work = .controlBlock ref) :
    exec (.controlBlockReadDone ref.id res) s = .next (match (res.bytes 64).bind checkedControlBlock with
      | some c => ((s.takeControlBlock c).align.readPolicy 0 0).align
      | none => (s.initFails (if (res.bytes 64).isNone then .cbRead else .cbInvalid)).align) := by
  have hr : exec (.controlBlockReadDone ref.id res) s = .next (s.controlBlockRead ref.id res).align := rfl
  rw [hr]
  unfold State.controlBlockRead
  rw [h]
  dsimp only
  rw [if_pos rfl]
  cases hb : res.bytes 64 with
  | none => rfl
  | some b =>
    dsimp only [Option.bind]
    cases checkedControlBlock b <;> rfl

/-- INIT ended with an error, with the end of the event. -/
theorem State.initFails_align (s : State) (f : InitFault) :
    let t := (s.initFails f).align
    t.slots = s.slots ∧ t.tb = s.tb ∧ t.senseInterval = s.senseInterval
      ∧ { t.ri with summary := s.ri.summary } =
        { s.ri with
          initFault := f, initValid := false, state := .stopped, work := .idle
          causes := { s.ri.causes with initError := true } } := by
  have hring := (s.initFails f).align_ring
  have honly := (s.initFails f).align_only 0
  refine ⟨hring.slots, honly.tb, honly.senseInterval, ?_⟩
  rw [State.align_ri]
  rfl

/-- A valid Control Block taken, the summary in line, and the first policy record asked for. -/
theorem State.takeControlBlock_reads (s : State) (c : ControlBlock) :
    ((s.takeControlBlock c).align.readPolicy 0 0).align = (s.takeControlBlock c).align.riRead (policyAddr c.policyBase 0) 256
      fun r => .policy r 0 0 := by
  have hcb : (s.takeControlBlock c).align.ri.cb = some c := by rw [State.align_ri]; rfl
  have hread : (s.takeControlBlock c).align.readPolicy 0 0
      = (s.takeControlBlock c).align.riRead (policyAddr c.policyBase 0) 256 fun r => .policy r 0 0 := by
    unfold State.readPolicy
    rw [hcb]
  rw [hread]
  exact State.align_of_summaryInLine
    (State.summaryInLine_of_same (s.takeControlBlock c).align_summaryInLine rfl rfl rfl)

end Sys2Proof.Machine
end

section
/-! PROOFS. INIT's reads of the policy records. -/

namespace Sys2Proof.Machine

open Sys2Proof

theorem ReadResult.bytes_short {b : List Byte} {n : Nat} (h : b.length < n) : (ReadResult.data b).bytes n = none := by
  unfold ReadResult.bytes
  exact if_neg (Nat.not_le.2 h)

/-! ## INIT's reads of the policy records (R167) -/

/-- A command that ends RI's read of a policy record without bytes that the check accepts. -/
def State.rejects (s : State) (ref : ReadRef) (i : Slot) (c : Instr) : Prop :=
  c = .policyRecordReadDone ref.id .unsupported ∨ c = .policyRecordReadDone ref.id .aborted
    ∨ (∃ b : List Byte, b.length < 256 ∧ c = .policyRecordReadDone ref.id (.data b))
    ∨ (∃ b : List Byte, b.length = 256 ∧ (¬ ∃ p, s.acceptable i b p) ∧ c = .policyRecordReadDone ref.id (.data b))
    ∨ c = .riReadDeadline ∧ (s.tb.counter - ref.deadline).toNat < 2 ^ 31

theorem exec_policyRecordRead {s : State} {ref : ReadRef} {i : Slot} {rej : BitVec 8} (res : ReadResult)
    (h : s.ri.work = .policy ref i rej) :
    exec (.policyRecordReadDone ref.id res) s = .next (s.initPolicy i rej (res.bytes 256)).align := by
  have hr : s.policyRecordRead ref.id res = s.initPolicy i rej (res.bytes 256) := by
    unfold State.policyRecordRead
    rw [h]
    exact if_pos rfl
  rw [← hr]
  rfl

theorem State.initPolicy_rejected {s : State} {i : Slot} {rej : BitVec 8} {o : Option (List Byte)}
    (h : o.bind (s.checkPolicy i) = none) : s.initPolicy i rej o = s.nextPolicy i (rej ||| (1#8 <<< i.val)) := by
  unfold State.initPolicy
  rw [h]

theorem State.initPolicy_accepted {s : State} {i : Slot} {rej : BitVec 8} {b : List Byte} {p : Policy}
    (h : s.checkPolicy i b = some p) : s.initPolicy i rej (some b) = ((s.acceptPolicy i p).settle i).nextPolicy i rej := by
  have hb : (some b).bind (s.checkPolicy i) = some p := h
  unfold State.initPolicy
  rw [hb]

theorem State.exec_rejects {s : State} {ref : ReadRef} {i : Slot} {rej : BitVec 8} {c : Instr} (h : s.rejects ref i c)
    (hw : s.ri.work = .policy ref i rej) : exec c s = .next (s.nextPolicy i (rej ||| (1#8 <<< i.val))).align := by
  rcases h with rfl | rfl | ⟨b, hb, rfl⟩ | ⟨b, hb, hno, rfl⟩ | ⟨rfl, hd⟩
  · rw [exec_policyRecordRead _ hw, State.initPolicy_rejected rfl]
  · rw [exec_policyRecordRead _ hw, State.initPolicy_rejected rfl]
  · rw [exec_policyRecordRead _ hw, State.initPolicy_rejected (by rw [ReadResult.bytes_short hb]; rfl)]
  · have hcheck : s.checkPolicy i b = none := by
      cases hc : s.checkPolicy i b with
      | none => rfl
      | some p => exact absurd ⟨p, (State.checkPolicy_iff _ _ _ _).1 hc⟩ hno
    rw [exec_policyRecordRead _ hw, State.initPolicy_rejected (by rw [ReadResult.bytes_of_length hb]; exact hcheck)]
  · have hlate : s.riReadLate = s.initPolicy i rej none := by
      unfold State.riReadLate
      rw [hw]
      exact if_pos (deadlineReached_iff.2 hd)
    have hr : exec .riReadDeadline s = .next s.riReadLate.align := rfl
    rw [hr, hlate, State.initPolicy_rejected rfl]

/-- The next slot's record is asked for. -/
theorem State.nextPolicy_reads {s : State} {i : Slot} {rej : BitVec 8} {cb : ControlBlock} (hi : i ≠ 7)
    (hcb : s.ri.cb = some cb) : s.nextPolicy i rej = { s with
      ri := { s.ri with work := .policy ⟨s.readId, s.tb.counter + 65535⟩ (i + 1) rej }
      out := s.out ++ [.hostRead .ringInterface s.readId (cb.policyBase + BitVec.ofNat 64 (256 * (i.val + 1))) 256]
      readId := s.readId + 1 } := by
  have hv : (i + 1).val = i.val + 1 := by
    revert i
    decide
  unfold State.nextPolicy
  rw [if_neg hi]
  unfold State.readPolicy
  rw [hcb]
  dsimp only
  rw [policyAddr, hv]
  rfl

theorem State.nextPolicy_done {s : State} (rej : BitVec 8) : s.nextPolicy 7 rej = s.initDone rej := if_pos rfl

/-- The policy record of a slot accepted by INIT, with the end of the event. -/
theorem State.initPolicy_accepts {s : State} {i : Slot} {rej : BitVec 8} {b : List Byte} {p : Policy} {cb : ControlBlock}
    (hcb : s.ri.cb = some cb) (hset : (s.slot i).planSettled) (hc : s.checkPolicy i b = some p)
    (hh : (s.slot i).tt.hold = []) (ha : (s.slot i).hm.alert = false) :
    let t := (s.initPolicy i rej (some b)).align
    t.slot i = (s.slot i).accepting p ∧ (∀ j, j ≠ i → t.slot j = s.slot j)
      ∧ (i ≠ 7 → t.ri.work = .policy ⟨s.readId, s.tb.counter + 65535⟩ (i + 1) rej)
      ∧ (i = 7 → t.ri.state = .stopped ∧ t.ri.initValid = true ∧ t.ri.initRejected = rej ∧ t.ri.causes.initDone = true
        ∧ t.ri.actionPtr = 0 ∧ t.ri.incidentPtr = 0 ∧ t.ri.work = .idle) := by
  obtain ⟨q, hq⟩ := State.acceptPolicy_calm p hh ha
  have hslot : (s.acceptPolicy i p).slot i = (s.slot i).accepting p := by
    rw [hq]
    exact State.setSlot_slot_self s i _
  have hother : ∀ j, j ≠ i → (s.acceptPolicy i p).slot j = s.slot j := fun j hj => by
    rw [hq]
    exact State.setSlot_slot_ne s i j _ hj
  have hsettle : (s.acceptPolicy i p).settle i = s.acceptPolicy i p := State.settle_settled (by rw [hslot]; exact hset)
  dsimp only
  rw [State.initPolicy_accepted hc, hsettle, State.align_slot, State.align_ri]
  have hri : (s.acceptPolicy i p).ri = s.ri ∧ (s.acceptPolicy i p).readId = s.readId ∧ (s.acceptPolicy i p).tb = s.tb := by
    rw [hq]
    exact ⟨rfl, rfl, rfl⟩
  obtain ⟨hri, hid, htb⟩ := hri
  clear hsettle hq
  generalize s.acceptPolicy i p = u at *
  by_cases hi : i = 7
  · subst hi
    rw [State.nextPolicy_done]
    refine ⟨hslot, fun j hj => ?_, fun h => absurd rfl h, fun _ => ⟨rfl, rfl, rfl, rfl, rfl, rfl, rfl⟩⟩
    rw [State.align_slot]
    exact hother j hj
  · rw [State.nextPolicy_reads (cb := cb) hi (by rw [hri]; exact hcb)]
    refine ⟨hslot, fun j hj => ?_, fun _ => by dsimp only; rw [hid, htb], fun h => absurd h hi⟩
    rw [State.align_slot]
    exact hother j hj

theorem State.align_readId (s : State) : s.align.readId = s.readId := by
  unfold State.align
  dsimp only
  split
  · split
    · split <;> rfl
    · rfl
  · rfl

/-- What the Control Block's taker finds, and the outputs of the event. -/
theorem State.takeControlBlock_taken (s : State) (c : ControlBlock) :
    let t := (s.takeControlBlock c).align.riRead (policyAddr c.policyBase 0) 256 fun r => .policy r 0 0
    t.slots = s.slots ∧ t.tb = { prescale := 4 ^ c.prescaleSel, divider := c.divider, counter := s.tb.counter }
      ∧ t.senseInterval = c.senseInterval ∧ t.sampleTimer = s.sampleTimer ∧ t.ri.cb = some c
      ∧ t.ri.causes = s.ri.causes ∧ t.ri.state = s.ri.state
      ∧ t.ri.work = .policy ⟨s.readId, s.tb.counter + 65535⟩ 0 0
      ∧ ∃ mid, t.out = s.out ++ mid ++ [.hostRead .ringInterface s.readId c.policyBase 256]
        ∧ (t.ri.summary = true ∧ s.ri.summary = false ∧ 0 < c.intSize →
          mid = [.interrupt c.intBase (t.ri.readRegister .kstat)])
        ∧ (t.ri.summary = false ∨ s.ri.summary = true ∨ c.intSize = 0 → mid = []) := by
  have hring := (s.takeControlBlock c).align_ring
  have honly := (s.takeControlBlock c).align_only 0
  have hri := State.align_ri (s.takeControlBlock c)
  have hid : (s.takeControlBlock c).align.readId = s.readId := State.align_readId _
  have hrise := State.align_out_rise (s := s.takeControlBlock c) (c := c)
  have hstill := State.align_out_still (s := s.takeControlBlock c)
  obtain ⟨mid, hmid⟩ := honly.out
  have htb := honly.tb
  have hsi := honly.senseInterval
  have hst := honly.sampleTimer
  have hslots := hring.slots
  generalize (s.takeControlBlock c).align = A at *
  have hzero : policyAddr c.policyBase 0 = c.policyBase := by simp [policyAddr]
  have hwork : (A.riRead (policyAddr c.policyBase 0) 256 fun r => .policy r 0 0).ri
      = { A.ri with work := .policy ⟨A.readId, A.tb.counter + 65535⟩ 0 0 } := rfl
  dsimp only
  rw [hwork]
  refine ⟨hslots, htb, hsi, hst, by rw [hri]; rfl, by rw [hri]; rfl, by rw [hri]; rfl, by rw [hid, htb]; rfl, mid, ?_,
    fun h => ?_, fun h => ?_⟩
  · rw [hzero, State.riRead, State.issueRead_out]
    change A.out ++ [.hostRead .ringInterface A.readId c.policyBase 256] = _
    rw [← hmid, hid]
    rfl
  · obtain ⟨hn, hs, hi⟩ := h
    have hup : (s.takeControlBlock c).ri.summaryNow = true := (congrArg RiRec.summary hri).symm.trans hn
    exact List.append_cancel_left (hmid.trans (hrise hup hs rfl hi))
  · have hq : (s.takeControlBlock c).ri.summaryNow = false ∨ (s.takeControlBlock c).ri.summary = true
        ∨ ∃ d, (s.takeControlBlock c).ri.cb = some d ∧ d.intSize = 0 :=
      h.imp (fun hn => (congrArg RiRec.summary hri).symm.trans hn) (Or.imp id fun hz => ⟨c, rfl, hz⟩)
    exact List.append_cancel_left (hmid.trans ((hstill hq).trans (List.append_nil _).symm))

/-- Settles O49: the checks of R166 and R168 decide, and what comes after each is one update of RI's record. -/
theorem initReadsTakeWhatTheyFind : Obligations.InitReadsTakeWhatTheyFind := by
  refine ⟨fun s ref hs hw => ?_, fun s ref i rej cb hs hset hw hcb => ⟨fun id res hid => ?_, fun c hc => ?_, ?_⟩⟩
  · have hfails : ∀ (res : ReadResult) (f : InitFault), (res.bytes 64).bind checkedControlBlock = none →
        (if (res.bytes 64).isNone then InitFault.cbRead else .cbInvalid) = f →
        exec (.controlBlockReadDone ref.id res) s = .next (s.initFails f).align := fun res f h hf => by
      rw [exec_controlBlockRead res hw, h]
      dsimp only
      rw [hf]
    refine ⟨fun id res hid => ?_, ⟨_, hfails .unsupported .cbRead rfl rfl, s.initFails_align _⟩,
      ⟨_, hfails .aborted .cbRead rfl rfl, s.initFails_align _⟩, fun b hb => ?_, fun hd => ?_, fun b c hb hsay hno => ?_,
      fun b c hb hsay hsound => ?_⟩
    · have hsame : s.controlBlockRead id res = s := by
        unfold State.controlBlockRead
        rw [hw]
        exact if_neg (Ne.symm hid)
      have hr : exec (.controlBlockReadDone id res) s = .next (s.controlBlockRead id res).align := rfl
      rw [hr, hsame, State.align_of_summaryInLine hs]
    · have hn := ReadResult.bytes_short hb
      exact ⟨_, hfails (.data b) .cbRead (by rw [hn]; rfl) (by rw [hn]; rfl), s.initFails_align _⟩
    · have hlate : s.riReadLate = s.initFails .cbRead := by
        unfold State.riReadLate
        rw [hw]
        exact if_pos (deadlineReached_iff.2 hd)
      have hr : exec .riReadDeadline s = .next s.riReadLate.align := rfl
      exact ⟨_, hr.trans (by rw [hlate]), s.initFails_align _⟩
    · have hn := ReadResult.bytes_of_length hb
      have hcheck : checkedControlBlock b = none := by
        cases hc : checkedControlBlock b with
        | none => rfl
        | some d =>
          obtain ⟨hd, hsd⟩ := (checkedControlBlock_iff b d).1 hc
          have hcd : d = c := ((parseControlBlock_iff b d).2 hd).symm.trans ((parseControlBlock_iff b c).2 hsay)
          exact absurd (hcd ▸ hsd) hno
      exact ⟨_, hfails (.data b) .cbInvalid (by rw [hn]; exact hcheck) (by rw [hn]; rfl), s.initFails_align _⟩
    · have hcheck : ((ReadResult.data b).bytes 64).bind checkedControlBlock = some c := by
        rw [ReadResult.bytes_of_length hb]
        exact (checkedControlBlock_iff b c).2 ⟨hsay, hsound⟩
      have hexec := exec_controlBlockRead (.data b) hw
      rw [hcheck] at hexec
      exact ⟨_, hexec.trans (congrArg Host.Outcome.next (s.takeControlBlock_reads c)), s.takeControlBlock_taken c⟩
  · have hsame : s.policyRecordRead id res = s := by
      unfold State.policyRecordRead
      rw [hw]
      exact if_neg (Ne.symm hid)
    have hr : exec (.policyRecordReadDone id res) s = .next (s.policyRecordRead id res).align := rfl
    rw [hr, hsame, State.align_of_summaryInLine hs]
  · rw [State.exec_rejects hc hw]
    refine ⟨fun hi => ?_, fun hi => ?_⟩
    · rw [State.nextPolicy_reads hi hcb]
      exact congrArg Host.Outcome.next (State.align_of_summaryInLine (State.summaryInLine_of_same hs rfl rfl rfl))
    · subst hi
      rw [State.nextPolicy_done]
      refine ⟨_, rfl, ((s.initDone _).align_ring).slots, ?_⟩
      rw [State.align_ri]
      rfl
  · intro b p hb hacc hh ha
    rw [exec_policyRecordRead _ hw, ReadResult.bytes_of_length hb]
    obtain ⟨h1, h2, h3, h4⟩ := State.initPolicy_accepts (rej := rej) hcb hset ((State.checkPolicy_iff s i b p).2 hacc) hh ha
    exact ⟨_, rfl, by rw [h1]; rfl, by rw [h1]; rfl, by rw [h1]; rfl, by rw [h1]; rfl, by rw [h1]; rfl, h2, h3, h4⟩

end Sys2Proof.Machine
end

section
/-! PROOFS. The ends of a LOAD_POLICY read, and the next entry of a plan. -/

namespace Sys2Proof.Machine

open Sys2Proof

/-! ## The ends of a LOAD_POLICY read (R155) -/

/-- What a returned plan says is untouched by the end of the event. -/
theorem State.planEnded.align {s t : State} {pre : List Output} {i : Slot} {e : ActEntry} {rest : List ActEntry}
    {cb : ControlBlock} {o : ActOutcome} {st : SlotState} {n : Nat} (h : s.planEnded t pre i e rest cb o st n) :
    s.planEnded t.align pre i e rest cb o st n := by
  obtain ⟨h1, h2, h3, h4⟩ := h
  obtain ⟨k1, k2, k3, k4⟩ := t.align_arrives i
  exact ⟨h1.trans k1, k2.trans h2, k3.trans h3, k4.trans h4⟩

theorem State.holdsPlan.settled {s : State} {i : Slot} {e : ActEntry} {rest : List ActEntry} {cb : ControlBlock}
    (h : s.holdsPlan i e rest cb) : (s.slot i).planSettled := fun hn => by
  rw [h.1] at hn
  cases hn

theorem State.holdsPlan.remaining {s : State} {i : Slot} {e : ActEntry} {rest : List ActEntry} {cb : ControlBlock}
    (h : s.holdsPlan i e rest cb) : (s.slot i).ad.remaining = rest := h.2.1

/-- An entry that ends with an outcome other than DONE, with the end of the event. -/
theorem State.endEntry_fails {s : State} {i : Slot} {e : ActEntry} {rest : List ActEntry} {cb : ControlBlock} {o : ActOutcome}
    (h : s.holdsPlan i e rest cb) (ho : o ≠ .done) :
    let t := ((s.endEntry i o 0).settle i).align
    s.planEnded t [] i e rest cb o (s.slot i).cs.state 0 ∧ { t.slot i with ad := (s.slot i).ad } = s.slot i := by
  have hend := s.endEntry_planEnded i e rest cb o 0 h fun hd => absurd hd ho
  dsimp only
  rw [State.settle_settled (State.endEntry_settled 0 ho h.settled), State.align_slot, (s.endEntry_returns i o 0).slot]
  exact ⟨hend.align, rfl⟩

theorem exec_loadPolicyRead {s : State} {i : Slot} {ref : ReadRef} (res : ReadResult) (h : (s.slot i).ad.policyRead = some ref) :
    exec (.loadPolicyReadDone i ref.id res) s = .next (((s.policyReadEnds i (res.bytes 256)).settle i).align) := by
  have hr : s.loadPolicyRead i ref.id res = ((s.policyReadEnds i (res.bytes 256)).settle i).align := by
    unfold State.loadPolicyRead
    rw [h]
    exact if_pos rfl
  rw [← hr]
  rfl

theorem exec_loadPolicyRead_other {s : State} {i : Slot} {ref : ReadRef} {id : Nat} (res : ReadResult)
    (h : (s.slot i).ad.policyRead = some ref) (hid : id ≠ ref.id) : exec (.loadPolicyReadDone i id res) s = .next s := by
  have hr : s.loadPolicyRead i id res = s := by
    unfold State.loadPolicyRead
    rw [h]
    exact if_neg (Ne.symm hid)
  exact congrArg Host.Outcome.next hr

theorem exec_loadPolicyDeadline {s : State} {i : Slot} {ref : ReadRef} (h : (s.slot i).ad.policyRead = some ref) :
    exec (.loadPolicyReadDeadline i) s = .next (if (s.tb.counter - ref.deadline).toNat < 2 ^ 31
      then ((s.policyReadEnds i none).settle i).align else s) := by
  have hr : s.loadPolicyLate i = if (s.tb.counter - ref.deadline).toNat < 2 ^ 31
      then ((s.policyReadEnds i none).settle i).align else s := by
    unfold State.loadPolicyLate
    rw [h]
    dsimp only
    by_cases hd : (s.tb.counter - ref.deadline).toNat < 2 ^ 31
    · rw [if_pos hd, if_pos (show deadlineReached s.now ref.deadline = true from deadlineReached_iff.2 hd)]
    · rw [if_neg hd, if_neg (show ¬ deadlineReached s.now ref.deadline = true from mt deadlineReached_iff.1 hd)]
  exact congrArg Host.Outcome.next hr

/-- The check of the bytes, by the state and by R168. -/
theorem State.policyReadEnds_refused {s : State} {i : Slot} {b : List Byte} (h : (s.slot i).cs.state.recovery = true) :
    s.policyReadEnds i (some b) = s.endEntry i .refused 0 := if_pos (by simp [ActCode.accepts, h])

theorem State.policyReadEnds_invalid {s : State} {i : Slot} {b : List Byte} (h : (s.slot i).cs.state.recovery = false)
    (hn : ¬ ∃ p, s.acceptable i b p) : s.policyReadEnds i (some b) = s.endEntry i .policyInvalid 0 := by
  have hc : s.checkPolicy i b = none := by
    cases hc : s.checkPolicy i b with
    | none => rfl
    | some p => exact absurd ⟨p, (State.checkPolicy_iff _ _ _ _).1 hc⟩ hn
  unfold State.policyReadEnds
  dsimp only
  rw [if_neg (by simp [ActCode.accepts, h]), hc]

theorem State.policyReadEnds_accepted {s : State} {i : Slot} {b : List Byte} {p : Policy}
    (h : (s.slot i).cs.state.recovery = false) (hp : s.acceptable i b p) :
    s.policyReadEnds i (some b) = (s.acceptPolicy i p).endEntry i .done 0 := by
  unfold State.policyReadEnds
  dsimp only
  rw [if_neg (by simp [ActCode.accepts, h]), (State.checkPolicy_iff _ _ _ _).2 hp]

/-! ## The next entry of a plan (R160) -/

/-- AD's record with entry `x` started and `more` remaining. -/
def AdRec.starting (a : AdRec) (x : ActEntry) (more : List ActEntry) : AdRec :=
  { AdRec.free with occupant := a.occupant, current := some x, remaining := more }

/-- The current entry returned DONE and the next one current. -/
def State.nextEntry (s : State) (i : Slot) (x : ActEntry) (more : List ActEntry) : State :=
  (s.endEntry i .done 0).setAd i ((s.slot i).ad.starting x more)

theorem State.endEntry_done {s : State} {i : Slot} {e x : ActEntry} {more : List ActEntry} {cb : ControlBlock}
    (h : s.holdsPlan i e (x :: more) cb) : s.endEntry i .done 0 = (s.giveBack i e .done 0).setAd i
      { AdRec.free with occupant := (s.slot i).ad.occupant, remaining := x :: more } := by
  obtain ⟨hc, hr, -⟩ := h
  unfold State.endEntry
  dsimp only
  rw [hc, hr]
  dsimp only
  rw [if_pos ⟨rfl, by simp⟩]

/-- The checks of an entry of the plan that holds the record do not read the record. -/
theorem SlotRec.check_own (r : SlotRec) (a : AdRec) (x : ActEntry) : { r with ad := a }.check x true = r.check x true := by
  unfold SlotRec.check
  simp only [Bool.or_true, Bool.true_or]

/-- How the plan goes on after a DONE. -/
theorem State.startNext_done {s : State} {i : Slot} {e x : ActEntry} {more : List ActEntry} {cb : ControlBlock}
    (h : s.holdsPlan i e (x :: more) cb) : (s.endEntry i .done 0).startNext i
      = match (s.slot i).check x true with
        | .error o => (s.nextEntry i x more).endEntry i o 0
        | .ok c => (s.nextEntry i x more).run i x c := by
  have hslot : (s.endEntry i .done 0).slot i = { s.slot i with
      ad := { AdRec.free with occupant := (s.slot i).ad.occupant, remaining := x :: more } } := by
    rw [(s.endEntry_returns i .done 0).slot, State.endEntry_done h, State.setAd, State.modSlot_slot_self]
  unfold State.startNext
  dsimp only
  rw [hslot]
  dsimp only [AdRec.free]
  rw [SlotRec.check_own]
  rfl

theorem State.nextEntry_slot (s : State) (i : Slot) (x : ActEntry) (more : List ActEntry) :
    (s.nextEntry i x more).slot i = { s.slot i with ad := (s.slot i).ad.starting x more } := by
  rw [State.nextEntry, State.setAd, State.modSlot_slot_self, (s.endEntry_returns i .done 0).slot]

/-- The state in which the next entry starts: one entry returned, the others in flight. -/
theorem State.nextEntry_holds {s : State} {i : Slot} {e x : ActEntry} {more : List ActEntry} {cb : ControlBlock}
    (h : s.holdsPlan i e (x :: more) cb) :
    (s.nextEntry i x more).holdsPlan i x more cb
      ∧ (s.nextEntry i x more).out = s.out ++ s.returnOf cb i e .done (s.slot i).cs.state 0
      ∧ (s.nextEntry i x more).ri.inFlight = s.inFlightBut [e]
      ∧ ∀ y ∈ x :: more, ∀ o st n, (s.nextEntry i x more).returnOf cb i y o st n = s.returnOf cb i y o st n := by
  obtain ⟨hc, hr, hcb, hp, hin⟩ := id h
  obtain ⟨he, hes⟩ := List.pairwise_cons.1 hp
  obtain ⟨f, hf⟩ := found_inFlight (hin e List.mem_cons_self)
  have hg := s.giveBack_eq i e f cb .done 0 hcb hf
  have hri : (s.nextEntry i x more).ri = (s.giveBack i e .done 0).ri := by
    rw [State.nextEntry, State.endEntry_done h]
    rfl
  have hout : (s.nextEntry i x more).out = (s.giveBack i e .done 0).out := by
    rw [State.nextEntry, State.endEntry_done h]
    rfl
  have htb : (s.nextEntry i x more).tb = s.tb := by
    rw [State.nextEntry, State.endEntry_done h, hg]
    rfl
  have hfl : (s.nextEntry i x more).ri.inFlight = s.ri.inFlight.filter fun g => !decide (g.index = e.index) := by
    rw [hri, hg]
  refine ⟨⟨by rw [State.nextEntry_slot]; rfl, by rw [State.nextEntry_slot]; rfl, by rw [hri, hg]; exact hcb, hes,
    fun y hy => ?_⟩, ?_, ?_, fun y hy o st n => ?_⟩
  · obtain ⟨g, hgm, hgy⟩ := hin y (List.mem_cons_of_mem _ hy)
    refine ⟨g, ?_, hgy⟩
    rw [hfl]
    exact List.mem_filter.2 ⟨hgm, by simpa [hgy] using (he y hy).symm⟩
  · rw [hout, hg, State.returnOf_eq _ _ _ _ _ _ _ _ hf]
  · rw [hfl]
    simp [State.inFlightBut]
  · unfold State.returnOf
    rw [hfl, htb, find_inFlightBut _ _ _ (he y hy).symm]

theorem State.inFlightBut_cons {s t : State} {e : ActEntry} (es : List ActEntry) (h : t.ri.inFlight = s.inFlightBut [e]) :
    t.inFlightBut es = s.inFlightBut (e :: es) := by
  simp only [State.inFlightBut] at *
  rw [h, List.filter_filter]
  simp [Bool.and_comm]

end Sys2Proof.Machine
end

section
/-! PROOFS. Plans of entries that leave the slot alone. -/

namespace Sys2Proof.Machine

open Sys2Proof

/-! ## Plans of entries that leave the slot alone (R146, R156, R157, R160) -/

/-- From `s` to `t` the slot has changed in AD's record alone. -/
def KeptBut (i : Slot) (s t : State) : Prop := t.slot i = { s.slot i with ad := (t.slot i).ad }

theorem KeptBut.trans {i : Slot} {s t u : State} (h : KeptBut i s t) (k : KeptBut i t u) : KeptBut i s u := by
  unfold KeptBut at *
  rw [k, h]

theorem ActEntry.act_unknown {x : ActEntry} (h : x.code = 0) : x.act = none := by
  unfold ActEntry.act
  rw [h]
  rfl

theorem ActEntry.act_readSlot {x : ActEntry} (h : x.code = 10) : x.act = some .readSlot := by
  unfold ActEntry.act
  rw [h]
  rfl

theorem ActEntry.act_railSample {x : ActEntry} (h : x.code = 11) : x.act = some .railSample := by
  unfold ActEntry.act
  rw [h]
  rfl

theorem SlotRec.check_unknown (r : SlotRec) {x : ActEntry} (b : Bool) (h : x.code = 0) : r.check x b = .error .badCode := by
  unfold SlotRec.check
  rw [ActEntry.act_unknown h]

theorem SlotRec.check_readSlot (r : SlotRec) {x : ActEntry} (h : x.code = 10) (ha : x.argA = 0) (hb : x.argB = 0) :
    r.check x true = .ok .readSlot := by
  unfold SlotRec.check
  rw [ActEntry.act_readSlot h]
  simp [ActCode.argsOk, ActCode.accepts, ha, hb]

theorem SlotRec.check_railSample {r : SlotRec} {x : ActEntry} {p : Policy} (h : x.code = 11) (ha : x.argA = 0)
    (hb : x.argB = 0) (hp : r.policy = some p) : r.check x true = .ok .railSample := by
  unfold SlotRec.check
  rw [ActEntry.act_railSample h]
  simp [ActCode.argsOk, ActCode.accepts, ha, hb, hp]

/-- An entry that passes the checks is the action of its code. -/
theorem SlotRec.act_of_check {r : SlotRec} {x : ActEntry} {b : Bool} {c : ActCode} (h : r.check x b = .ok c) :
    x.act = some c := by
  unfold SlotRec.check at h
  split at h
  · cases h
  next d hd =>
    split at h
    · cases h
    · split at h
      · cases h
      · split at h
        · cases h
        · split at h
          · cases h
          · rw [hd, Except.ok.inj h]

/-- Every entry is READ_SLOT, RAIL_SAMPLE, or one whose code is 0. -/
def harmless (es : List ActEntry) : Prop := ∀ x ∈ es, x.code = 0 ∨ x.code = 10 ∨ x.code = 11

/-- What is left of a plan after an entry has ended. -/
theorem State.endEntry_remaining (s : State) (i : Slot) (o : ActOutcome) (n : Nat) :
    ((s.endEntry i o n).slot i).ad.remaining = (s.slot i).ad.remaining
      ∨ ((s.endEntry i o n).slot i).ad.remaining = [] := by
  unfold State.endEntry
  dsimp only
  split
  · exact Or.inl rfl
  · split
    · rw [State.setAd, State.modSlot_slot_self]
      exact Or.inl rfl
    · rw [State.setAd, State.modSlot_slot_self]
      exact Or.inr rfl

theorem State.endEntry_harmless {s : State} {i : Slot} {o : ActOutcome} {n : Nat} (h : harmless (s.slot i).ad.remaining) :
    harmless ((s.endEntry i o n).slot i).ad.remaining := by
  rcases s.endEntry_remaining i o n with hr | hr <;> rw [hr]
  · exact h
  · exact fun _ hx => by cases hx

/-- The next entry of such a plan starts, or fails its checks. -/
theorem State.startNext_harmless {s : State} {i : Slot} (h : harmless (s.slot i).ad.remaining) :
    KeptBut i s (s.startNext i) ∧ harmless ((s.startNext i).slot i).ad.remaining := by
  unfold State.startNext
  dsimp only
  split
  next e rest hc hr =>
    have ht : (s.setAd i { (s.slot i).ad with current := some e, remaining := rest }).slot i
        = { s.slot i with ad := { (s.slot i).ad with current := some e, remaining := rest } } := by
      rw [State.setAd, State.modSlot_slot_self]
    have hrest : harmless ((s.setAd i { (s.slot i).ad with current := some e, remaining := rest }).slot i).ad.remaining := by
      rw [ht]
      exact fun x hx => h x (by rw [hr]; exact List.mem_cons_of_mem _ hx)
    have hkept : KeptBut i s (s.setAd i { (s.slot i).ad with current := some e, remaining := rest }) := by
      unfold KeptBut
      rw [ht]
    generalize s.setAd i { (s.slot i).ad with current := some e, remaining := rest } = t at hrest hkept
    split
    next o _ => exact ⟨hkept.trans (t.endEntry_returns i o 0).slot, State.endEntry_harmless hrest⟩
    next c hcheck =>
      have hact := SlotRec.act_of_check hcheck
      rcases h e (by rw [hr]; exact List.mem_cons_self) with hcode | hcode | hcode
      · rw [ActEntry.act_unknown hcode] at hact
        cases hact
      · rw [ActEntry.act_readSlot hcode] at hact
        cases hact
        exact ⟨hkept.trans (t.endEntry_returns i .done _).slot, State.endEntry_harmless hrest⟩
      · rw [ActEntry.act_railSample hcode] at hact
        cases hact
        exact ⟨hkept, hrest⟩
  next => exact ⟨rfl, h⟩

theorem State.runPlan_harmless (n : Nat) {s : State} {i : Slot} (h : harmless (s.slot i).ad.remaining) :
    KeptBut i s (State.runPlan i n s) := by
  induction n generalizing s with
  | zero => exact rfl
  | succ n ih =>
    obtain ⟨hk, hr⟩ := State.startNext_harmless h
    exact hk.trans (ih hr)

/-- An entry returned DONE, with the end of the event, where the entries after it leave the slot alone. -/
theorem State.endEntry_harmlessPlan {s : State} {i : Slot} (o : ActOutcome) (n : Nat) (h : harmless (s.slot i).ad.remaining) :
    KeptBut i s (((s.endEntry i o n).settle i).align) := by
  have h1 : KeptBut i s (s.endEntry i o n) := (s.endEntry_returns i o n).slot
  have h2 : KeptBut i (s.endEntry i o n) ((s.endEntry i o n).settle i) :=
    State.runPlan_harmless _ (State.endEntry_harmless h)
  exact (h1.trans h2).trans ((s.endEntry i o n).settle i |>.align_returns i).slot

/-- The plan goes on to its next entry, which ends the event for it. -/
theorem State.settle_next {s u : State} {i : Slot} {e x : ActEntry} {more : List ActEntry} {cb : ControlBlock}
    (h : s.holdsPlan i e (x :: more) cb) (hu : (s.endEntry i .done 0).startNext i = u) (hs : (u.slot i).planSettled) :
    (s.endEntry i .done 0).settle i = u := by
  have hlen : ((s.endEntry i .done 0).slot i).ad.remaining.length = more.length + 1 := by
    rw [State.endEntry_done h, State.setAd, State.modSlot_slot_self]
    rfl
  rw [State.settle, hlen, State.runPlan, hu, State.runPlan_settled hs]

/-- The next entry names no action: BAD_CODE, and the rest SKIPPED. -/
theorem State.plan_unknown {s : State} {i : Slot} {e x : ActEntry} {more : List ActEntry} {cb : ControlBlock}
    (h : s.holdsPlan i e (x :: more) cb) (hx : x.code = 0) :
    let t := (s.endEntry i .done 0).settle i
    s.out ++ s.returnOf cb i e .done (s.slot i).cs.state 0 ++ s.returnOf cb i x .badCode (s.slot i).cs.state 0
        ++ more.flatMap (fun y => s.returnOf cb i y .skipped (s.slot i).cs.state 0) <+: t.out
      ∧ (t.slot i).ad = { occupant := .none, current := none, cardRemoved := false, remaining := [], policyRead := none }
      ∧ t.ri.inFlight = s.inFlightBut (e :: x :: more) := by
  obtain ⟨hold, hout, hfl, hret⟩ := State.nextEntry_holds h
  have hnext : (s.endEntry i .done 0).startNext i = (s.nextEntry i x more).endEntry i .badCode 0 := by
    rw [State.startNext_done h, SlotRec.check_unknown _ _ hx]
  obtain ⟨h1, h2, -, h4⟩ := (s.nextEntry i x more).endEntry_planEnded i x more cb .badCode 0 hold (by simp)
  have hstate : ((s.nextEntry i x more).slot i).cs.state = (s.slot i).cs.state := by rw [State.nextEntry_slot]
  dsimp only
  rw [State.settle_next h hnext fun _ => by rw [h4]]
  refine ⟨?_, h4, h2.trans (State.inFlightBut_cons _ hfl)⟩
  rw [hstate, hout, List.append_nil, hret x List.mem_cons_self,
    List.flatMap_congr fun y hy => hret y (List.mem_cons_of_mem _ hy) _ _ _] at h1
  exact h1

/-- The next entry is a READ_SLOT, and the last. -/
theorem State.plan_readSlot {s : State} {i : Slot} {e x : ActEntry} {cb : ControlBlock} (h : s.holdsPlan i e [x] cb)
    (hx : x.code = 10) (ha : x.argA = 0) (hb : x.argB = 0) :
    let t := (s.endEntry i .done 0).settle i
    s.out ++ s.returnOf cb i e .done (s.slot i).cs.state 0
        ++ s.returnOf cb i x .done (s.slot i).cs.state (s.slot i).packed <+: t.out
      ∧ (t.slot i).ad = { occupant := .none, current := none, cardRemoved := false, remaining := [], policyRead := none }
      ∧ t.ri.inFlight = s.inFlightBut [e, x] := by
  obtain ⟨hold, hout, hfl, hret⟩ := State.nextEntry_holds h
  have hslot := s.nextEntry_slot i x []
  have hpacked : ((s.nextEntry i x []).slot i).packed = (s.slot i).packed := by rw [hslot]; rfl
  have hnext : (s.endEntry i .done 0).startNext i = (s.nextEntry i x []).endEntry i .done (s.slot i).packed := by
    rw [State.startNext_done h, SlotRec.check_readSlot _ hx ha hb, ← hpacked]
    rfl
  obtain ⟨h1, h2, -, h4⟩ := (s.nextEntry i x []).endEntry_planEnded i x [] cb .done (s.slot i).packed hold fun _ => rfl
  have hstate : ((s.nextEntry i x []).slot i).cs.state = (s.slot i).cs.state := by rw [hslot]
  dsimp only
  rw [State.settle_next h hnext fun _ => by rw [h4]]
  refine ⟨?_, h4, h2.trans (State.inFlightBut_cons _ hfl)⟩
  rw [hstate, hout, List.append_nil, hret x List.mem_cons_self, List.flatMap_nil, List.append_nil] at h1
  exact h1

theorem RmRec.arbitrate_sample (m : RmRec) (i : Slot) : (m.arbitrate.req i).sample = (m.req i).sample := by
  unfold RmRec.arbitrate
  split
  · split
    next j _ =>
      have hset : ((m.setReq j { m.req j with state := .inService }).req i).sample = (m.req i).sample := by
        by_cases hij : i = j
        · rw [hij, RmRec.setReq_self]
        · rw [RmRec.setReq_ne _ _ _ _ hij]
      unfold RmRec.serve
      dsimp only
      split <;> exact hset
    next => rfl
  · rfl

theorem RmRec.place_sample (m : RmRec) (i : Slot) : ((m.place i .sample).req i).sample = true := by
  unfold RmRec.place
  dsimp only
  split
  · rw [RmRec.arbitrate_sample, RmRec.setReq_self]
    rfl
  · rw [RmRec.setReq_self]
    rfl
  · rw [RmRec.setReq_self]
    rfl

/-- The next entry is a RAIL_SAMPLE: it stays in progress. -/
theorem State.plan_railSample {s : State} {i : Slot} {e x : ActEntry} {more : List ActEntry} {cb : ControlBlock} {p : Policy}
    (h : s.holdsPlan i e (x :: more) cb) (hx : x.code = 11) (ha : x.argA = 0) (hb : x.argB = 0)
    (hp : (s.slot i).policy = some p) :
    let t := (s.endEntry i .done 0).settle i
    s.out ++ s.returnOf cb i e .done (s.slot i).cs.state 0 <+: t.out
      ∧ (t.slot i).ad = (s.slot i).ad.starting x more ∧ (t.rm.req i).sample = true ∧ t.ri.inFlight = s.inFlightBut [e] := by
  obtain ⟨hold, hout, hfl, -⟩ := State.nextEntry_holds h
  have hnext : (s.endEntry i .done 0).startNext i = (s.nextEntry i x more).placeShare i .sample := by
    rw [State.startNext_done h, SlotRec.check_railSample hx ha hb hp]
    rfl
  have hslot : ((s.nextEntry i x more).placeShare i .sample).slot i = (s.nextEntry i x more).slot i := rfl
  dsimp only
  rw [State.settle_next h hnext (by rw [hslot]; exact hold.settled)]
  refine ⟨?_, by rw [hslot, State.nextEntry_slot], RmRec.place_sample _ _, hfl⟩
  rw [← hout]
  exact List.prefix_rfl

end Sys2Proof.Machine
end

section
/-! PROOFS. The end of the drain in the words of Safety. -/

namespace Sys2Proof.Machine

open Sys2Proof

/-! ## The path that the end of the drain takes (R46) -/

/-- The slot record that the end of the drain makes, but for the state, and the sequence it directs. -/
def CsRec.drainPath (c : CsRec) (p : Policy) : CsRec × Sequence :=
  if c.kind = .none then ({ c with drain := none }, .isolate)
  else if p.maxAttempts ≤ c.attempts then ({ c with drain := none, target := .retired }, .coldDown)
  else
    let kind := if p.escalate = true ∧ 1 < c.attempts + 1 then RecKind.cold else c.kind
    ({ c with drain := none, attempts := c.attempts + 1, kind := kind, restoreWanted := p.restore },
      if kind = .warm then .warm else .coldDown)

theorem State.modCs_eq (s : State) (i : Slot) (f : CsRec → CsRec) :
    s.modCs i f = s.setSlot i { s.slot i with cs := f (s.slot i).cs } := rfl

theorem State.drainEnd_path (s : State) (i : Slot) : s.drainEnd i
    = (s.setSlot i { s.slot i with cs := ((s.slot i).cs.drainPath (s.slot i).pol).1 }).startReset i
        ((s.slot i).cs.drainPath (s.slot i).pol).2 := by
  have hs : (s.modCs i fun c => { c with drain := none }).slot i
      = { s.slot i with cs := { (s.slot i).cs with drain := none } } := by rw [State.modCs, State.modSlot_slot_self]
  unfold CsRec.drainPath
  by_cases hk : (s.slot i).cs.kind = .none
  · rw [if_pos hk, State.drainEnd_none s i hk]
    rfl
  · rw [if_neg hk]
    have hend : s.drainEnd i = if (s.slot i).pol.maxAttempts ≤ (s.slot i).cs.attempts then
          ((s.modCs i fun c => { c with drain := none }).modCs i fun c => { c with target := .retired }).startReset i .coldDown
        else
          let kind := if (s.slot i).pol.escalate && decide (1 < (s.slot i).cs.attempts + 1) then .cold else (s.slot i).cs.kind
          ((s.modCs i fun c => { c with drain := none }).modCs i fun c =>
            { c with attempts := c.attempts + 1, kind := kind, restoreWanted := (s.slot i).pol.restore }).startReset
            i (if kind = .warm then .warm else .coldDown) := by
      unfold State.drainEnd
      dsimp only
      rw [hs]
      dsimp only
      split
      next h => exact absurd h hk
      next => rfl
    rw [hend]
    split
    · rw [State.modCs_eq _ _ fun c => { c with target := .retired }, hs, State.modCs_eq, State.setSlot_setSlot]
    · dsimp only
      simp only [Bool.and_eq_true, decide_eq_true_eq]
      rw [State.modCs_eq _ _ fun c => _, hs, State.modCs_eq, State.setSlot_setSlot]

/-! ## ISOLATE, and ASSERT where the lead is 0 (R71, R72) -/

/-- The record at the entry to ISOLATE. -/
def SlotRec.resetting (r : SlotRec) (q : Sequence) (lead : Nat) : SlotRec :=
  { r with
    cs := { r.cs with state := .resetting }
    ctf := { r.ctf with cls := SlotState.resetting.cls }
    pru := { r.pru with sequence := q, isoOpen := true, timer := some lead, phase := .isolate } }

theorem State.startReset_slot {s : State} {i : Slot} (q : Sequence) (h : (s.slot i).pol.isoLead ≠ 0) :
    (s.startReset i q).slot i = (s.slot i).resetting q (s.slot i).pol.isoLead := by
  rw [State.startReset_lead s i q h, State.modPru_slot_self, State.enter_slot_self]
  rfl

/-- ASSERT and what follows it in its event, up to what is returned. -/
theorem State.assertReset_past {s : State} {i : Slot} (hh : (s.slot i).pol.resetHold ≠ 0) :
    Returns i (s.pastAssert i) (s.assertReset i) := by
  have hseq := s.enterAssert_sequence i
  unfold State.pastAssert
  split
  next h =>
    rw [State.assertReset_through (by rw [h]; decide), State.assertDone_isolate (by rw [hseq, h]), State.goneIsolated_ends]
    exact State.onEntry_returns _ _ _ _
  next h =>
    rw [State.assertReset_through (by rw [h]; decide), State.assertDone_coldDown (by rw [hseq, h])]
    exact Returns.refl i _
  next h1 h2 =>
    have hsame : s.assertReset i = s.enterAssert i := by
      by_cases hw : (s.slot i).pru.sequence = .warm
      · exact State.assertReset_warm hw hh
      · rw [State.assertReset_through hw, State.assertDone_other (by rwa [hseq]) (by rwa [hseq]) (by rwa [hseq])]
    rw [hsame]
    exact Returns.refl i _

/-- The record past ASSERT, by the sequence. -/
def SlotRec.pastAssert (r : SlotRec) : SlotRec :=
  let a := SlotRec.resetReported { r with pru := r.pru.inAssert (r.pru.hold r.pol.resetHold) }
  match r.pru.sequence with
  | .isolate => { a with
      pru := a.pru.rest
      cs := { a.cs with
        state := .isolated, kind := .none, target := .none, retryPending := false, restoreWanted := false }
      ctf := { a.ctf with cls := SlotState.isolated.cls } }
  | .coldDown => SlotRec.enter (SlotRec.resetReported { a with pru := a.pru.powerOff a.pol.bleedWait }) .bleeding
  | _ => a

theorem SlotRec.pastAssert_ad {r : SlotRec} : r.pastAssert.ad.remaining = r.ad.remaining := by
  unfold SlotRec.pastAssert
  dsimp only
  split <;> rfl

theorem State.pastAssert_slot (s : State) (i : Slot) : (s.pastAssert i).slot i = (s.slot i).pastAssert := by
  have hassert := s.enterAssert_slot i
  unfold State.pastAssert SlotRec.pastAssert
  cases (s.slot i).pru.sequence
  case isolate => exact (State.goneIsolated_slot _ i).trans (by rw [hassert])
  case coldDown => exact (State.powerOffNow_slot _ i).trans (by rw [hassert])
  all_goals exact hassert

theorem State.startReset_past {s : State} {i : Slot} (q : Sequence) (hl : (s.slot i).pol.isoLead = 0)
    (hh : (s.slot i).pol.resetHold ≠ 0) :
    ∃ a : AdRec, (s.startReset i q).slot i = { ((s.slot i).resetting q 0).pastAssert with ad := a }
      ∧ ((s.slot i).planDone → a.remaining = []) := by
  have hrec : ((s.enter i .resetting).modPru i fun p =>
      { p with sequence := q, isoOpen := true, timer := some 0, phase := .isolate }).slot i = (s.slot i).resetting q 0 := by
    rw [State.modPru_slot_self, State.enter_slot_self]
    rfl
  have hret := State.assertReset_past (s := (s.enter i .resetting).modPru i fun p =>
      { p with sequence := q, isoOpen := true, timer := some 0, phase := .isolate }) (i := i) (by rw [hrec]; exact hh)
  refine ⟨((s.startReset i q).slot i).ad, ?_, fun hd => ?_⟩ <;> rw [State.startReset_noLead s i q hl]
  · rw [← hrec, ← State.pastAssert_slot]
    exact hret.slot
  · refine hret.done ?_
    rw [State.pastAssert_slot, hrec]
    exact SlotRec.pastAssert_ad.trans hd

/-! ## `drained` and `drainedNow` -/

/-- The record of a slot fenced with record `r`: what the end of the drain reads of it. -/
structure SlotRec.fencedWith (r w : SlotRec) : Prop where
  cs : w.cs = { r.cs with state := .fenced }
  pru : w.pru = r.pru
  ctf : w.ctf = { r.ctf with cls := SlotState.fenced.cls }
  policy : w.policy = r.policy

theorem SlotRec.fencedWith.pol {r w : SlotRec} (h : r.fencedWith w) : w.pol = r.pol := by
  unfold SlotRec.pol
  rw [h.policy]

/-- The record in ISOLATE is the one that `drained` describes. -/
theorem SlotRec.drained_resetting {r w : SlotRec} (h : r.fencedWith w) (a : AdRec) :
    r.drained { SlotRec.resetting { w with cs := (w.cs.drainPath w.pol).1 } (w.cs.drainPath w.pol).2 w.pol.isoLead with ad := a } := by
  rw [h.pol, h.cs]
  refine ⟨fun hn => ?_, fun hk hm => ?_, fun hk => ?_, ?_⟩
  · obtain ⟨hk, hm⟩ := hn
    simp only [CsRec.drainPath, SlotRec.resetting, if_neg hk, if_neg (Nat.not_le.2 hm), and_self]
  · simp only [CsRec.drainPath, SlotRec.resetting, if_neg hk, if_pos hm, and_self]
  · simp only [CsRec.drainPath, SlotRec.resetting, if_pos hk, and_self]
  · simp only [SlotRec.resetting, h.pru]

/-- What every sequence leaves past ASSERT: nothing tracked, in CUT. -/
theorem SlotRec.pastAssert_cut {r : SlotRec} (h : r.ctf.cls = .cut) :
    (∀ k, r.pastAssert.tt.entry k = .free) ∧ r.pastAssert.tt.hold = []
      ∧ r.pastAssert.ctf = { r.ctf with holdover := none, cls := .cut } ∧ r.pastAssert.policy = r.policy
      ∧ r.pastAssert.hm = r.hm := by
  unfold SlotRec.pastAssert
  dsimp only
  split
  · exact ⟨TtRec.freeAll_entry _, rfl, rfl, rfl, rfl⟩
  · exact ⟨TtRec.freeAll_entry _, rfl, rfl, rfl, rfl⟩
  · exact ⟨TtRec.freeAll_entry _, rfl, by rw [← h]; rfl, rfl, rfl⟩

theorem SlotRec.pastAssert_warm {r : SlotRec} (h : r.pru.sequence = .warm) :
    r.pastAssert.cs = r.cs ∧ r.pastAssert.pru = r.pru.inAssert r.pol.resetHold := by
  unfold SlotRec.pastAssert
  rw [PruRec.hold_warm _ h, h]
  exact ⟨rfl, rfl⟩

theorem SlotRec.pastAssert_coldDown {r : SlotRec} (h : r.pru.sequence = .coldDown) :
    r.pastAssert.cs = { r.cs with state := .bleeding }
      ∧ r.pastAssert.pru = { r.pru with
        isoOpen := true, asserted := true, power := false, bleed := true, rail := .down, rechecks := 0, lastReading := 0
        timer := some r.pol.bleedWait, phase := .bleedWait, rampDue := false } := by
  unfold SlotRec.pastAssert
  rw [h]
  exact ⟨rfl, rfl⟩

theorem SlotRec.pastAssert_isolate {r : SlotRec} (h : r.pru.sequence = .isolate) :
    r.pastAssert.cs = { r.cs with
        state := .isolated, kind := .none, target := .none, retryPending := false, restoreWanted := false }
      ∧ r.pastAssert.pru = { r.pru with
        asserted := true, timer := none, sequence := .idle, phase := .idle, rampDue := false } := by
  unfold SlotRec.pastAssert
  rw [h]
  exact ⟨rfl, rfl⟩

/-- The record past ASSERT is the one that `drainedNow` describes. -/
theorem SlotRec.drainedNow_pastAssert {r w : SlotRec} (h : r.fencedWith w) (a : AdRec) :
    r.drainedNow { (SlotRec.resetting { w with cs := (w.cs.drainPath w.pol).1 } (w.cs.drainPath w.pol).2 0).pastAssert with
      ad := a } := by
  intro _
  generalize hR : SlotRec.resetting { w with cs := (w.cs.drainPath w.pol).1 } (w.cs.drainPath w.pol).2 0 = R
  have hcs : R.cs = { (w.cs.drainPath w.pol).1 with state := .resetting } := by rw [← hR]; rfl
  have hpru : R.pru = { r.pru with
      sequence := (w.cs.drainPath w.pol).2, isoOpen := true, timer := some 0, phase := .isolate } := by
    rw [← hR, ← h.pru]
    rfl
  have hctf : R.ctf = { r.ctf with cls := .cut } := by
    rw [← hR]
    change { w.ctf with cls := SlotState.resetting.cls } = _
    rw [h.ctf]
    rfl
  have hpol : R.pol = r.pol := by
    rw [← h.pol, ← hR]
    rfl
  rw [h.pol, h.cs] at hcs hpru
  obtain ⟨h1, h2, h3, -, -⟩ := SlotRec.pastAssert_cut (r := R) (by rw [hctf])
  refine ⟨h1, h2, by rw [h3, hctf], fun hn hkind hhold => ?_, fun hn hkind => ?_, fun hk hm => ?_, fun hk => ?_⟩
  · obtain ⟨hk, hm⟩ := hn
    simp only [CsRec.drainPath, if_neg hk, if_neg (Nat.not_le.2 hm), hkind, if_true] at hcs hpru
    obtain ⟨k1, k2⟩ := SlotRec.pastAssert_warm (r := R) (by rw [hpru])
    rw [k1, k2, hcs, hpru, hpol]
    exact ⟨rfl, rfl⟩
  · obtain ⟨hk, hm⟩ := hn
    simp only [CsRec.drainPath, if_neg hk, if_neg (Nat.not_le.2 hm), hkind, reduceCtorEq, if_false] at hcs hpru
    obtain ⟨k1, k2⟩ := SlotRec.pastAssert_coldDown (r := R) (by rw [hpru])
    rw [k1, k2, hcs, hpru, hpol]
    exact ⟨rfl, rfl⟩
  · simp only [CsRec.drainPath, if_neg hk, if_pos hm] at hcs hpru
    obtain ⟨k1, k2⟩ := SlotRec.pastAssert_coldDown (r := R) (by rw [hpru])
    rw [k1, k2, hcs, hpru, hpol]
    exact ⟨rfl, rfl⟩
  · simp only [CsRec.drainPath, if_pos hk] at hcs hpru
    obtain ⟨k1, k2⟩ := SlotRec.pastAssert_isolate (r := R) (by rw [hpru])
    rw [k1, k2, hcs, hpru]
    exact ⟨rfl, rfl⟩

/-! ## The end of the drain of a fenced slot -/

/-- With a lead the slot waits in ISOLATE; with none it goes on past ASSERT. -/
theorem State.drainEnd_fenced {s : State} {i : Slot} {r : SlotRec} (h : r.fencedWith (s.slot i)) (hh : r.pol.resetHold ≠ 0) :
    ∃ (a : AdRec) (q : SlotRec), (s.drainEnd i).slot i = { q with ad := a }
      ∧ ((s.slot i).planDone → a.remaining = []) ∧ q.policy = (s.slot i).policy ∧ q.hm = (s.slot i).hm
      ∧ ((s.slot i).tt.hold = [] → q.tt.hold = [])
      ∧ (r.pol.isoLead ≠ 0 → ∀ a, r.drained { q with ad := a })
      ∧ (r.pol.isoLead = 0 → ∀ a, r.drainedNow { q with ad := a }) := by
  have hset : (s.setSlot i { s.slot i with cs := ((s.slot i).cs.drainPath (s.slot i).pol).1 }).slot i
      = { s.slot i with cs := ((s.slot i).cs.drainPath (s.slot i).pol).1 } := State.setSlot_slot_self _ _ _
  have hpol := h.pol
  by_cases hl : r.pol.isoLead = 0
  · obtain ⟨a, hslot, hdone⟩ := State.startReset_past
      (s := s.setSlot i { s.slot i with cs := ((s.slot i).cs.drainPath (s.slot i).pol).1 }) (i := i)
      ((s.slot i).cs.drainPath (s.slot i).pol).2 (by rw [hset]; exact (congrArg Policy.isoLead hpol).trans hl)
      (by rw [hset]; exact fun hz => hh ((congrArg Policy.resetHold hpol).symm.trans hz))
    rw [hset] at hslot hdone
    rw [State.drainEnd_path]
    obtain ⟨-, k2, -, k4, k5⟩ := SlotRec.pastAssert_cut (r := SlotRec.resetting
      { s.slot i with cs := ((s.slot i).cs.drainPath (s.slot i).pol).1 } ((s.slot i).cs.drainPath (s.slot i).pol).2 0) rfl
    exact ⟨a, _, hslot, hdone, k4, k5, fun _ => k2, fun hne => absurd hl hne, fun _ => SlotRec.drainedNow_pastAssert h⟩
  · have hslot := State.startReset_slot
      (s := s.setSlot i { s.slot i with cs := ((s.slot i).cs.drainPath (s.slot i).pol).1 }) (i := i)
      ((s.slot i).cs.drainPath (s.slot i).pol).2 (by rw [hset]; exact fun hz => hl ((congrArg Policy.isoLead hpol).symm.trans hz))
    rw [hset] at hslot
    rw [State.drainEnd_path]
    exact ⟨(s.slot i).ad, SlotRec.resetting { s.slot i with cs := ((s.slot i).cs.drainPath (s.slot i).pol).1 }
      ((s.slot i).cs.drainPath (s.slot i).pol).2 (s.slot i).pol.isoLead, hslot, id, rfl, rfl, id, fun _ => SlotRec.drained_resetting h, fun hz => absurd hz hl⟩

end Sys2Proof.Machine
end

section
/-! PROOFS. A fence and its drain on the slot's record. -/

namespace Sys2Proof.Machine

open Sys2Proof

/-! ## A fence for an alert flag that an acceptance finds set (R36, R43) -/

theorem mem_allTags (k : Tag) : k ∈ hostTags ++ [engineTag] := by
  revert k
  decide

/-- After a fence's work the STALE tags are those that were not FREE. -/
theorem TtRec.staleCount_cutOff (t : TtRec) : t.cutOff.staleCount = 0 ↔ ∀ k, t.entry k = .free := by
  have hone : ∀ k, (t.cutOff.entry k).isStale = true ↔ t.entry k ≠ .free := fun k => by
    rw [TtRec.cutOff_entry]
    cases t.entry k <;> simp [OrtEntry.toStale, OrtEntry.isStale]
  rw [TtRec.staleCount, List.countP_eq_zero]
  exact ⟨fun h k => by_contra fun hk => h k (mem_allTags k) ((hone k).2 hk), fun h k _ hk => (hone k).1 hk (h k)⟩

theorem State.cancelOp_planDone {s : State} {i : Slot} (h : (s.slot i).planDone) : ((s.cancelOp i).slot i).planDone := by
  have hd : ((s.seDrop i).slot i).planDone := by rw [State.seDrop_slot]; exact h
  unfold State.cancelOp
  dsimp only
  split
  · exact ((s.seDrop i).endEntry_returns i .overtaken 0).done hd
  · exact hd

theorem State.fenceCut_planDone {s : State} {i : Slot} (t : Trigger) (k : RecKind) (h : (s.slot i).planDone) :
    ((s.fenceCut i t k).slot i).planDone := by
  refine State.cancelOp_planDone ?_
  rw [State.fenceWork_slot]
  exact h

theorem State.slot_congr {s t : State} (h : t.slots = s.slots) (i : Slot) : t.slot i = s.slot i := by
  unfold State.slot
  rw [h]

/-- The slot before the drain of a fence. -/
theorem State.fence_before (s : State) (i : Slot) (t : Trigger) (k : RecKind) (f : Option Nat) :
    ∃ v : State, s.fence i t k f = v.startDrain i
      ∧ v.slot i = { (s.slot i).fencedBy t k with ad := ((s.fenceCut i t k).slot i).ad } := by
  obtain ⟨hslots, -⟩ := (s.fenceCut i t k).fenceRaises_slots i t k (s.slot i).tt.abortCount f
  have hslot : ((s.fenceCut i t k).fenceRaises i t k (s.slot i).tt.abortCount f).slot i = (s.fenceCut i t k).slot i :=
    State.slot_congr hslots i
  exact ⟨_, s.fence_eq i t k f, hslot.trans (s.fenceCut_slot i t k)⟩

/-- The slot fenced, with the drain running. -/
theorem State.fence_waits {s : State} {i : Slot} (t : Trigger) (k : RecKind) (f : Option Nat)
    (hd : (s.slot i).pol.drain ≠ 0) (hl : ∃ l, (s.slot i).tt.entry l ≠ .free) (hp : (s.slot i).planDone) :
    ∃ a : AdRec, (s.fence i t k f).slot i = { (s.slot i).fencedBy t k with
        cs := { ((s.slot i).fencedBy t k).cs with drain := some (s.slot i).pol.drain }, ad := a }
      ∧ ((s.fence i t k f).slot i).planDone := by
  obtain ⟨v, hv, hslot⟩ := s.fence_before i t k f
  have hstale : (v.slot i).tt.staleCount ≠ 0 := by
    rw [hslot]
    obtain ⟨l, hl⟩ := hl
    exact fun hz => hl ((TtRec.staleCount_cutOff _).1 hz l)
  have hdrain : (v.pol i).drain = (s.slot i).pol.drain := by
    rw [State.pol, hslot]
    rfl
  have hstart : v.startDrain i = v.modCs i fun c => { c with drain := some (s.slot i).pol.drain } := by
    rw [← hdrain]
    exact if_neg (not_or.2 ⟨by rw [hdrain]; exact hd, hstale⟩)
  have hdone : ((s.fenceCut i t k).slot i).ad.remaining = [] := State.fenceCut_planDone t k hp
  refine ⟨((s.fenceCut i t k).slot i).ad, ?_, ?_⟩ <;> rw [hv, hstart, State.modCs, State.modSlot_slot_self, hslot]
  exact hdone

/-- The slot fenced with nothing to drain. -/
theorem State.fence_ends {s : State} {i : Slot} (t : Trigger) (k : RecKind) (f : Option Nat)
    (hd : (s.slot i).pol.drain = 0 ∨ ∀ l, (s.slot i).tt.entry l = .free) :
    ∃ v : State, s.fence i t k f = v.drainEnd i
      ∧ v.slot i = { (s.slot i).fencedBy t k with ad := ((s.fenceCut i t k).slot i).ad } := by
  obtain ⟨v, hv, hslot⟩ := s.fence_before i t k f
  refine ⟨v, ?_, hslot⟩
  have hdrain : (v.pol i).drain = (s.slot i).pol.drain := by
    rw [State.pol, hslot]
    rfl
  rw [hv]
  refine if_pos (hd.imp (fun h => hdrain.trans h) fun h => ?_)
  rw [hslot]
  exact (TtRec.staleCount_cutOff _).2 h

end Sys2Proof.Machine
end

section
/-! PROOFS. A LOAD_POLICY returned DONE, with the fence of a slot on alert. -/

namespace Sys2Proof.Machine

open Sys2Proof

/-! ## A LOAD_POLICY returned DONE (R155) -/

/-- The alert flag that stays set over the acceptance fences the slot, and is cleared. -/
theorem State.acceptPolicy_fences {s : State} {i : Slot} {p : Policy} (hh : (s.slot i).tt.hold = [])
    (ha : (s.slot i).hm.alert = true) (hf : p.fenceT ≤ (s.slot i).hm.score) (hc : p.autoContain = true)
    (hst : (s.slot i).cs.state = .online ∨ (s.slot i).cs.state = .held) :
    ∃ Y : State, Y.slot i = { (s.slot i).accepting p with hm := { ((s.slot i).accepting p).hm with alert := false } }
      ∧ s.acceptPolicy i p = (Y.fence i .score p.autoKind none).promote i := by
  obtain ⟨q, hq⟩ := State.acceptPolicy_unheld p hh
  have hslot : ({ s.setSlot i ((s.slot i).accepting p) with iq := q }).slot i = (s.slot i).accepting p :=
    State.setSlot_slot_self s i _
  rw [hq]
  generalize ({ s.setSlot i ((s.slot i).accepting p) with iq := q } : State) = X at hslot ⊢
  have halert : X.alignAlert i = X := by
    rw [State.alignAlert_eq (p := p) (by rw [hslot]; rfl), hslot]
    refine State.setSlot_of_eq ?_
    rw [hslot]
    change ({ (s.slot i).accepting p with
      hm := { ((s.slot i).accepting p).hm with alert := (s.slot i).hm.alert && decide (p.fenceT ≤ (s.slot i).hm.score) } } : SlotRec)
      = (s.slot i).accepting p
    rw [decide_eq_true hf, Bool.and_true]
    rfl
  refine ⟨X.modHm i fun h => { h with alert := false }, by rw [State.modHm, State.modSlot_slot_self, hslot], ?_⟩
  unfold State.alertAtAcceptance
  dsimp only
  rw [halert, if_pos (by rw [hslot]; exact ⟨ha, hc, hst⟩)]

/-- The return of the last entry with the end of the event. -/
theorem State.endEntry_last {u : State} {i : Slot} (o : ActOutcome) (n : Nat) (h : (u.slot i).planDone) :
    Returns i u (((u.endEntry i o n).settle i).align) :=
  (u.endEntry_returns i o n).trans (Returns.close (Returns.refl i _) ((u.endEntry_returns i o n).done h))

theorem State.acceptable.sound {s : State} {i : Slot} {b : List Byte} {p : Policy} (h : s.acceptable i b p) : p.sound := h.2.1

theorem Policy.sound.resetHold {p : Policy} (h : p.sound) : p.resetHold ≠ 0 := by
  obtain ⟨-, -, -, -, -, -, -, -, -, -, -, -, -, -, -, -, -, h, -⟩ := h
  have := h p.resetHold (by simp)
  omega

theorem Policy.sound.maxAttempts {p : Policy} (h : p.sound) : p.maxAttempts ≤ 7 := h.1.2

/-- READ_SLOT's result in the words of the statement. -/
theorem SlotRec.packed_eq {r : SlotRec} (hs : r.hm.score ≤ 1023) (ha : r.cs.attempts ≤ 7) :
    r.packed = r.hm.score + 2 ^ 12 * r.cs.attempts
      + 2 ^ 16 * ((List.finRange 32).countP fun k => decide (k ≠ 31) && (r.tt.entry k).isLive)
      + 2 ^ 24 * min 31 ((List.finRange 32).countP fun k => (r.tt.entry k).isStale) := by
  have htags : List.finRange 32 = hostTags ++ [engineTag] := by decide
  have hlive : ((List.finRange 32).countP fun k => decide (k ≠ 31) && (r.tt.entry k).isLive) = r.tt.liveHost := by
    rw [htags, List.countP_append]
    have hone : [engineTag].countP (fun k => decide (k ≠ 31) && (r.tt.entry k).isLive) = 0 := by
      simp [engineTag]
    rw [hone, Nat.add_zero]
    refine List.countP_congr fun k hk => ?_
    have hne : k ≠ 31 := by
      rintro rfl
      revert hk
      decide
    simp [hne]
  rw [hlive, htags]
  unfold SlotRec.packed TtRec.staleCount
  omega

/-- The state in which an accepted record's LOAD_POLICY is returned: only the slot's record and the queue have changed. -/
theorem State.acceptPolicy_plan {s : State} {i : Slot} {p : Policy} {e : ActEntry} {rest : List ActEntry} {cb : ControlBlock}
    (h : s.holdsPlan i e rest cb) (hh : (s.slot i).tt.hold = []) (ha : (s.slot i).hm.alert = false) :
    let u := s.acceptPolicy i p
    u.slot i = (s.slot i).accepting p ∧ u.holdsPlan i e rest cb ∧ u.out = s.out ∧ u.ri = s.ri ∧ u.tb = s.tb := by
  obtain ⟨q, hq⟩ := State.acceptPolicy_calm p hh ha
  have hslot : (s.acceptPolicy i p).slot i = (s.slot i).accepting p := by
    rw [hq]
    exact State.setSlot_slot_self s i _
  refine ⟨hslot, ?_, by rw [hq]; rfl, by rw [hq]; rfl, by rw [hq]; rfl⟩
  obtain ⟨h1, h2, h3, h4, h5⟩ := h
  refine ⟨by rw [hslot]; exact h1, by rw [hslot]; exact h2, ?_, h4, ?_⟩
  · rw [hq]
    exact h3
  · rw [hq]
    exact h5

theorem State.planEnded.before {r s t : State} {i : Slot} {e : ActEntry} {rest : List ActEntry} {cb : ControlBlock}
    {o : ActOutcome} {st : SlotState} {n : Nat} (h : s.planEnded t [] i e rest cb o st n) (hout : s.out = r.out)
    (hri : s.ri = r.ri) (htb : s.tb = r.tb) : r.planEnded t [] i e rest cb o st n := by
  unfold State.planEnded State.inFlightBut at *
  rw [hout, hri, State.returnOf_congr hri htb, List.flatMap_congr fun x _ => State.returnOf_congr hri htb _ _ _ _ _ _] at h
  exact h

/-- An acceptance that fences the slot, with the drain running. -/
theorem State.loadPolicy_waits {s : State} {i : Slot} {p : Policy} (hh : (s.slot i).tt.hold = [])
    (ha : (s.slot i).hm.alert = true) (hf : p.fenceT ≤ (s.slot i).hm.score) (hc : p.autoContain = true)
    (hst : (s.slot i).cs.state = .online ∨ (s.slot i).cs.state = .held) (hd : p.drain ≠ 0)
    (hl : ∃ k, (s.slot i).tt.entry k ≠ .free) (hp : (s.slot i).planDone) :
    let t := (((s.acceptPolicy i p).endEntry i .done 0).settle i).align
    (t.slot i).policy = some p ∧ (t.slot i).hm.alert = false ∧ (t.slot i).hm.score = (s.slot i).hm.score
      ∧ (t.slot i).cs = { (s.slot i).cs with
        state := .fenced, trigger := .score, kind := p.autoKind, target := .none, retryPending := false
        attempts := min p.maxAttempts (s.slot i).cs.attempts, drain := some p.drain } := by
  obtain ⟨Y, hY, hacc⟩ := State.acceptPolicy_fences hh ha hf hc hst
  obtain ⟨a, hslot, hdone⟩ := State.fence_waits (s := Y) (i := i) .score p.autoKind none (by rw [hY]; exact hd)
    (by rw [hY]; exact hl) (by rw [hY]; exact hp)
  rw [hacc, State.promote_still (Or.inl (by rw [hslot]; rfl))]
  have hrec := (State.endEntry_last .done 0 hdone).slot
  rw [hslot, hY] at hrec
  dsimp only
  rw [hrec]
  exact ⟨rfl, rfl, rfl, rfl⟩

/-- An acceptance that fences the slot with nothing to drain. -/
theorem State.loadPolicy_drains {s : State} {i : Slot} {p : Policy} (hh : (s.slot i).tt.hold = [])
    (ha : (s.slot i).hm.alert = true) (hf : p.fenceT ≤ (s.slot i).hm.score) (hc : p.autoContain = true)
    (hst : (s.slot i).cs.state = .online ∨ (s.slot i).cs.state = .held)
    (hd : p.drain = 0 ∨ ∀ k, (s.slot i).tt.entry k = .free) (hp : (s.slot i).planDone) (hsound : p.sound) :
    let t := (((s.acceptPolicy i p).endEntry i .done 0).settle i).align
    let f : SlotRec := { s.slot i with
      policy := some p
      cs := { (s.slot i).cs with
        trigger := .score, kind := p.autoKind, target := .none, retryPending := false
        attempts := min p.maxAttempts (s.slot i).cs.attempts } }
    (t.slot i).policy = some p ∧ (t.slot i).hm.alert = false ∧ (p.isoLead ≠ 0 → f.drained (t.slot i))
      ∧ (p.isoLead = 0 → f.drainedNow (t.slot i)) := by
  obtain ⟨Y, hY, hacc⟩ := State.acceptPolicy_fences hh ha hf hc hst
  obtain ⟨v, hv, hvslot⟩ := State.fence_ends (s := Y) (i := i) .score p.autoKind none (by rw [hY]; exact hd)
  have hvdone : ((Y.fenceCut i .score p.autoKind).slot i).ad.remaining = [] :=
    State.fenceCut_planDone _ _ (by rw [hY]; exact hp)
  rw [hY] at hvslot
  dsimp only
  generalize hfr : ({ s.slot i with
      policy := some p
      cs := { (s.slot i).cs with
        trigger := .score, kind := p.autoKind, target := .none, retryPending := false
        attempts := min p.maxAttempts (s.slot i).cs.attempts } } : SlotRec) = f
  have hwith : f.fencedWith (v.slot i) := by
    rw [hvslot, ← hfr]
    exact ⟨rfl, rfl, rfl, rfl⟩
  have hpol : f.pol = p := by rw [← hfr]; rfl
  obtain ⟨a, q, hslot, hdone, hqp, hqh, hqt, hlead, hnow⟩ := State.drainEnd_fenced hwith (by rw [hpol]; exact hsound.resetHold)
  have hq : q.tt.hold = [] := hqt (by rw [hvslot]; rfl)
  rw [hacc, hv, State.promote_still (Or.inl (by rw [hslot]; exact hq))]
  have hrec := (State.endEntry_last (u := v.drainEnd i) .done 0 (by
    rw [hslot]
    exact hdone (by rw [hvslot]; exact hvdone))).slot
  rw [hslot] at hrec
  rw [hpol] at hlead hnow
  rw [hrec]
  refine ⟨?_, ?_, fun h => hlead h _, fun h => hnow h _⟩
  · exact hqp.trans (by rw [hvslot]; rfl)
  · exact (congrArg HmRec.alert hqh).trans (by rw [hvslot]; rfl)

end Sys2Proof.Machine
end

section
/-! PROOFS. A LOAD_POLICY read that ends by the check. -/

namespace Sys2Proof.Machine

open Sys2Proof

/-- Settles O46: the outcome by the check, and for DONE the plan's next entry on the record just accepted. -/
theorem loadPolicyReadEndsByTheCheck : Obligations.LoadPolicyReadEndsByTheCheck := by
  intro s i ref e rest cb r live stale hold hact href
  have hfail : ∀ (o : ActOutcome) (c : Instr), o ≠ .done → exec c s = .next (((s.endEntry i o 0).settle i).align) →
      ∃ t, exec c s = .next t ∧ s.planEnded t [] i e rest cb o r.cs.state 0 ∧ { t.slot i with ad := r.ad } = r :=
    fun o c ho hc => ⟨_, hc, State.endEntry_fails hold ho⟩
  refine ⟨fun id res hid => exec_loadPolicyRead_other res href hid, fun hd => ?_, fun c hc => ?_, fun b hb => ?_⟩
  · rw [exec_loadPolicyDeadline href, if_neg (Nat.not_lt.2 hd)]
  · rcases hc with rfl | rfl | ⟨b, hb, rfl⟩ | ⟨rfl, hd⟩
    · exact hfail .memoryError _ (by decide) (exec_loadPolicyRead _ href)
    · exact hfail .memoryError _ (by decide) (exec_loadPolicyRead _ href)
    · refine hfail .memoryError _ (by decide) ?_
      rw [exec_loadPolicyRead _ href, ReadResult.bytes_short hb]
      rfl
    · refine hfail .memoryError _ (by decide) ?_
      rw [exec_loadPolicyDeadline href, if_pos hd]
      rfl
  · have hexec := exec_loadPolicyRead (.data b) href
    rw [ReadResult.bytes_of_length hb] at hexec
    have hdone : ∀ p, r.cs.state.recovery = false → s.acceptable i b p →
        exec (.loadPolicyReadDone i ref.id (.data b)) s
          = .next ((((s.acceptPolicy i p).endEntry i .done 0).settle i).align) := fun p hrec hacc => by
      rw [hexec, State.policyReadEnds_accepted hrec hacc]
    refine ⟨fun hrec => ?_, fun hrec hno => ?_, fun p hrec hacc hh ha hf hc hst hd hl hrest => ?_,
      fun p hrec hacc hh ha hf hc hst hd hrest => ?_, fun p hrec hacc hh ha => ?_⟩
    · rw [State.policyReadEnds_refused hrec] at hexec
      exact hfail .refused _ (by decide) hexec
    · rw [State.policyReadEnds_invalid hrec hno] at hexec
      exact hfail .policyInvalid _ (by decide) hexec
    · exact ⟨_, hdone p hrec hacc, State.loadPolicy_waits hh ha hf hc hst hd hl (hold.remaining.trans hrest)⟩
    · exact ⟨_, hdone p hrec hacc, State.loadPolicy_drains hh ha hf hc hst hd (hold.remaining.trans hrest) hacc.sound⟩
    · obtain ⟨hslot, huold, huout, huri, hutb⟩ := State.acceptPolicy_plan (p := p) hold hh ha
      have hmax : p.maxAttempts ≤ 7 := Policy.sound.maxAttempts hacc.sound
      have hret : ∀ y o st n, (s.acceptPolicy i p).returnOf cb i y o st n = s.returnOf cb i y o st n :=
        fun y o st n => State.returnOf_congr huri hutb cb i y o st n
      have hfl : ∀ es, (s.acceptPolicy i p).inFlightBut es = s.inFlightBut es := fun es => by
        unfold State.inFlightBut
        rw [huri]
      have hstate : ((s.acceptPolicy i p).slot i).cs.state = r.cs.state := by rw [hslot]; rfl
      refine ⟨_, hdone p hrec hacc, fun hharm => ?_, fun hnil => ?_, fun x more hrest => ⟨fun hx => ?_, fun hx hxa hxb hm hs => ?_,
        fun hx hxa hxb => ?_⟩⟩
      · have hk := State.endEntry_harmlessPlan (s := s.acceptPolicy i p) (i := i) .done 0 (by rw [huold.remaining]; exact hharm)
        unfold KeptBut at hk
        rw [hslot] at hk
        rw [hk]
        exact ⟨rfl, rfl, rfl, rfl, rfl, rfl⟩
      · have hend := (s.acceptPolicy i p).endEntry_planEnded i e rest cb .done 0 huold fun _ => hnil
        rw [State.settle_settled (by
          obtain ⟨-, -, -, h4⟩ := hend
          exact fun _ => by rw [h4])]
        rw [hstate] at hend
        exact (hend.before huout huri hutb).align
      · subst hrest
        obtain ⟨h1, h2, h3⟩ := State.plan_unknown huold hx
        rw [hstate, huout, hret, hret, List.flatMap_congr fun y _ => hret y _ _ _] at h1
        rw [hfl] at h3
        obtain ⟨k1, k2, -, k4⟩ := (((s.acceptPolicy i p).endEntry i .done 0).settle i).align_arrives i
        exact ⟨h1.trans k1, k4.trans h2, k2.trans h3⟩
      · subst hm
        subst hrest
        obtain ⟨h1, h2, h3⟩ := State.plan_readSlot huold hx hxa hxb
        have hpack : ((s.acceptPolicy i p).slot i).packed
            = r.hm.score + 2 ^ 12 * min p.maxAttempts r.cs.attempts + 2 ^ 16 * live + 2 ^ 24 * min 31 stale := by
          rw [hslot]
          exact SlotRec.packed_eq (r := (s.slot i).accepting p) hs ((Nat.min_le_left _ _).trans hmax)
        rw [hstate, huout, hret, hret, hpack] at h1
        rw [hfl] at h3
        obtain ⟨k1, k2, -, k4⟩ := (((s.acceptPolicy i p).endEntry i .done 0).settle i).align_arrives i
        exact ⟨h1.trans k1, k4.trans h2, k2.trans h3⟩
      · subst hrest
        obtain ⟨h1, h2, h3, h4⟩ := State.plan_railSample (p := p) huold hx hxa hxb (by rw [hslot]; rfl)
        rw [hstate, huout, hret] at h1
        rw [hfl] at h4
        obtain ⟨k1, k2, -, k4⟩ := (((s.acceptPolicy i p).endEntry i .done 0).settle i).align_arrives i
        refine ⟨h1.trans k1, k4.trans (h2.trans ?_), ?_, k2.trans h4⟩
        · rw [hslot]
          rfl
        · rw [(((s.acceptPolicy i p).endEntry i .done 0).settle i).align_ring.rm]
          exact h3

end Sys2Proof.Machine
end

section
/-! PROOFS. What an operation on one slot leaves to the others: their operations in SE and their entries in flight. -/

namespace Sys2Proof.Machine

open Sys2Proof

/-! ## What an operation on one slot leaves to the others: their operations in SE and their entries in flight -/

/-- The record holds an entry at this index, as the current one or as one that remains. -/
def AdRec.holds (a : AdRec) (n : Nat) : Prop := ∃ y ∈ a.current.toList ++ a.remaining, y.index = n

/-- RI's in-flight record of an index. -/
def State.flight (s : State) (n : Nat) : Option InFlight := s.ri.inFlight.find? fun g => decide (g.index = n)

/-- From `s` to `t` slot `i` has taken up no new entry, SE holds no new operation of another slot, and the entries returned
are ones that slot `i` held. -/
structure Beside (i : Slot) (s t : State) : Prop where
  held : ∀ n, (t.slot i).ad.holds n → (s.slot i).ad.holds n
  ops : ∀ op ∈ t.se.ops, op ∈ s.se.ops ∨ op.slot = i
  flies : ∀ g ∈ t.ri.inFlight, g ∈ s.ri.inFlight
  flight : ∀ n, ¬ (s.slot i).ad.holds n → t.flight n = s.flight n

theorem Beside.still {i : Slot} {s t : State} (had : (t.slot i).ad = (s.slot i).ad) (hse : t.se = s.se)
    (hin : t.ri.inFlight = s.ri.inFlight) : Beside i s t :=
  ⟨fun n h => had ▸ h, fun op h => Or.inl (hse ▸ h), fun g h => hin ▸ h, fun n _ => by unfold State.flight; rw [hin]⟩

theorem Beside.refl (i : Slot) (s : State) : Beside i s s := Beside.still rfl rfl rfl

theorem Beside.trans {i : Slot} {s t u : State} (h : Beside i s t) (k : Beside i t u) : Beside i s u where
  held n hn := h.held n (k.held n hn)
  ops op ho := (k.ops op ho).elim (h.ops op) Or.inr
  flies g hg := h.flies g (k.flies g hg)
  flight n hn := (k.flight n fun hk => hn (h.held n hk)).trans (h.flight n hn)

/-! ### The primitive updates -/

theorem Beside.modSlot (s : State) (i : Slot) (f : SlotRec → SlotRec) (h : (f (s.slot i)).ad = (s.slot i).ad) :
    Beside i s (s.modSlot i f) :=
  Beside.still (by rw [State.modSlot_slot_self]; exact h) rfl rfl

theorem Beside.emits (i : Slot) (s : State) (os : List Output) : Beside i s (s.emits os) := Beside.still rfl rfl rfl

theorem Beside.raise (s : State) (i : Slot) (k : IncKind) (a b : Nat) (d : BitVec 64) : Beside i s (s.raise i k a b d) :=
  Beside.still rfl rfl rfl

theorem Beside.setRm (i : Slot) (s : State) (m : RmRec) : Beside i s (s.setRm m) := Beside.still rfl rfl rfl

theorem Beside.issueRead (i : Slot) (s : State) (w : Reader) (a : Addr) (n : Nat) : Beside i s (s.issueRead w a n) :=
  Beside.still rfl rfl rfl

theorem Beside.se {i : Slot} {s : State} {e : SeRec} (h : ∀ op ∈ e.ops, op ∈ s.se.ops ∨ op.slot = i) :
    Beside i s { s with se := e } :=
  ⟨fun _ h => h, h, fun _ h => h, fun _ _ => rfl⟩

theorem State.setAd_beside {s : State} {i : Slot} {a : AdRec} (h : ∀ n, a.holds n → (s.slot i).ad.holds n) :
    Beside i s (s.setAd i a) :=
  ⟨fun n hn => h n (by rwa [State.setAd, State.modSlot_slot_self] at hn), fun _ h => Or.inl h, fun _ h => h, fun _ _ => rfl⟩

theorem State.enter_beside (s : State) (i : Slot) (st : SlotState) : Beside i s (s.enter i st) :=
  Beside.modSlot s i _ rfl

theorem State.modCs_beside (s : State) (i : Slot) (f : CsRec → CsRec) : Beside i s (s.modCs i f) := Beside.modSlot s i _ rfl

theorem State.modSense_beside (s : State) (i : Slot) (f : SenseRec → SenseRec) : Beside i s (s.modSense i f) :=
  Beside.modSlot s i _ rfl

theorem State.setTrigger_beside (s : State) (i : Slot) (t : Trigger) : Beside i s (s.setTrigger i t) :=
  Beside.modSlot s i _ rfl

theorem State.modPru_beside (s : State) (i : Slot) (f : PruRec → PruRec) : Beside i s (s.modPru i f) :=
  (Beside.modSlot s i (fun r => { r with pru := f r.pru }) rfl).trans (Beside.still rfl rfl rfl)

theorem State.resetAssertion_beside (s : State) (i : Slot) : Beside i s (s.resetAssertion i) :=
  Beside.still (by rw [State.resetAssertion_slot]; rfl) rfl rfl

theorem State.fenceWork_beside (s : State) (i : Slot) : Beside i s (s.fenceWork i) := by
  unfold State.fenceWork
  exact Beside.still (by simp; rfl) rfl rfl

theorem State.presenceWork_beside (s : State) (i : Slot) : Beside i s (s.presenceWork i) := by
  unfold State.presenceWork
  exact Beside.still (by simp; rfl) rfl rfl

theorem promoteLoop_ad (i : Slot) (n : Nat) (r : SlotRec) : (promoteLoop i n r).1.ad = r.ad := by
  induction n generalizing r with
  | zero => rfl
  | succ n ih =>
    unfold promoteLoop
    split
    · exact ih _
    · rfl

theorem State.promote_beside (s : State) (i : Slot) : Beside i s (s.promote i) :=
  Beside.still (by simp [State.promote, promoteLoop_ad]) rfl rfl

/-! ### Returns -/

theorem State.giveBack_beside {s : State} {i : Slot} {e : ActEntry} (o : ActOutcome) (n : Nat)
    (h : (s.slot i).ad.holds e.index) : Beside i s (s.giveBack i e o n) := by
  unfold State.giveBack
  split
  · refine ⟨fun _ h => h, fun _ h => Or.inl h, fun g hg => (List.mem_filter.1 hg).1, fun m hm => ?_⟩
    exact find_inFlightBut _ _ _ fun he => hm (he ▸ h)
  · exact Beside.refl i s

theorem State.skipAll_beside {s : State} {i : Slot} {es : List ActEntry} (h : ∀ e ∈ es, (s.slot i).ad.holds e.index) :
    Beside i s (s.skipAll i es) := by
  induction es generalizing s with
  | nil => exact Beside.refl i s
  | cons e es ih =>
    obtain ⟨he, hes⟩ := List.forall_mem_cons.1 h
    have hslot : (s.giveBack i e .skipped 0).slot i = s.slot i :=
      congrArg (fun l => State.slot { s with slots := l } i) (s.giveBack_ring i e .skipped 0).slots
    exact (State.giveBack_beside .skipped 0 he).trans (ih fun x hx => by rw [hslot]; exact hes x hx)

end Sys2Proof.Machine
end

section
/-! PROOFS. The ends of entries, the engine and the paths of a slot keep beside the other slots. -/

namespace Sys2Proof.Machine

open Sys2Proof

/-! ### The end of an entry -/

theorem AdRec.holds_current {a : AdRec} {e : ActEntry} (h : a.current = some e) : a.holds e.index :=
  ⟨e, by simp [h], rfl⟩

theorem AdRec.holds_remaining {a : AdRec} {e : ActEntry} (h : e ∈ a.remaining) : a.holds e.index :=
  ⟨e, List.mem_append_right _ h, rfl⟩

/-- A record whose entries are among those of another. -/
theorem AdRec.holds_mono {a b : AdRec} (h : ∀ y ∈ b.current.toList ++ b.remaining, y ∈ a.current.toList ++ a.remaining)
    (n : Nat) (hn : b.holds n) : a.holds n := by
  obtain ⟨y, hy, hyn⟩ := hn
  exact ⟨y, h y hy, hyn⟩

theorem State.giveBack_slot (s : State) (i j : Slot) (e : ActEntry) (o : ActOutcome) (n : Nat) :
    (s.giveBack i e o n).slot j = s.slot j :=
  congrArg (fun l => State.slot { s with slots := l } j) (s.giveBack_ring i e o n).slots

theorem State.skipAll_slot (s : State) (i j : Slot) (es : List ActEntry) : (s.skipAll i es).slot j = s.slot j := by
  induction es generalizing s with
  | nil => rfl
  | cons e es ih => exact (ih (s.giveBack i e .skipped 0)).trans (s.giveBack_slot i j e .skipped 0)

theorem State.skipRemaining_beside (s : State) (i : Slot) : Beside i s (s.skipAll i (s.slot i).ad.remaining) :=
  State.skipAll_beside fun _ => AdRec.holds_remaining

theorem State.endEntry_beside (s : State) (i : Slot) (o : ActOutcome) (n : Nat) : Beside i s (s.endEntry i o n) := by
  unfold State.endEntry
  dsimp only
  split
  · exact Beside.refl i s
  next e he =>
    have hback := State.giveBack_beside (s := s) o n (AdRec.holds_current he)
    have hslot := s.giveBack_slot i i e o n
    split
    · refine hback.trans (State.setAd_beside (AdRec.holds_mono fun y hy => ?_))
      rw [hslot]
      exact List.mem_append_right _ hy
    · have hskip := (s.giveBack i e o n).skipRemaining_beside i
      rw [hslot] at hskip
      exact hback.trans (hskip.trans (State.setAd_beside (AdRec.holds_mono fun y hy => by simp [AdRec.free] at hy)))

theorem State.onEntry_beside (s : State) (i : Slot) (st : SlotState) (n : Nat) : Beside i s (s.onEntry i st n) := by
  unfold State.onEntry
  split
  · exact Beside.refl _ _
  · split
    · exact Beside.refl _ _
    · exact State.endEntry_beside _ _ _ _

/-- The remaining entries are skipped and the current one stays (R158, R161). -/
theorem State.skipKeeping_beside (s : State) (i : Slot) (b : Bool) :
    Beside i s ((s.skipAll i (s.slot i).ad.remaining).setAd i { (s.slot i).ad with cardRemoved := b, remaining := [] }) := by
  refine (s.skipRemaining_beside i).trans (State.setAd_beside (AdRec.holds_mono fun y hy => ?_))
  rw [State.skipAll_slot]
  exact List.mem_append_left _ (by simpa using hy)

theorem State.loseCard_beside (s : State) (i : Slot) : Beside i s (s.loseCard i) := by
  unfold State.loseCard
  dsimp only
  split
  · exact s.skipKeeping_beside i true
  · exact State.endEntry_beside _ _ _ _

/-! ### The engine -/

theorem State.mem_seRequest_ops {s : State} {op q : SeOp} (h : q ∈ (s.seRequest op).se.ops) : q ∈ s.se.ops ∨ q = op := by
  have hcount : 0 < s.se.ops.count q + if op = q then 1 else 0 := by
    rw [← State.seRequest_ops_count]
    exact List.count_pos_iff.2 h
  by_cases hq : op = q
  · exact Or.inr hq.symm
  · rw [if_neg hq] at hcount
    exact Or.inl (List.count_pos_iff.1 hcount)

theorem State.seRequest_beside (s : State) (op : SeOp) : Beside op.slot s (s.seRequest op) := by
  have hri : (s.seRequest op).ri = s.ri := by
    unfold State.seRequest
    split <;> rfl
  have hslot : (s.seRequest op).slot op.slot = s.slot op.slot := by rw [State.slot, (s.seRequest_slots op).1]; rfl
  exact ⟨fun n hn => by rwa [hslot] at hn,
    fun q hq => (State.mem_seRequest_ops hq).imp_right fun h => congrArg SeOp.slot h,
    fun g hg => by rwa [hri] at hg, fun n _ => by rw [State.flight, hri]; rfl⟩

theorem State.seDrop_ri (s : State) (i : Slot) : (s.seDrop i).ri = s.ri := by
  have hnext : ∀ u : State, u.seNext.ri = u.ri := fun u => by
    unfold State.seNext
    split <;> rfl
  unfold State.seDrop
  dsimp only
  split
  · exact hnext _
  · rfl

/-- SE holds no operation that it did not hold before, and none of the slot whose operation is dropped (R116). -/
theorem State.mem_seDrop_ops {s : State} {i : Slot} {op : SeOp} (h : op ∈ (s.seDrop i).se.ops) :
    op ∈ s.se.ops ∧ op.slot ≠ i := by
  rw [State.seDrop_ops] at h
  simpa using h

theorem State.seDrop_beside (s : State) (i : Slot) : Beside i s (s.seDrop i) :=
  ⟨fun n hn => by rwa [State.seDrop_slot] at hn, fun op h => Or.inl (State.mem_seDrop_ops h).1,
    fun g hg => by rwa [State.seDrop_ri] at hg, fun n _ => by rw [State.flight, State.seDrop_ri]; rfl⟩

theorem State.cancelOp_beside (s : State) (i : Slot) : Beside i s (s.cancelOp i) := by
  unfold State.cancelOp
  dsimp only
  split
  · exact (s.seDrop_beside i).trans (State.endEntry_beside _ _ _ _)
  · exact s.seDrop_beside i

/-! ### Paths of a slot -/

theorem State.powerOffNow_beside (s : State) (i : Slot) : Beside i s (s.powerOffNow i) :=
  (s.modPru_beside i _).trans ((State.resetAssertion_beside _ _).trans (State.enter_beside _ _ _))

theorem State.shutdown_beside (s : State) (i : Slot) : Beside i s (s.shutdown i) :=
  (s.modPru_beside i _).trans (State.powerOffNow_beside _ _)

theorem State.failAttempt_beside (s : State) (i : Slot) (c n : Nat) : Beside i s (s.failAttempt i c n) :=
  (Beside.raise s i _ _ _ _).trans
    ((State.modCs_beside _ _ _).trans ((State.cancelOp_beside _ _).trans (State.shutdown_beside _ _)))

theorem State.powerUp_beside (s : State) (i : Slot) : Beside i s (s.powerUp i) := by
  unfold State.powerUp
  dsimp only
  split
  · exact (s.enter_beside i _).trans ((State.modPru_beside _ _ _).trans
      ((Beside.raise _ i _ _ _ _).trans (State.failAttempt_beside _ _ _ _)))
  · exact (s.enter_beside i _).trans (State.modPru_beside _ _ _)

theorem State.reconnect_beside (s : State) (i : Slot) : Beside i s (s.reconnect i) := by
  unfold State.reconnect
  dsimp only
  split
  · exact (s.modPru_beside i _).trans ((State.modPru_beside _ i _).trans (State.enter_beside _ _ _))
  · exact s.modPru_beside i _

theorem State.enterIsolated_beside (s : State) (i : Slot) : Beside i s (s.enterIsolated i) :=
  (s.enter_beside i _).trans
    ((State.modCs_beside _ _ _).trans ((Beside.raise _ i _ _ _ _).trans (State.onEntry_beside _ _ _ _)))

theorem State.assertDone_beside (s : State) (i : Slot) : Beside i s (s.assertDone i) := by
  unfold State.assertDone
  split
  · exact s.reconnect_beside i
  · exact (s.modPru_beside i _).trans (State.enterIsolated_beside _ _)
  · exact s.powerOffNow_beside i
  · exact Beside.refl _ _

theorem State.assertReset_beside (s : State) (i : Slot) : Beside i s (s.assertReset i) := by
  unfold State.assertReset
  dsimp only
  have h := (s.modPru_beside i fun p =>
    { p with asserted := true, timer := some ((s.slot i).pru.hold (s.pol i).resetHold), phase := .assert }).trans
      (State.resetAssertion_beside _ i)
  split
  · exact h.trans (State.assertDone_beside _ _)
  · exact h

theorem State.startReset_beside (s : State) (i : Slot) (q : Sequence) : Beside i s (s.startReset i q) := by
  unfold State.startReset
  dsimp only
  split
  · exact (s.enter_beside i _).trans ((State.modPru_beside _ _ _).trans (State.assertReset_beside _ _))
  · exact (s.enter_beside i _).trans (State.modPru_beside _ _ _)

theorem State.drainEnd_beside (s : State) (i : Slot) : Beside i s (s.drainEnd i) := by
  unfold State.drainEnd
  dsimp only
  refine (s.modCs_beside i fun c => { c with drain := none }).trans ?_
  split
  · exact State.startReset_beside _ _ _
  · split
    · exact (State.modCs_beside _ i _).trans (State.startReset_beside _ _ _)
    · exact (State.modCs_beside _ i _).trans (State.startReset_beside _ _ _)

theorem State.startDrain_beside (s : State) (i : Slot) : Beside i s (s.startDrain i) := by
  unfold State.startDrain
  split
  · exact s.drainEnd_beside i
  · exact s.modCs_beside i _

theorem State.fence_beside (s : State) (i : Slot) (t : Trigger) (k : RecKind) (f : Option Nat) :
    Beside i s (s.fence i t k f) := by
  have hcut : Beside i s ((((s.enter i .fenced).modCs i fun c => c.fence t k).fenceWork i).cancelOp i) :=
    (s.enter_beside i _).trans ((State.modCs_beside _ _ _).trans
      ((State.fenceWork_beside _ _).trans (State.cancelOp_beside _ _)))
  unfold State.fence
  dsimp only
  generalize (((s.enter i .fenced).modCs i fun c => c.fence t k).fenceWork i).cancelOp i = u at hcut
  have hdown : Beside i s (if t = .linkDown then u.raise i .linkDown else u) := by
    split
    · exact hcut.trans (Beside.raise _ i _ _ _ _)
    · exact hcut
  refine Beside.trans ?_ (State.startDrain_beside _ i)
  have hcont := hdown.trans (Beside.raise _ i .contained (s.slot i).tt.abortCount 0 (detailOf k.code 0))
  split
  · exact hcont.trans (Beside.raise _ i _ _ _ _)
  · exact hcont

theorem State.enterRetired_beside (s : State) (i : Slot) (n : Nat) : Beside i s (s.enterRetired i n) := by
  unfold State.enterRetired
  exact Beside.trans (Beside.trans (s.enter_beside i _) (Beside.raise _ i _ _ _ _)) (State.modCs_beside _ _ _)

theorem State.sendHoldover_beside (s : State) (i : Slot) : Beside i s (s.sendHoldover i) := by
  unfold State.sendHoldover
  dsimp only
  split
  · exact (Beside.modSlot s i _ rfl).trans (Beside.emits _ _ _)
  · exact Beside.modSlot s i _ rfl

theorem State.enterProbation_beside (s : State) (i : Slot) : Beside i s (s.enterProbation i) :=
  (s.enter_beside i _).trans ((State.modCs_beside _ _ _).trans ((Beside.modSlot _ _ _ rfl).trans
    ((State.promote_beside _ _).trans ((State.sendHoldover_beside _ _).trans (State.onEntry_beside _ _ _ _)))))

theorem State.probationEnd_beside (s : State) (i : Slot) : Beside i s (s.probationEnd i) :=
  (s.enter_beside i _).trans ((Beside.modSlot _ _ _ rfl).trans ((Beside.raise _ i _ _ _ _).trans
    ((State.modCs_beside _ _ _).trans ((State.promote_beside _ _).trans (State.onEntry_beside _ _ _ _)))))

theorem State.bringUp_beside (s : State) (i : Slot) (b : Bool) : Beside i s (s.bringUp i b) :=
  (s.modCs_beside i _).trans (State.powerUp_beside _ _)

theorem State.recoverRetired_beside (s : State) (i : Slot) (t : Trigger) : Beside i s (s.recoverRetired i t) :=
  (s.modCs_beside i _).trans (State.powerUp_beside _ _)

theorem State.recoverAction_beside (s : State) (i : Slot) (a : BitVec 16) : Beside i s (s.recoverAction i a) := by
  unfold State.recoverAction
  split
  · split
    · exact (s.modCs_beside i _).trans ((State.enter_beside _ _ _).trans
        ((State.modPru_beside _ _ _).trans (State.reconnect_beside _ _)))
    · exact (s.modCs_beside i _).trans (State.shutdown_beside _ _)
  · exact (s.modCs_beside i _).trans (State.fence_beside _ _ _ _ _)
  · exact s.recoverRetired_beside i _
  · exact Beside.refl _ _

theorem State.powerDown_beside (s : State) (i : Slot) (g : Target) (t : Trigger) : Beside i s (s.powerDown i g t) := by
  have hdown : Beside i s (((s.modCs i fun c =>
      { c with target := c.target.meet g, retryPending := false, drain := none, trigger := t }).cancelOp i).shutdown i) :=
    (s.modCs_beside i _).trans ((State.cancelOp_beside _ _).trans (State.shutdown_beside _ _))
  have hbleed : Beside i s (s.modCs i fun c => { c with target := c.target.meet g, retryPending := false }) :=
    s.modCs_beside i _
  unfold State.powerDown
  split
  all_goals with_reducible first
    | exact hdown
    | exact hbleed
    | exact Beside.refl _ _

end Sys2Proof.Machine
end

section
/-! PROOFS. Actions, presence and attention keep beside the other slots. -/

namespace Sys2Proof.Machine

open Sys2Proof

/-! ### Actions -/

theorem State.startFence_beside (s : State) (i : Slot) (e : ActEntry) : Beside i s (s.startFence i e) := by
  unfold State.startFence
  split
  · split
    · exact s.endEntry_beside i _ _
    · exact s.recoverAction_beside i _
  · exact s.fence_beside i _ _ _

theorem State.startPowerOff_beside (s : State) (i : Slot) : Beside i s (s.startPowerOff i) := by
  unfold State.startPowerOff
  split
  · exact s.endEntry_beside i _ _
  · exact s.endEntry_beside i _ _
  · exact s.powerDown_beside i _ _

theorem State.startRetire_beside (s : State) (i : Slot) : Beside i s (s.startRetire i) := by
  unfold State.startRetire
  split
  · exact (s.setTrigger_beside i _).trans ((State.enterRetired_beside _ _ _).trans (State.endEntry_beside _ _ _ _))
  · exact s.endEntry_beside i _ _
  · exact s.powerDown_beside i _ _

theorem State.startLoadPolicy_beside (s : State) (i : Slot) : Beside i s (s.startLoadPolicy i) := by
  unfold State.startLoadPolicy
  split
  next c hc =>
    have hset : Beside i s (s.setAd i { (s.slot i).ad with policyRead := some (s.readRef 65535) }) :=
      State.setAd_beside fun _ h => h
    exact hset.trans (Beside.issueRead _ _ _ _ _)
  · exact Beside.refl _ _

theorem State.run_beside (s : State) (i : Slot) (e : ActEntry) (c : ActCode) : Beside i s (s.run i e c) := by
  cases c with
  | fence => exact s.startFence_beside i e
  | recover => exact s.recoverAction_beside i _
  | powerOn => exact s.bringUp_beside i _
  | powerOff => exact s.startPowerOff_beside i
  | retire => exact s.startRetire_beside i
  | admitSlot => exact (s.enterProbation_beside i).trans (State.endEntry_beside _ _ _ _)
  | release => exact (s.probationEnd_beside i).trans (State.endEntry_beside _ _ _ _)
  | snapshot => exact s.seRequest_beside ⟨.snapshot, i⟩
  | loadPolicy => exact s.startLoadPolicy_beside i
  | readSlot => exact s.endEntry_beside i _ _
  | railSample => exact Beside.setRm _ _ _

theorem State.startNext_beside (s : State) (i : Slot) : Beside i s (s.startNext i) := by
  unfold State.startNext
  dsimp only
  split
  next e rest hc hr =>
    have hset : Beside i s (s.setAd i { (s.slot i).ad with current := some e, remaining := rest }) :=
      State.setAd_beside (AdRec.holds_mono fun y hy => by simpa [hc, hr] using hy)
    split
    · exact hset.trans (State.endEntry_beside _ _ _ _)
    · exact hset.trans (State.run_beside _ _ _ _)
  · exact Beside.refl _ _

theorem State.settle_beside (s : State) (i : Slot) : Beside i s (s.settle i) := by
  have hrun : ∀ (n : Nat) (t : State), Beside i t (State.runPlan i n t) := fun n => by
    induction n with
    | zero => exact fun t => Beside.refl i t
    | succ n ih => exact fun t => (t.startNext_beside i).trans (ih _)
  exact hrun _ s

theorem State.overtake_beside (s : State) (i : Slot) : Beside i s (s.overtake i) := by
  unfold State.overtake
  dsimp only
  refine Beside.trans ?_ (State.endEntry_beside _ _ _ _)
  have hdrop : Beside i s (if (s.slot i).ad.runs .snapshot then s.seDrop i else s) := by
    split
    · exact s.seDrop_beside i
    · exact Beside.refl _ _
  split
  · exact hdrop.trans (Beside.setRm _ _ _)
  · exact hdrop

theorem State.overtakeByPress_beside (s : State) (i : Slot) : Beside i s (s.overtakeByPress i) := by
  unfold State.overtakeByPress
  dsimp only
  split
  · exact s.skipKeeping_beside i _
  · exact s.overtake_beside i

/-! ### Presence and attention -/

theorem State.emptyHeader_beside (s : State) (i : Slot) : Beside i s (s.emptyHeader i) := by
  unfold State.emptyHeader
  split
  · exact Beside.emits _ _ _
  · exact Beside.refl _ _

theorem State.presenceLost_beside (s : State) (i : Slot) : Beside i s (s.presenceLost i) := by
  unfold State.presenceLost
  split
  · exact Beside.refl _ _
  · exact (s.presenceWork_beside i).trans ((State.seDrop_beside _ _).trans ((State.emptyHeader_beside _ _).trans
      ((State.modPru_beside _ _ _).trans ((State.resetAssertion_beside _ _).trans ((Beside.setRm _ _ _).trans
      ((State.enter_beside _ _ _).trans ((State.modCs_beside _ _ _).trans
      ((State.loseCard_beside _ _).trans (Beside.raise _ _ _ _ _ _)))))))))

theorem State.presenceGained_beside (s : State) (i : Slot) : Beside i s (s.presenceGained i) := by
  have h : Beside i s (((((s.enter i .off).modCs i fun c => { c with attempts := 0, trigger := .none }).modSlot i
      SlotRec.clearScore).modPru i fun p => { p with bleed := false }).raise i .presenceOn) :=
    (s.enter_beside i _).trans ((State.modCs_beside _ _ _).trans ((Beside.modSlot _ _ _ rfl).trans
      ((State.modPru_beside _ _ _).trans (Beside.raise _ _ _ _ _ _))))
  unfold State.presenceGained
  split
  · dsimp only
    split
    · split
      · exact h.trans (State.bringUp_beside _ _ _)
      · exact h
    · exact h
  · exact Beside.refl _ _

theorem State.shortPress_beside (s : State) (i : Slot) (n : Nat) : Beside i s (s.shortPress i n) := by
  unfold State.shortPress
  dsimp only
  have h := Beside.raise s i .attentionShort n 0 0
  split
  · split
    · exact h.trans (State.fence_beside _ _ _ _ _)
    · exact h.trans (State.fence_beside _ _ _ _ _)
    · exact h
  · exact h

theorem State.pressActs_beside (s : State) (i : Slot) : Beside i s (s.pressActs i) := by
  unfold State.pressActs
  split
  · exact Beside.refl _ _
  · exact (s.setTrigger_beside i _).trans (State.bringUp_beside _ _ _)
  · exact s.recoverRetired_beside i _
  · exact (s.setTrigger_beside i _).trans (State.powerDown_beside _ _ _ _)
  · exact s.powerDown_beside i _ _

theorem State.longPress_beside (s : State) (i : Slot) (n : Nat) : Beside i s (s.longPress i n) := by
  unfold State.longPress
  dsimp only
  have h := Beside.raise s i .attentionLong n 0 0
  split
  · exact h.trans ((State.overtakeByPress_beside _ _).trans (State.pressActs_beside _ _))
  · exact h

theorem State.presenceSample_beside (s : State) (i : Slot) (b : Bool) : Beside i s (s.presenceSample i b) := by
  unfold State.presenceSample
  dsimp only
  split
  · split
    · exact (State.modSense_beside _ _ _).trans (State.presenceGained_beside _ _)
    · exact (State.modSense_beside _ _ _).trans (State.presenceLost_beside _ _)
  · exact State.modSense_beside _ _ _

theorem State.pressSample_beside (s : State) (i : Slot) : Beside i s (s.pressSample i) := by
  unfold State.pressSample
  dsimp only
  split
  · exact (State.modSense_beside _ _ _).trans (State.longPress_beside _ _ _)
  · exact State.modSense_beside _ _ _

theorem State.released_beside (s : State) (i : Slot) : Beside i s (s.released i) := by
  unfold State.released
  dsimp only
  split
  · exact State.modSense_beside _ _ _
  · exact (State.modSense_beside _ _ _).trans (State.shortPress_beside _ _ _)

theorem State.attentionSample_beside (s : State) (i : Slot) (b : Bool) : Beside i s (s.attentionSample i b) := by
  unfold State.attentionSample
  dsimp only
  split
  · split
    · exact (s.pressSample_beside i).trans (State.released_beside _ _)
    · exact (s.pressSample_beside i).trans (State.modSense_beside _ _ _)
  · split <;> exact State.modSense_beside _ _ _

theorem State.slotSamples_beside (s : State) (p : SensePins) (i : Slot) : Beside i s (s.slotSamples p i) := by
  unfold State.slotSamples
  dsimp only
  split
  · exact (s.attentionSample_beside i _).trans ((State.settle_beside _ _).trans
      ((State.presenceSample_beside _ _ _).trans (State.settle_beside _ _)))
  · exact (s.presenceSample_beside i _).trans ((State.settle_beside _ _).trans
      ((State.attentionSample_beside _ _ _).trans (State.settle_beside _ _)))

end Sys2Proof.Machine
end

section
/-! PROOFS. What a slot sees of the samples of the others. -/

namespace Sys2Proof.Machine

open Sys2Proof

/-! ## What a slot sees of the samples of the others -/

/-- From `s` to `t` slots other than `i` have acted. -/
structure Apart (i : Slot) (s t : State) : Prop where
  slot : t.slot i = s.slot i
  tb : t.tb = s.tb
  senseInterval : t.senseInterval = s.senseInterval
  cb : t.ri.cb = s.ri.cb
  out : s.out <+: t.out
  signals : s.signals <+: t.signals
  iq : ∃ xs : List Incident, (∀ x ∈ xs, x.slot ≠ i) ∧ t.iq = iwTakes xs s.iq
  held : ∀ j n, (t.slot j).ad.holds n → (s.slot j).ad.holds n
  ops : ∀ op ∈ t.se.ops, op.slot = i → op ∈ s.se.ops
  flies : ∀ g ∈ t.ri.inFlight, g ∈ s.ri.inFlight
  flight : ∀ n, (∀ j, j ≠ i → ¬ (s.slot j).ad.holds n) → t.flight n = s.flight n

theorem RiRec.sameBut_cb {r q : RiRec} (h : r.sameBut q) : q.cb = r.cb := by
  unfold RiRec.sameBut at h
  rw [← h]

theorem Apart.refl (i : Slot) (s : State) : Apart i s s :=
  ⟨rfl, rfl, rfl, rfl, List.prefix_rfl, List.prefix_rfl, ⟨[], by simp, rfl⟩, fun _ _ h => h, fun _ h _ => h, fun _ h => h,
    fun _ _ => rfl⟩

theorem Apart.trans {i : Slot} {s t u : State} (h : Apart i s t) (k : Apart i t u) : Apart i s u where
  slot := k.slot.trans h.slot
  tb := k.tb.trans h.tb
  senseInterval := k.senseInterval.trans h.senseInterval
  cb := k.cb.trans h.cb
  out := h.out.trans k.out
  signals := h.signals.trans k.signals
  iq := by
    obtain ⟨xs, hx, ex⟩ := h.iq
    obtain ⟨ys, hy, ey⟩ := k.iq
    refine ⟨xs ++ ys, fun x hm => (List.mem_append.1 hm).elim (hx x) (hy x), ?_⟩
    rw [ey, ex, iwTakes_append]
  held j n hn := h.held j n (k.held j n hn)
  ops op ho hi := h.ops op (k.ops op ho hi) hi
  flies g hg := h.flies g (k.flies g hg)
  flight n hn := (k.flight n fun j hj hk => hn j hj (h.held j n hk)).trans (h.flight n hn)

/-- An operation on one slot, as another slot sees it. -/
theorem Apart.of_within {i j : Slot} {s t : State} (hj : j ≠ i) (hw : Within j s t) (hb : Beside j s t) : Apart i s t where
  slot := hw.others i hj.symm
  tb := hw.tb
  senseInterval := hw.senseInterval
  cb := RiRec.sameBut_cb hw.ri
  out := hw.out
  signals := by
    obtain ⟨cs, -, hcs⟩ := hw.signals
    exact ⟨cs, hcs.symm⟩
  iq := by
    obtain ⟨xs, hx, ex⟩ := hw.iq
    exact ⟨xs, fun x hm => by rw [hx x hm]; exact hj, ex⟩
  held k n hn := by
    by_cases hk : k = j
    · rw [hk] at hn ⊢
      exact hb.held n hn
    · rwa [hw.others k hk] at hn
  ops op ho hi := (hb.ops op ho).resolve_right fun h => hj (h.symm.trans hi)
  flies := hb.flies
  flight n hn := hb.flight n (hn j hj)

theorem Apart.samples {i : Slot} (pins : SensePins) {l : List Slot} (hi : i ∉ l) (s : State) :
    Apart i s (l.foldl (fun t j => t.slotSamples pins j) s) := by
  induction l generalizing s with
  | nil => exact Apart.refl i s
  | cons j l ih =>
    obtain ⟨hj, hl⟩ := not_or.1 fun h => hi (List.mem_cons.2 h)
    have hstep := Apart.of_within (Ne.symm hj) (s.slotSamples_within pins j).1 (s.slotSamples_beside pins j)
    exact hstep.trans (ih hl _)

/-- Every slot is sampled once: the samples of the slots before slot `i`, its own, and those of the slots after it. -/
theorem State.samples_split (s : State) (pins : SensePins) (i : Slot) : ∃ u w : State, Apart i s u
    ∧ Apart i (u.slotSamples pins i) w ∧ (slotOrder pins.order).foldl (fun t j => t.slotSamples pins j) s = w := by
  obtain ⟨before, after, hsplit⟩ := List.append_of_mem (mem_slotOrder pins.order i)
  have hnodup := nodup_slotOrder pins.order
  rw [hsplit] at hnodup
  obtain ⟨-, hafter, hdisj⟩ := List.nodup_append.1 hnodup
  refine ⟨_, _, Apart.samples pins (fun h => hdisj i h i List.mem_cons_self rfl) s,
    Apart.samples pins (List.nodup_cons.1 hafter).1 _, ?_⟩
  rw [hsplit, List.foldl_append, List.foldl_cons]

/-! ### What stands through the acts of the others -/

theorem queuedFor_iwTakes_other {i : Slot} {xs : List Incident} (q : List Incident) (h : ∀ x ∈ xs, x.slot ≠ i) :
    queuedFor i (iwTakes xs q) = queuedFor i q := by
  induction xs generalizing q with
  | nil => rfl
  | cons x xs ih =>
    obtain ⟨hx, hxs⟩ := List.forall_mem_cons.1 h
    rw [iwTakes_cons, ih _ hxs, queuedFor_iwTake_other q hx]

theorem Apart.queued {i : Slot} {s t : State} (h : Apart i s t) : queuedFor i t.iq = queuedFor i s.iq := by
  obtain ⟨xs, hx, ex⟩ := h.iq
  rw [ex, queuedFor_iwTakes_other s.iq hx]

/-- An incident of this slot and kind is in the queue. -/
def queuedKind (i : Slot) (k : IncKind) (q : List Incident) : Prop := ∃ x ∈ q, x.slot = i ∧ x.kind = k

/-- A merge leaves every incident in the queue under its slot and kind (R181). -/
theorem queuedKind_mergeNewest {i j : Slot} {k l : IncKind} {q : List Incident} (h : queuedKind i k q) :
    queuedKind i k (mergeNewest j l q) := by
  induction q with
  | nil => exact h
  | cons z zs ih =>
    obtain ⟨x, hx, hxi, hxk⟩ := h
    unfold mergeNewest
    split
    · rcases List.mem_cons.1 hx with rfl | hx
      · exact ⟨_, List.mem_cons_self, hxi, hxk⟩
      · exact ⟨x, List.mem_cons_of_mem _ hx, hxi, hxk⟩
    · rcases List.mem_cons.1 hx with rfl | hx
      · exact ⟨x, List.mem_cons_self, hxi, hxk⟩
      · obtain ⟨y, hy, hyi, hyk⟩ := ih ⟨x, hx, hxi, hxk⟩
        exact ⟨y, List.mem_cons_of_mem _ hy, hyi, hyk⟩

theorem queuedKind_iwTake {i : Slot} {k : IncKind} {y : Incident} {q : List Incident} (h : queuedKind i k q) :
    queuedKind i k (iwTake y q) := by
  unfold iwTake
  split
  · obtain ⟨x, hx, hxik⟩ := h
    exact ⟨x, List.mem_append_left _ hx, hxik⟩
  · exact queuedKind_mergeNewest h

theorem queuedKind_iwTakes {i : Slot} {k : IncKind} (xs : List Incident) {q : List Incident} (h : queuedKind i k q) :
    queuedKind i k (iwTakes xs q) := by
  induction xs generalizing q with
  | nil => exact h
  | cons y ys ih => exact ih (queuedKind_iwTake h)

theorem State.raise_queuedKind {s : State} {i : Slot} (k : IncKind) (a b : Nat) (d : BitVec 64) (h : queuedFor i s.iq < 4) :
    queuedKind i k (s.raise i k a b d).iq :=
  ⟨s.incident i k a b d, mem_iwTake_self h, rfl, rfl⟩

theorem Within.queuedKind {j i : Slot} {s t : State} {k : IncKind} (h : Within j s t) (hk : queuedKind i k s.iq) :
    queuedKind i k t.iq := by
  obtain ⟨xs, -, ex⟩ := h.iq
  rw [ex]
  exact queuedKind_iwTakes xs hk

theorem Apart.queuedKind {i : Slot} {s t : State} {k : IncKind} (h : Apart i s t) (hk : queuedKind i k s.iq) :
    queuedKind i k t.iq := by
  obtain ⟨xs, -, ex⟩ := h.iq
  rw [ex]
  exact queuedKind_iwTakes xs hk

/-- A return reads the entry's place in the in-flight list and the clock. -/
theorem Apart.returnOf {i : Slot} {s t : State} (h : Apart i s t) {e : ActEntry}
    (he : ∀ j, j ≠ i → ¬ (s.slot j).ad.holds e.index) (cb : ControlBlock) (o : ActOutcome) (st : SlotState) (n : Nat) :
    t.returnOf cb i e o st n = s.returnOf cb i e o st n := by
  have hfind := h.flight e.index he
  unfold State.flight at hfind
  unfold State.returnOf
  rw [hfind, h.tb]

theorem State.flight_of_mem {s : State} {n : Nat} (h : ∃ g ∈ s.ri.inFlight, g.index = n) : s.flight n ≠ none := by
  obtain ⟨f, hf⟩ := found_inFlight h
  unfold State.flight
  rw [hf]
  exact Option.some_ne_none f

theorem State.mem_of_flight {s : State} {n : Nat} (h : s.flight n ≠ none) : ∃ g ∈ s.ri.inFlight, g.index = n := by
  obtain ⟨f, hf⟩ := Option.ne_none_iff_exists'.1 h
  exact ⟨f, List.mem_of_find?_eq_some hf, by simpa using List.find?_some hf⟩

/-- An entry that no other slot holds stays in flight. -/
theorem Apart.inFlight {i : Slot} {s t : State} (h : Apart i s t) {n : Nat} (hn : ∀ j, j ≠ i → ¬ (s.slot j).ad.holds n)
    (hf : ∃ g ∈ s.ri.inFlight, g.index = n) : ∃ g ∈ t.ri.inFlight, g.index = n :=
  State.mem_of_flight (by rw [h.flight n hn]; exact State.flight_of_mem hf)

/-- The plan of a slot stands where no other slot holds an entry at an index of it. -/
theorem Apart.holdsPlan {i : Slot} {s t : State} (h : Apart i s t) {e : ActEntry} {rest : List ActEntry} {cb : ControlBlock}
    (hp : s.holdsPlan i e rest cb) (hx : ∀ x ∈ e :: rest, ∀ j, j ≠ i → ¬ (s.slot j).ad.holds x.index) :
    t.holdsPlan i e rest cb := by
  obtain ⟨hc, hr, hcb, hd, hin⟩ := hp
  exact ⟨by rw [h.slot]; exact hc, by rw [h.slot]; exact hr, h.cb.trans hcb, hd, fun x hxm => h.inFlight (hx x hxm) (hin x hxm)⟩

end Sys2Proof.Machine
end

section
/-! PROOFS. Presence lost: the cut, and AD's part. -/

namespace Sys2Proof.Machine

open Sys2Proof

/-! ## Presence lost (R62) -/

/-- Presence lost, up to AD's part. -/
def State.cardGone (s : State) (i : Slot) : State :=
  (((((((s.presenceWork i).seDrop i).emptyHeader i).modPru i PruRec.cut).resetAssertion i).withdrawShare i .bleed).enter i
    .empty).modCs i CsRec.lose

theorem State.presenceLost_eq {s : State} {i : Slot} (h : (s.slot i).cs.state ≠ .empty) :
    s.presenceLost i = ((s.cardGone i).loseCard i).raise i .presenceOff := if_neg h

/-- The record past presence loss, but for AD's part. -/
def SlotRec.gone (r : SlotRec) : SlotRec :=
  { r with
    tt := r.tt.freeAll
    pru := r.pru.cut
    cs := { r.cs.lose with state := .empty }
    ctf := { r.ctf with holdover := none, cls := .cut } }

theorem State.emptyHeader_slot (s : State) (i j : Slot) : (s.emptyHeader i).slot j = s.slot j := by
  unfold State.emptyHeader
  split <;> rfl

theorem State.presenceWork_slot (s : State) (i : Slot) :
    (s.presenceWork i).slot i = (s.slot i).setTt (s.slot i).tt.cutOff := by
  rw [State.presenceWork, State.emits_slot, State.setSlot_slot_self]

theorem State.cardGone_slot (s : State) (i : Slot) : (s.cardGone i).slot i = (s.slot i).gone := by
  have hshare : ∀ t : State, (t.withdrawShare i .bleed).slot i = t.slot i := fun _ => rfl
  rw [State.cardGone, State.modCs, State.modSlot_slot_self, State.enter_slot_self, hshare, State.resetAssertion_slot,
    State.modPru_slot_self, State.emptyHeader_slot, State.seDrop_slot, State.presenceWork_slot]
  rfl

theorem State.emptyHeader_out {s : State} {i : Slot} {p : Policy} (h : (s.slot i).policy = some p) :
    (s.emptyHeader i).out = s.out ++ [.hostWrite p.areaAddr [0]] := by
  unfold State.emptyHeader
  rw [h]
  rfl

/-- The requests of the slot are answered, live ones first, and its header is written EMPTY (R23, R117). -/
theorem State.cardGone_header {s : State} {i : Slot} {p : Policy} (h : (s.slot i).policy = some p) :
    ∃ mid, s.out ++ (s.slot i).tt.abortLive ++ (s.slot i).tt.abortHeld ++ mid ++ [.hostWrite p.areaAddr [0]]
      <+: (s.cardGone i).out := by
  have hwork : (s.presenceWork i).out = s.out ++ (s.slot i).tt.abortLive ++ (s.slot i).tt.abortHeld :=
    (List.append_assoc _ _ _).symm
  obtain ⟨mid, hmid⟩ := ((s.presenceWork i).seDrop_only i).out
  have hp : (((s.presenceWork i).seDrop i).slot i).policy = some p := by
    rw [State.seDrop_slot, State.presenceWork_slot]
    exact h
  refine ⟨mid, ?_⟩
  rw [← hwork, hmid, ← State.emptyHeader_out hp]
  have hcut := State.modPru_only (((s.presenceWork i).seDrop i).emptyHeader i) i PruRec.cut
  exact (hcut.trans (State.resetAssertion_only _ i)).out

theorem State.cardGone_only (s : State) (i : Slot) : Only i s (s.cardGone i) :=
  (s.presenceWork_only i).trans ((State.seDrop_only _ _).trans ((State.emptyHeader_only _ _).trans
    ((State.modPru_only _ _ _).trans ((State.resetAssertion_only _ _).trans ((Only.setRm _ _ _).trans
    ((State.enter_only _ _ _).trans (State.modCs_only _ _ _)))))))

theorem State.seDrop_rest (s : State) (i : Slot) : (s.seDrop i).iq = s.iq ∧ (s.seDrop i).signals = s.signals := by
  have hnext : ∀ u : State, u.seNext.iq = u.iq ∧ u.seNext.signals = u.signals := fun u => by
    unfold State.seNext
    split <;> exact ⟨rfl, rfl⟩
  unfold State.seDrop
  dsimp only
  split
  · exact hnext _
  · exact ⟨rfl, rfl⟩

theorem State.emptyHeader_rest (s : State) (i : Slot) : (s.emptyHeader i).ri = s.ri ∧ (s.emptyHeader i).iq = s.iq
    ∧ (s.emptyHeader i).se = s.se ∧ (s.emptyHeader i).signals = s.signals := by
  unfold State.emptyHeader
  split <;> exact ⟨rfl, rfl, rfl, rfl⟩

/-- What lies outside the slot's record after the cut: SE has lost the slot's operations, and the outputs have changed. -/
theorem State.cardGone_rest (s : State) (i : Slot) : (s.cardGone i).ri = s.ri ∧ (s.cardGone i).iq = s.iq
    ∧ (s.cardGone i).se = ((s.presenceWork i).seDrop i).se
    ∧ (s.cardGone i).signals = s.signals ++ signalChanges i (s.slot i).pru (s.slot i).pru.cut := by
  have hpru : ((((s.presenceWork i).seDrop i).emptyHeader i).slot i).pru = (s.slot i).pru := by
    rw [State.emptyHeader_slot, State.seDrop_slot, State.presenceWork_slot]
    rfl
  obtain ⟨hiq, hsig⟩ := (s.presenceWork i).seDrop_rest i
  obtain ⟨kri, kiq, kse, ksig⟩ := ((s.presenceWork i).seDrop i).emptyHeader_rest i
  refine ⟨kri.trans (State.seDrop_ri _ _), kiq.trans hiq, kse, ?_⟩
  rw [← hpru]
  exact congrArg (· ++ _) (ksig.trans hsig)

theorem signalChanges_cut {i : Slot} {p : PruRec} (h : p.up) : signalChanges i p p.cut = powerOffSignals i := by
  obtain ⟨hpower, hreset, hiso, hbleed⟩ := h
  simp [signalChanges, PruRec.cut, powerOffSignals, hpower, hreset, hiso, hbleed]

/-! ### AD's part (R161) -/

theorem State.skipAll_returned (s : State) (i : Slot) (es : List ActEntry) : Returns i s (s.skipAll i es) := by
  induction es generalizing s with
  | nil => exact Returns.refl i s
  | cons e es ih =>
    have hback := (s.giveBack_ring i e .skipped 0).returns i (s.giveBack_signals i e .skipped 0)
      (s.giveBack_only i e .skipped 0).out
    exact hback.trans (ih _)

theorem State.loseCard_kept {s : State} {i : Slot} (h : (s.slot i).ad.runs .railSample = true) :
    s.loseCard i = (s.skipAll i (s.slot i).ad.remaining).setAd i { (s.slot i).ad with cardRemoved := true, remaining := [] } :=
  if_pos h

theorem State.loseCard_ended {s : State} {i : Slot} (h : (s.slot i).ad.runs .railSample = false) :
    s.loseCard i = s.endEntry i .cardRemoved 0 := if_neg (by simpa using h)

theorem State.loseCard_returns (s : State) (i : Slot) : Returns i s (s.loseCard i) := by
  cases h : (s.slot i).ad.runs .railSample
  · rw [State.loseCard_ended h]
    exact s.endEntry_returns i .cardRemoved 0
  · have hskip := s.skipAll_returned i (s.slot i).ad.remaining
    rw [State.loseCard_kept h]
    refine ⟨?_, hskip.rm, hskip.se, hskip.iq, hskip.signals, hskip.out, fun _ => ?_⟩
    · rw [State.setAd, State.modSlot_slot_self, State.skipAll_slot]
    · rw [State.setAd, State.modSlot_slot_self]
      rfl

theorem State.loseCard_settled {s : State} {i : Slot} (h : (s.slot i).planSettled) :
    ((s.loseCard i).slot i).planSettled := by
  cases hr : (s.slot i).ad.runs .railSample
  · rw [State.loseCard_ended hr]
    exact State.endEntry_settled 0 (by decide) h
  · rw [State.loseCard_kept hr, State.setAd, State.modSlot_slot_self]
    exact fun _ => rfl

theorem State.loseCard_frees {s : State} {i : Slot} (hr : (s.slot i).ad.runs .railSample = false)
    (hc : (s.slot i).ad.current ≠ none) : ((s.loseCard i).slot i).ad = AdRec.free := by
  obtain ⟨e, he⟩ := Option.ne_none_iff_exists'.1 hc
  have hout : ¬ (ActOutcome.cardRemoved = .done ∧ (s.slot i).ad.remaining ≠ []) := fun h => absurd h.1 (by decide)
  rw [State.loseCard_ended hr, State.endEntry]
  dsimp only
  rw [he]
  dsimp only
  rw [if_neg hout, State.setAd, State.modSlot_slot_self]

theorem AdRec.runs_iff {a : AdRec} {e : ActEntry} (h : a.current = some e) (c : ActCode) :
    a.runs c = decide (e.act = some c) := by
  unfold AdRec.runs
  rw [h]

/-- A plan whose current entry is no RAIL_SAMPLE ends CARD_REMOVED. -/
theorem State.loseCard_planEnded {s : State} {i : Slot} {e : ActEntry} {rest : List ActEntry} {cb : ControlBlock}
    (h : s.holdsPlan i e rest cb) (ha : e.act ≠ some .railSample) :
    s.planEnded (s.loseCard i) [] i e rest cb .cardRemoved (s.slot i).cs.state 0 := by
  have hr : (s.slot i).ad.runs .railSample = false := by
    rw [AdRec.runs_iff h.1]
    simpa using ha
  rw [State.loseCard_ended hr]
  exact State.endEntry_planEnded s i e rest cb .cardRemoved 0 h (by simp)

/-- A RAIL_SAMPLE stays in the record, and the entries after it are skipped. -/
theorem State.loseCard_stays {s : State} {i : Slot} {e : ActEntry} {rest : List ActEntry} {cb : ControlBlock}
    (h : s.holdsPlan i e rest cb) (ha : e.act = some .railSample) :
    s.out ++ rest.flatMap (fun x => s.returnOf cb i x .skipped (s.slot i).cs.state 0) = (s.loseCard i).out
      ∧ ((s.loseCard i).slot i).ad = { (s.slot i).ad with cardRemoved := true, remaining := [] }
      ∧ (s.loseCard i).ri.inFlight = s.inFlightBut rest := by
  obtain ⟨hc, hrest, hcb, hp, hin⟩ := h
  have hr : (s.slot i).ad.runs .railSample = true := by
    rw [AdRec.runs_iff hc]
    simpa using ha
  obtain ⟨hout, hfl, -, -⟩ := State.skipAll_returns i cb rest s hcb (List.pairwise_cons.1 hp).2
    fun x hx => hin x (List.mem_cons_of_mem _ hx)
  rw [State.loseCard_kept hr, hrest]
  exact ⟨hout.symm, by rw [State.setAd, State.modSlot_slot_self], hfl⟩

end Sys2Proof.Machine
end

section
/-! PROOFS. Presence lost as a whole, and presence gained. -/

namespace Sys2Proof.Machine

open Sys2Proof

/-! ### Presence lost, as a whole -/

/-- The incident of a loss changes the queue alone. -/
theorem State.presenceLost_rest {s : State} {i : Slot} (h : (s.slot i).cs.state ≠ .empty) :
    (s.presenceLost i).slot i = ((s.cardGone i).loseCard i).slot i
      ∧ (s.presenceLost i).se = ((s.cardGone i).loseCard i).se ∧ (s.presenceLost i).ri = ((s.cardGone i).loseCard i).ri
      ∧ (s.presenceLost i).out = ((s.cardGone i).loseCard i).out
      ∧ (s.presenceLost i).signals = ((s.cardGone i).loseCard i).signals := by
  rw [State.presenceLost_eq h]
  generalize (s.cardGone i).loseCard i = l
  exact ⟨rfl, rfl, rfl, rfl, rfl⟩

theorem State.presenceLost_slot {s : State} {i : Slot} (h : (s.slot i).cs.state ≠ .empty) :
    (s.presenceLost i).slot i = { (s.slot i).gone with ad := (((s.cardGone i).loseCard i).slot i).ad } := by
  rw [State.presenceLost_eq h, State.raise_slot]
  exact ((s.cardGone i).loseCard_returns i).slot.trans (by rw [State.cardGone_slot])

theorem State.presenceLost_settled {s : State} {i : Slot} (h : (s.slot i).planSettled) :
    ((s.presenceLost i).slot i).planSettled := by
  by_cases he : (s.slot i).cs.state = .empty
  · rw [State.presenceLost, if_pos he]
    exact h
  · rw [State.presenceLost_eq he, State.raise_slot]
    exact State.loseCard_settled (by rw [State.cardGone_slot]; exact h)

theorem State.presenceLost_ops {s : State} {i : Slot} (h : (s.slot i).cs.state ≠ .empty) :
    ∀ op ∈ (s.presenceLost i).se.ops, op.slot ≠ i := by
  have hse : (s.presenceLost i).se = ((s.presenceWork i).seDrop i).se := by
    rw [(State.presenceLost_rest h).2.1, ((s.cardGone i).loseCard_returns i).se, (s.cardGone_rest i).2.2.1]
  intro op hop
  rw [hse] at hop
  exact (State.mem_seDrop_ops hop).2

theorem State.presenceLost_signals {s : State} {i : Slot} (h : (s.slot i).cs.state ≠ .empty) :
    (s.presenceLost i).signals = s.signals ++ signalChanges i (s.slot i).pru (s.slot i).pru.cut := by
  obtain ⟨-, -, -, -, hsig⟩ := State.presenceLost_rest h
  rw [hsig, ((s.cardGone i).loseCard_returns i).signals, (s.cardGone_rest i).2.2.2]

theorem State.presenceLost_queued {s : State} {i : Slot} (h : (s.slot i).cs.state ≠ .empty) (hq : queuedFor i s.iq < 4) :
    queuedKind i .presenceOff (s.presenceLost i).iq := by
  rw [State.presenceLost_eq h]
  refine State.raise_queuedKind _ _ _ _ ?_
  rw [((s.cardGone i).loseCard_returns i).iq, (s.cardGone_rest i).2.1]
  exact hq

theorem State.presenceLost_header {s : State} {i : Slot} {p : Policy} (h : (s.slot i).cs.state ≠ .empty)
    (hp : (s.slot i).policy = some p) :
    ∃ mid, s.out ++ (s.slot i).tt.abortLive ++ (s.slot i).tt.abortHeld ++ mid ++ [.hostWrite p.areaAddr [0]]
      <+: (s.presenceLost i).out := by
  obtain ⟨mid, hmid⟩ := State.cardGone_header hp
  obtain ⟨-, -, -, hout, -⟩ := State.presenceLost_rest h
  rw [hout]
  exact ⟨mid, hmid.trans ((s.cardGone i).loseCard_returns i).out⟩

theorem State.presenceLost_frees {s : State} {i : Slot} (h : (s.slot i).cs.state ≠ .empty)
    (hr : (s.slot i).ad.runs .railSample = false) (hc : (s.slot i).ad.current ≠ none) :
    ((s.presenceLost i).slot i).ad = AdRec.free := by
  have had : ((s.cardGone i).slot i).ad = (s.slot i).ad := by rw [State.cardGone_slot]; rfl
  rw [State.presenceLost_eq h, State.raise_slot]
  exact State.loseCard_frees (by rw [had]; exact hr) (by rw [had]; exact hc)

theorem State.cardGone_holdsPlan {s : State} {i : Slot} {e : ActEntry} {rest : List ActEntry} {cb : ControlBlock}
    (h : s.holdsPlan i e rest cb) : (s.cardGone i).holdsPlan i e rest cb := by
  unfold State.holdsPlan at *
  rw [State.cardGone_slot, (s.cardGone_rest i).1]
  exact h

theorem State.cardGone_returnOf (s : State) (i : Slot) (cb : ControlBlock) (e : ActEntry) (o : ActOutcome) (st : SlotState)
    (n : Nat) : (s.cardGone i).returnOf cb i e o st n = s.returnOf cb i e o st n :=
  State.returnOf_congr (s.cardGone_rest i).1 (s.cardGone_only i).tb cb i e o st n

/-- The plan of a card that is gone, but for one whose current entry is a RAIL_SAMPLE. -/
theorem State.presenceLost_ends {s : State} {i : Slot} {e : ActEntry} {rest : List ActEntry} {cb : ControlBlock}
    (h : (s.slot i).cs.state ≠ .empty) (hp : s.holdsPlan i e rest cb) (ha : e.act ≠ some .railSample) :
    (∃ pre, s.out ++ pre ++ (s.returnOf cb i e .cardRemoved .empty 0
        ++ rest.flatMap fun x => s.returnOf cb i x .skipped .empty 0) <+: (s.presenceLost i).out)
      ∧ ((s.presenceLost i).slot i).ad = AdRec.free ∧ (s.presenceLost i).ri.inFlight = s.inFlightBut (e :: rest) := by
  have hstate : ((s.cardGone i).slot i).cs.state = .empty := by rw [State.cardGone_slot]; rfl
  obtain ⟨hout, hfl, -, had⟩ := State.loseCard_planEnded (State.cardGone_holdsPlan hp) ha
  obtain ⟨pre, hpre⟩ := (s.cardGone_only i).out
  rw [hstate, ← hpre, State.cardGone_returnOf, List.append_nil, List.append_assoc,
    List.flatMap_congr fun x _ => State.cardGone_returnOf s i cb x .skipped .empty 0] at hout
  obtain ⟨kslot, -, kri, kout, -⟩ := State.presenceLost_rest h
  rw [State.inFlightBut, (s.cardGone_rest i).1] at hfl
  rw [kslot, kri, kout, State.inFlightBut]
  exact ⟨⟨pre, hout⟩, had, hfl⟩

/-- The plan of a card that is gone, whose current entry is a RAIL_SAMPLE. -/
theorem State.presenceLost_stays {s : State} {i : Slot} {e : ActEntry} {rest : List ActEntry} {cb : ControlBlock}
    (h : (s.slot i).cs.state ≠ .empty) (hp : s.holdsPlan i e rest cb) (ha : e.act = some .railSample) :
    (∃ pre, s.out ++ pre ++ (rest.flatMap fun x => s.returnOf cb i x .skipped .empty 0) <+: (s.presenceLost i).out)
      ∧ ((s.presenceLost i).slot i).ad = { (s.slot i).ad with cardRemoved := true, remaining := [] }
      ∧ (s.presenceLost i).ri.inFlight = s.inFlightBut rest := by
  have hstate : ((s.cardGone i).slot i).cs.state = .empty := by rw [State.cardGone_slot]; rfl
  have had : ((s.cardGone i).slot i).ad = (s.slot i).ad := by rw [State.cardGone_slot]; rfl
  obtain ⟨hout, hkept, hfl⟩ := State.loseCard_stays (State.cardGone_holdsPlan hp) ha
  obtain ⟨pre, hpre⟩ := (s.cardGone_only i).out
  rw [hstate, ← hpre, List.flatMap_congr fun x _ => State.cardGone_returnOf s i cb x .skipped .empty 0] at hout
  rw [had] at hkept
  obtain ⟨kslot, -, kri, kout, -⟩ := State.presenceLost_rest h
  rw [State.inFlightBut, (s.cardGone_rest i).1] at hfl
  rw [kslot, kri, kout, State.inFlightBut, ← hout]
  exact ⟨⟨pre, List.prefix_rfl⟩, hkept, hfl⟩

/-! ## Presence gained (R63) -/

/-- Presence gained, up to AUTO_POWER_ON. -/
def State.cardFound (s : State) (i : Slot) : State :=
  ((((s.enter i .off).modCs i fun c => { c with attempts := 0, trigger := .none }).modSlot i
    SlotRec.clearScore).modPru i fun p => { p with bleed := false }).raise i .presenceOn

/-- The record of a slot that presence has just reached. -/
def SlotRec.found (r : SlotRec) : SlotRec :=
  { r with
    cs := { r.cs with state := .off, attempts := 0, trigger := .none }
    ctf := { r.ctf with cls := SlotState.off.cls }
    hm := { r.hm with score := 0, watched := false, alert := false }
    pru := { r.pru with bleed := false } }

theorem State.presenceGained_eq {s : State} {i : Slot} (h : (s.slot i).cs.state = .empty) :
    s.presenceGained i = if (s.slot i).pol.autoPowerOn then (s.cardFound i).bringUp i false else s.cardFound i := by
  unfold State.presenceGained SlotRec.pol
  rw [if_pos h]
  cases (s.slot i).policy <;> rfl

theorem State.cardFound_slot (s : State) (i : Slot) : (s.cardFound i).slot i = (s.slot i).found := by
  rw [State.cardFound, State.raise_slot, State.modPru_slot_self, State.modSlot_slot_self, State.modCs,
    State.modSlot_slot_self, State.enter_slot_self]
  rfl

theorem State.cardFound_queued {s : State} {i : Slot} (hq : queuedFor i s.iq < 4) :
    queuedKind i .presenceOn (s.cardFound i).iq :=
  State.raise_queuedKind _ _ _ _ hq

/-- The slot at the entry to RAMP of a bring-up. -/
def State.bringRamp (s : State) (i : Slot) (b : Bool) : State :=
  ((s.modCs i fun c =>
    { c with attempts := 0, kind := .cold, target := .none, retryPending := false, restoreWanted := b }).enter i
      .powering).modPru i PruRec.enterRamp

/-- The record at the entry to RAMP of a bring-up. -/
def SlotRec.ramping (r : SlotRec) (b : Bool) : SlotRec :=
  { r with
    cs := { r.cs with
      state := .powering, attempts := 0, kind := .cold, target := .none, retryPending := false, restoreWanted := b }
    ctf := { r.ctf with cls := SlotState.powering.cls }
    pru := r.pru.enterRamp }

theorem State.bringRamp_slot (s : State) (i : Slot) (b : Bool) : (s.bringRamp i b).slot i = (s.slot i).ramping b := by
  rw [State.bringRamp, State.modPru_slot_self, State.enter_slot_self, State.modCs, State.modSlot_slot_self]
  rfl

theorem State.bringUp_eq (s : State) (i : Slot) (b : Bool) :
    s.bringUp i b = if (s.slot i).sense.pgAcc then (s.bringRamp i b).rampFault i .rampFast else s.bringRamp i b := by
  have hsense : ∀ f : CsRec → CsRec, ((s.modCs i f).slot i).sense = (s.slot i).sense := fun f => (s.modCs_only i f).sense
  unfold State.bringUp State.powerUp
  dsimp only
  rw [hsense]
  rfl

/-- A bring-up with power-good not accepted begins RAMP. -/
theorem State.bringUp_ramps {s : State} {i : Slot} (b : Bool) (h : (s.slot i).sense.pgAcc = false) :
    (s.bringUp i b).slot i = (s.slot i).ramping b := by
  rw [State.bringUp_eq, h, if_neg (by simp), State.bringRamp_slot]

theorem State.rampFault_slot (s : State) (i : Slot) (k : RailFault) : (s.rampFault i k).slot i
    = { (s.slot i).failed with ad := ((s.rampFault i k).slot i).ad } := by
  have h := State.failAttempt_slot (s.raise i .railFault (s.slot i).pru.rampCount 0 (detailOf k.code 0)) i 1 0
  rw [State.raise_slot] at h
  exact h.trans (by rw [State.rampFault, h])

theorem State.rampFault_settled {s : State} {i : Slot} (k : RailFault) (h : (s.slot i).planSettled) :
    ((s.rampFault i k).slot i).planSettled := by
  rw [State.rampFault, State.failAttempt_slot]
  generalize hraise : s.raise i .railFault (s.slot i).pru.rampCount 0 (detailOf k.code 0) = u
  have hu : (u.slot i).planSettled := by rw [← hraise, State.raise_slot]; exact h
  exact State.failChecked_settled 1 0 hu

/-- A bring-up leaves HM's part alone, and no plan between two entries. -/
theorem State.bringUp_keeps (s : State) (i : Slot) (b : Bool) : ((s.bringUp i b).slot i).hm = (s.slot i).hm
    ∧ ((s.slot i).planSettled → ((s.bringUp i b).slot i).planSettled) := by
  have hslot := s.bringRamp_slot i b
  rw [State.bringUp_eq]
  split
  · refine ⟨?_, fun h => State.rampFault_settled _ (by rw [hslot]; exact h)⟩
    rw [State.rampFault_slot, hslot]
    rfl
  · rw [hslot]
    exact ⟨rfl, id⟩

end Sys2Proof.Machine
end

section
/-! PROOFS. One slot's samples with the button at rest, and the sample of every slot seen from one. -/

namespace Sys2Proof.Machine

open Sys2Proof

/-! ## One slot's samples with the button at rest (R135 to R137) -/

/-- A sense record that stands leaves the state as it was. -/
theorem State.modSense_same {s : State} {i : Slot} {f : SenseRec → SenseRec} (h : f (s.slot i).sense = (s.slot i).sense) :
    s.modSense i f = s := by
  have hrec : s.modSense i f = s.setSlot i { s.slot i with sense := f (s.slot i).sense } := rfl
  rw [hrec, h]
  exact s.setSlot_self i

theorem State.modSense_slot (s : State) (i : Slot) (f : SenseRec → SenseRec) :
    (s.modSense i f).slot i = { s.slot i with sense := f (s.slot i).sense } := by
  rw [State.modSense, State.modSlot_slot_self]

theorem State.attentionSample_rest {s : State} {i : Slot} (hp : (s.slot i).sense.attnPrev = false)
    (ha : (s.slot i).sense.attnAcc = false) : s.attentionSample i false = s := by
  have hstands : s.modSense i (fun y => { y with attnPrev := false }) = s := State.modSense_same (by rw [← hp])
  unfold State.attentionSample
  dsimp only
  rw [ha, hp]
  exact hstands

/-- The presence levels of a sense record after a sample. -/
def SenseRec.sampled (x : SenseRec) (raw : Bool) : SenseRec :=
  { x with presPrev := raw, presAcc := if accepts raw x.presPrev x.presAcc then raw else x.presAcc }

/-- The state with the presence levels of the slot sampled. -/
def State.presenceSeen (s : State) (i : Slot) (raw : Bool) : State :=
  s.modSense i fun y =>
    { y with presPrev := raw, presAcc := if accepts raw (s.slot i).sense.presPrev (s.slot i).sense.presAcc then raw else y.presAcc }

theorem State.presenceSeen_slot (s : State) (i : Slot) (raw : Bool) :
    (s.presenceSeen i raw).slot i = { s.slot i with sense := (s.slot i).sense.sampled raw } :=
  s.modSense_slot i _

theorem State.presenceSample_eq (s : State) (i : Slot) (raw : Bool) : s.presenceSample i raw
    = if accepts raw (s.slot i).sense.presPrev (s.slot i).sense.presAcc then
        if raw then (s.presenceSeen i raw).presenceGained i else (s.presenceSeen i raw).presenceLost i
      else s.presenceSeen i raw := rfl

theorem State.presenceSample_sense (s : State) (i : Slot) (raw : Bool) :
    ((s.presenceSample i raw).slot i).sense = (s.slot i).sense.sampled raw := by
  have hseen : ((s.presenceSeen i raw).slot i).sense = (s.slot i).sense.sampled raw := by rw [State.presenceSeen_slot]
  rw [State.presenceSample_eq]
  split
  · split
    · exact (State.presenceGained_only _ i).sense.trans hseen
    · exact (State.presenceLost_only _ i).sense.trans hseen
  · exact hseen

theorem State.presenceGained_settled {s : State} {i : Slot} (h : (s.slot i).planSettled) :
    ((s.presenceGained i).slot i).planSettled := by
  by_cases he : (s.slot i).cs.state = .empty
  · have hfound : ((s.cardFound i).slot i).planSettled := by rw [State.cardFound_slot]; exact h
    rw [State.presenceGained_eq he]
    split
    · exact ((s.cardFound i).bringUp_keeps i false).2 hfound
    · exact hfound
  · rw [State.presenceGained, if_neg he]
    exact h

theorem State.presenceSample_settled {s : State} {i : Slot} (raw : Bool) (h : (s.slot i).planSettled) :
    ((s.presenceSample i raw).slot i).planSettled := by
  have hseen : ((s.presenceSeen i raw).slot i).planSettled := by rw [State.presenceSeen_slot]; exact h
  rw [State.presenceSample_eq]
  split
  · split
    · exact State.presenceGained_settled hseen
    · exact State.presenceLost_settled hseen
  · exact hseen

/-- With the button at rest and no plan between two entries, the presence sample is all there is. -/
theorem State.slotSamples_rest {s : State} {pins : SensePins} {i : Slot} (hs : (s.slot i).planSettled)
    (hraw : pins.attention.getLsbD i.val = false) (hp : (s.slot i).sense.attnPrev = false)
    (ha : (s.slot i).sense.attnAcc = false) :
    s.slotSamples pins i = s.presenceSample i (pins.presence.getLsbD i.val) := by
  have hsample := State.presenceSample_settled (pins.presence.getLsbD i.val) hs
  have hsense := s.presenceSample_sense i (pins.presence.getLsbD i.val)
  unfold State.slotSamples
  dsimp only
  rw [hraw]
  split
  · rw [State.attentionSample_rest hp ha, State.settle_settled hs, State.settle_settled hsample]
  · rw [State.settle_settled hsample, State.attentionSample_rest (by rw [hsense]; exact hp) (by rw [hsense]; exact ha),
      State.settle_settled hsample]

/-! ## The sample of every slot, seen from one (R134) -/

theorem Apart.align (i : Slot) (s : State) : Apart i s s.align := by
  have honly := s.align_only i
  have hring := s.align_ring
  have hin := (s.align_arrives i).2.1
  have hslot : ∀ j, s.align.slot j = s.slot j := fun j => by
    rw [State.slot, hring.slots]
    rfl
  exact ⟨hslot i, honly.tb, honly.senseInterval, RiRec.sameBut_cb honly.ri, honly.out, by rw [State.align_signals],
    ⟨[], by simp, hring.iq⟩, fun j n hn => by rwa [hslot] at hn, fun op ho _ => by rwa [hring.se] at ho,
    fun g hg => by rwa [hin] at hg, fun n _ => by rw [State.flight, hin]; rfl⟩

/-- A sample event: others before, the slot's own samples, others after. -/
theorem State.senseSample_split {s : State} {pins : SensePins} (i : Slot) (h : s.sampleTimer = 0) :
    ∃ u t : State, exec (.senseSample pins) s = .next t ∧ t.sampleTimer = s.senseInterval
      ∧ Apart i s u ∧ Apart i (u.slotSamples pins i) t := by
  obtain ⟨u, w, hbefore, hafter, hfold⟩ := s.samples_split pins i
  have htimer : Apart i w { w with sampleTimer := s.senseInterval } :=
    ⟨rfl, rfl, rfl, rfl, List.prefix_rfl, List.prefix_rfl, ⟨[], by simp, rfl⟩, fun _ _ h => h, fun _ h _ => h,
      fun _ h => h, fun _ _ => rfl⟩
  refine ⟨u, ({ w with sampleTimer := s.senseInterval } : State).align, ?_, ?_, hbefore,
    (hafter.trans htimer).trans (Apart.align i _)⟩
  · have hexec : exec (.senseSample pins) s = .next (s.senseSample pins).align := rfl
    rw [hexec, State.senseSample, if_pos h, hfold]
  · exact (({ w with sampleTimer := s.senseInterval } : State).align_only i).sampleTimer

end Sys2Proof.Machine
end

section
/-! PROOFS. A loss among the samples of the other slots. -/

namespace Sys2Proof.Machine

open Sys2Proof

/-! ## A loss among the samples of the other slots (R62, R161) -/

section
variable {s u t : State} {i : Slot}

/-- The loss of slot `i` at `u.presenceSeen i false`, with the acts of other slots before and after. -/
structure LostAmong (i : Slot) (s u t : State) : Prop where
  before : Apart i s u
  after : Apart i ((u.presenceSeen i false).presenceLost i) t
  state : (s.slot i).cs.state ≠ .empty

/-- The record at the loss. -/
theorem LostAmong.seen (h : LostAmong i s u t) :
    (u.presenceSeen i false).slot i = { s.slot i with sense := (s.slot i).sense.sampled false } := by
  rw [State.presenceSeen_slot, h.before.slot]

theorem LostAmong.seen_state (h : LostAmong i s u t) : ((u.presenceSeen i false).slot i).cs.state ≠ .empty := by
  rw [h.seen]
  exact h.state

theorem LostAmong.slot (h : LostAmong i s u t) : ∃ a : AdRec,
    t.slot i = { (s.slot i).gone with sense := (s.slot i).sense.sampled false, ad := a } := by
  have hslot := State.presenceLost_slot h.seen_state
  rw [h.seen] at hslot
  exact ⟨_, h.after.slot.trans hslot⟩

theorem LostAmong.ops (h : LostAmong i s u t) : ∀ op ∈ t.se.ops, op.slot ≠ i := fun op hop hi =>
  State.presenceLost_ops h.seen_state op (h.after.ops op hop hi) hi

theorem LostAmong.frees (h : LostAmong i s u t) (hr : (s.slot i).ad.runs .railSample = false)
    (hc : (s.slot i).ad.current ≠ none) : (t.slot i).ad = AdRec.free := by
  have hfree := State.presenceLost_frees h.seen_state (by rw [h.seen]; exact hr) (by rw [h.seen]; exact hc)
  rw [h.after.slot]
  exact hfree

theorem LostAmong.header (h : LostAmong i s u t) {p : Policy} (hp : (s.slot i).policy = some p) : ∃ pre mid,
    s.out ++ pre ++ (s.slot i).tt.abortLive ++ (s.slot i).tt.abortHeld ++ mid ++ [.hostWrite p.areaAddr [0]] <+: t.out := by
  obtain ⟨pre, hpre⟩ := h.before.out
  obtain ⟨mid, hmid⟩ := State.presenceLost_header h.seen_state (by rw [h.seen]; exact hp)
  have hout : (u.presenceSeen i false).out = s.out ++ pre := hpre.symm
  rw [h.seen, hout] at hmid
  exact ⟨pre, mid, hmid.trans h.after.out⟩

theorem LostAmong.signals (h : LostAmong i s u t) (hup : (s.slot i).pru.up) :
    ∃ pre, s.signals ++ pre ++ powerOffSignals i <+: t.signals := by
  obtain ⟨pre, hpre⟩ := h.before.signals
  have hsig := State.presenceLost_signals h.seen_state
  have hseen : (u.presenceSeen i false).signals = s.signals ++ pre := hpre.symm
  rw [h.seen, hseen, signalChanges_cut hup] at hsig
  exact ⟨pre, hsig ▸ h.after.signals⟩

theorem LostAmong.queued (h : LostAmong i s u t) (hq : queuedFor i s.iq ≤ 3) : ∃ x ∈ t.iq, x.slot = i ∧ x.kind = .presenceOff := by
  refine h.after.queuedKind (State.presenceLost_queued h.seen_state ?_)
  have hiq : (u.presenceSeen i false).iq = u.iq := rfl
  rw [hiq, h.before.queued]
  exact Nat.lt_succ_of_le hq

/-! ### The plan of the slot -/

/-- No other slot holds an entry at an index of these. -/
def State.unshared (s : State) (i : Slot) (es : List ActEntry) : Prop :=
  ∀ x ∈ es, ∀ j, j ≠ i → ¬ (s.slot j).ad.holds x.index

theorem LostAmong.plan (h : LostAmong i s u t) {e : ActEntry} {rest : List ActEntry} {cb : ControlBlock}
    (hp : s.holdsPlan i e rest cb) (hx : s.unshared i (e :: rest)) :
    (u.presenceSeen i false).holdsPlan i e rest cb := by
  have hu := h.before.holdsPlan hp hx
  unfold State.holdsPlan at *
  rw [h.seen]
  rwa [h.before.slot] at hu

theorem LostAmong.returnOf (h : LostAmong i s u t) {x : ActEntry} (hx : ∀ j, j ≠ i → ¬ (s.slot j).ad.holds x.index)
    (cb : ControlBlock) (o : ActOutcome) (st : SlotState) (n : Nat) :
    (u.presenceSeen i false).returnOf cb i x o st n = s.returnOf cb i x o st n :=
  (State.returnOf_congr rfl rfl cb i x o st n).trans (h.before.returnOf hx cb o st n)

theorem State.inFlightBut_apart {s : State} {es : List ActEntry} {x : ActEntry} (hx : x ∈ es) :
    ∀ g ∈ s.inFlightBut es, g.index ≠ x.index := fun g hg => by
  have hall := (List.mem_filter.1 hg).2
  simpa using List.all_eq_true.1 hall x hx

/-- The current entry is returned CARD_REMOVED and the remaining ones SKIPPED. -/
theorem LostAmong.ends (h : LostAmong i s u t) {e : ActEntry} {rest : List ActEntry} {cb : ControlBlock}
    (hp : s.holdsPlan i e rest cb) (hx : s.unshared i (e :: rest)) (ha : e.act ≠ some .railSample) :
    (∃ pre, s.out ++ pre ++ (s.returnOf cb i e .cardRemoved .empty 0
        ++ rest.flatMap fun x => s.returnOf cb i x .skipped .empty 0) <+: t.out)
      ∧ (t.slot i).ad = AdRec.free ∧ ∀ x ∈ e :: rest, ∀ g ∈ t.ri.inFlight, g.index ≠ x.index := by
  obtain ⟨⟨pre, hout⟩, had, hfl⟩ := State.presenceLost_ends h.seen_state (h.plan hp hx) ha
  obtain ⟨pre₀, hpre₀⟩ := h.before.out
  have hseen : (u.presenceSeen i false).out = s.out ++ pre₀ := hpre₀.symm
  rw [h.returnOf (hx e List.mem_cons_self), hseen, List.append_assoc s.out,
    List.flatMap_congr fun x hxm => h.returnOf (hx x (List.mem_cons_of_mem _ hxm)) cb .skipped .empty 0] at hout
  refine ⟨⟨pre₀ ++ pre, hout.trans h.after.out⟩, by rw [h.after.slot]; exact had, fun x hxm g hg => ?_⟩
  exact State.inFlightBut_apart hxm g (hfl ▸ h.after.flies g hg)

/-- A RAIL_SAMPLE stays in the record and in flight, and the entries after it are returned SKIPPED. -/
theorem LostAmong.stays (h : LostAmong i s u t) {e : ActEntry} {rest : List ActEntry} {cb : ControlBlock}
    (hp : s.holdsPlan i e rest cb) (hx : s.unshared i (e :: rest)) (ha : e.act = some .railSample) :
    (∃ pre, s.out ++ pre ++ (rest.flatMap fun x => s.returnOf cb i x .skipped .empty 0) <+: t.out)
      ∧ (t.slot i).ad = { (s.slot i).ad with cardRemoved := true, remaining := [] }
      ∧ (∃ g ∈ t.ri.inFlight, g.index = e.index) ∧ ∀ x ∈ rest, ∀ g ∈ t.ri.inFlight, g.index ≠ x.index := by
  have hplan := h.plan hp hx
  obtain ⟨⟨pre, hout⟩, had, hfl⟩ := State.presenceLost_stays h.seen_state hplan ha
  obtain ⟨pre₀, hpre₀⟩ := h.before.out
  have hseen : (u.presenceSeen i false).out = s.out ++ pre₀ := hpre₀.symm
  rw [hseen, List.append_assoc s.out,
    List.flatMap_congr fun x hxm => h.returnOf (hx x (List.mem_cons_of_mem _ hxm)) cb .skipped .empty 0] at hout
  rw [h.seen] at had
  obtain ⟨-, -, -, hdistinct, hin⟩ := hplan
  have hstays : ∃ g ∈ ((u.presenceSeen i false).presenceLost i).ri.inFlight, g.index = e.index := by
    obtain ⟨g, hg, hge⟩ := hin e List.mem_cons_self
    refine ⟨g, ?_, hge⟩
    rw [hfl]
    exact List.mem_filter.2 ⟨hg, List.all_eq_true.2 fun x hxm =>
      decide_eq_true (hge ▸ (List.pairwise_cons.1 hdistinct).1 x hxm)⟩
  have hothers : ∀ j, j ≠ i → ¬ (((u.presenceSeen i false).presenceLost i).slot j).ad.holds e.index := fun j hj hh => by
    have hslot : ((u.presenceSeen i false).presenceLost i).slot j = u.slot j :=
      ((State.presenceLost_only _ i).others j hj).trans ((Within.modSense u i _).others j hj)
    rw [hslot] at hh
    exact hx e List.mem_cons_self j hj (h.before.held j _ hh)
  refine ⟨⟨pre₀ ++ pre, hout.trans h.after.out⟩, by rw [h.after.slot]; exact had, h.after.inFlight hothers hstays,
    fun x hxm g hg => ?_⟩
  exact State.inFlightBut_apart hxm g (hfl ▸ h.after.flies g hg)

end

end Sys2Proof.Machine
end

section
/-! PROOFS. Presence accepted at the second sample. -/

namespace Sys2Proof.Machine

open Sys2Proof

/-! ## Presence gained among the samples of the other slots (R63) -/

theorem accepts_iff {raw prev acc : Bool} : accepts raw prev acc = true ↔ raw = prev ∧ raw ≠ acc := by
  simp [accepts]

theorem SenseRec.sampled_unaccepted {x : SenseRec} {raw : Bool} (h : accepts raw x.presPrev x.presAcc = false) :
    x.sampled raw = { x with presPrev := raw } := by
  rw [SenseRec.sampled, h, if_neg (by simp)]

theorem SenseRec.sampled_accepted {x : SenseRec} {raw : Bool} (h : accepts raw x.presPrev x.presAcc = true) :
    x.sampled raw = { x with presAcc := raw } := by
  rw [SenseRec.sampled, h, if_pos rfl, (accepts_iff.1 h).1]

/-- Presence of slot `i` is gained at `u.presenceSeen i true`, with the acts of other slots before and after. -/
structure GainedAmong (i : Slot) (s u t : State) : Prop where
  before : Apart i s u
  after : Apart i ((u.presenceSeen i true).presenceGained i) t
  state : (s.slot i).cs.state = .empty

section
variable {s u t : State} {i : Slot}

theorem GainedAmong.seen (h : GainedAmong i s u t) :
    (u.presenceSeen i true).slot i = { s.slot i with sense := (s.slot i).sense.sampled true } := by
  rw [State.presenceSeen_slot, h.before.slot]

theorem GainedAmong.gains (h : GainedAmong i s u t) : (u.presenceSeen i true).presenceGained i
    = if (s.slot i).pol.autoPowerOn then ((u.presenceSeen i true).cardFound i).bringUp i false
      else (u.presenceSeen i true).cardFound i := by
  have hpol : ((u.presenceSeen i true).slot i).pol = (s.slot i).pol := by
    rw [h.seen]
    rfl
  rw [State.presenceGained_eq (by rw [h.seen]; exact h.state), hpol]

theorem GainedAmong.found (h : GainedAmong i s u t) : ((u.presenceSeen i true).cardFound i).slot i
    = { (s.slot i).found with sense := (s.slot i).sense.sampled true } := by
  rw [State.cardFound_slot, h.seen]
  rfl

/-- Without AUTO_POWER_ON the slot is OFF. -/
theorem GainedAmong.off (h : GainedAmong i s u t) (hauto : (s.slot i).pol.autoPowerOn = false) :
    t.slot i = { (s.slot i).found with sense := (s.slot i).sense.sampled true } := by
  rw [h.after.slot, h.gains, hauto, if_neg (by simp), h.found]

/-- With AUTO_POWER_ON and power-good not accepted the slot is at the entry to RAMP. -/
theorem GainedAmong.ramps (h : GainedAmong i s u t) (hauto : (s.slot i).pol.autoPowerOn = true)
    (hpg : (s.slot i).sense.pgAcc = false) :
    t.slot i = SlotRec.ramping { (s.slot i).found with sense := (s.slot i).sense.sampled true } false := by
  rw [h.after.slot, h.gains, hauto, if_pos rfl, State.bringUp_ramps false (by rw [h.found]; exact hpg), h.found]

theorem GainedAmong.health (h : GainedAmong i s u t) : (t.slot i).hm = (s.slot i).found.hm := by
  rw [h.after.slot, h.gains]
  split
  · rw [(State.bringUp_keeps _ i false).1, h.found]
  · rw [h.found]

theorem GainedAmong.queued (h : GainedAmong i s u t) (hq : queuedFor i s.iq ≤ 1) :
    ∃ x ∈ t.iq, x.slot = i ∧ x.kind = .presenceOn := by
  have hroom : queuedFor i (u.presenceSeen i true).iq < 4 := by
    have hiq : (u.presenceSeen i true).iq = u.iq := rfl
    rw [hiq, h.before.queued]
    omega
  refine h.after.queuedKind ?_
  rw [h.gains]
  split
  · exact (State.bringUp_only _ i false).toWithin.queuedKind (State.cardFound_queued hroom)
  · exact State.cardFound_queued hroom

end

/-! ## The sample of a slot by what it finds (R135, R136) -/

/-- A sample event at a slot whose button is at rest, past the acts of the others before it and with those after it. -/
theorem State.senseSample_rest {s : State} {pins : SensePins} {i : Slot} (htimer : s.sampleTimer = 0)
    (hs : (s.slot i).planSettled) (hraw : pins.attention.getLsbD i.val = false) (hp : (s.slot i).sense.attnPrev = false)
    (ha : (s.slot i).sense.attnAcc = false) :
    ∃ u t : State, exec (.senseSample pins) s = .next t ∧ t.sampleTimer = s.senseInterval ∧ t.senseInterval = s.senseInterval
      ∧ t.tb = s.tb ∧ (t.slot i).policy = (s.slot i).policy
      ∧ Apart i s u ∧ Apart i (u.presenceSample i (pins.presence.getLsbD i.val)) t := by
  obtain ⟨u, t, hexec, ht, hbefore, hafter⟩ := State.senseSample_split (pins := pins) i htimer
  obtain ⟨hwithin, hpolicy⟩ := u.slotSamples_within pins i
  refine ⟨u, t, hexec, ht, hafter.senseInterval.trans (hwithin.senseInterval.trans hbefore.senseInterval),
    hafter.tb.trans (hwithin.tb.trans hbefore.tb), by rw [hafter.slot, hpolicy, hbefore.slot], hbefore, ?_⟩
  rwa [State.slotSamples_rest (by rwa [hbefore.slot]) hraw (by rwa [hbefore.slot]) (by rwa [hbefore.slot])] at hafter

section
variable {s u t : State} {i : Slot} {raw : Bool}

/-- A level that is not accepted is the last one seen, and no more. -/
theorem Apart.unaccepted (hb : Apart i s u) (ha : Apart i (u.presenceSample i raw) t)
    (h : raw ≠ (s.slot i).sense.presPrev ∨ raw = (s.slot i).sense.presAcc) :
    t.slot i = { s.slot i with sense := { (s.slot i).sense with presPrev := raw } } := by
  have hno : accepts raw (s.slot i).sense.presPrev (s.slot i).sense.presAcc = false := by
    rw [← Bool.not_eq_true, accepts_iff]
    exact fun k => h.elim (fun hn => hn k.1) k.2
  rw [ha.slot, State.presenceSample_eq, hb.slot, hno, if_neg (by simp), State.presenceSeen_slot, hb.slot,
    SenseRec.sampled_unaccepted hno]

theorem LostAmong.of_sample (hb : Apart i s u) (ha : Apart i (u.presenceSample i false) t)
    (hp : (s.slot i).sense.presPrev = false) (hacc : (s.slot i).sense.presAcc = true)
    (hst : (s.slot i).cs.state ≠ .empty) : LostAmong i s u t := by
  rw [State.presenceSample_eq, hb.slot, hp, hacc, if_pos (by decide), if_neg (by simp)] at ha
  exact ⟨hb, ha, hst⟩

theorem GainedAmong.of_sample (hb : Apart i s u) (ha : Apart i (u.presenceSample i true) t)
    (hp : (s.slot i).sense.presPrev = true) (hacc : (s.slot i).sense.presAcc = false)
    (hst : (s.slot i).cs.state = .empty) : GainedAmong i s u t := by
  rw [State.presenceSample_eq, hb.slot, hp, hacc, if_pos (by decide), if_pos rfl] at ha
  exact ⟨hb, ha, hst⟩

/-- The sense record after the sample. -/
theorem Apart.sampled (hb : Apart i s u) (ha : Apart i (u.presenceSample i raw) t) :
    (t.slot i).sense = (s.slot i).sense.sampled raw := by
  rw [ha.slot, State.presenceSample_sense, hb.slot]

theorem State.unshared_of {e : ActEntry} {rest : List ActEntry}
    (h : ∀ j, j ≠ i → ∀ y ∈ (s.slot j).ad.current.toList ++ (s.slot j).ad.remaining, ∀ x ∈ e :: rest, y.index ≠ x.index) :
    s.unshared i (e :: rest) := fun x hx j hj hh => by
  obtain ⟨y, hy, hyx⟩ := hh
  exact h j hj y hy x hx hyx

end

/-! ## The statement -/

/-- Settles O31: the samples of a slot with its button at rest are its presence sample, and the other slots change neither
its record, its operations nor its entries in flight. -/
theorem presenceIsAcceptedAtTheSecondSample : Obligations.PresenceIsAcceptedAtTheSecondSample := by
  intro s pins i
  dsimp only
  intro htimer hsettled hattn hprev hacc
  obtain ⟨u, t, hexec, ht, hinterval, htb, hpolicy, hb, ha⟩ := State.senseSample_rest htimer hsettled hattn hprev hacc
  have hsense := hb.sampled ha
  generalize pins.presence.getLsbD i.val = raw at ha hsense ⊢
  refine ⟨t, hexec, ht, hinterval, htb, hpolicy, hb.unaccepted ha, ?_, ?_⟩
  · rintro rfl hpp hpa hst
    have hlost := LostAmong.of_sample hb ha hpp hpa hst
    rw [SenseRec.sampled_accepted (accepts_iff.2 ⟨hpp.symm, by rw [hpa]; decide⟩)] at hsense
    obtain ⟨a, hslot⟩ := hlost.slot
    refine ⟨hsense, by rw [hslot]; rfl, by rw [hslot]; rfl, fun k => by rw [hslot]; exact TtRec.freeAll_entry _ k,
      by rw [hslot]; rfl, by rw [hslot]; rfl, by rw [hslot]; rfl, by rw [hslot]; rfl, hlost.ops, fun hr hc => ?_,
      fun e rest cb hp hx => ⟨hlost.ends hp (State.unshared_of hx), hlost.stays hp (State.unshared_of hx)⟩,
      fun p hp => hlost.header hp, hlost.signals, hlost.queued⟩
    rw [hlost.frees hr hc]
    exact ⟨rfl, rfl⟩
  · rintro rfl hpp hpa hst
    have hgained := GainedAmong.of_sample hb ha hpp hpa hst
    rw [SenseRec.sampled_accepted (accepts_iff.2 ⟨hpp.symm, by rw [hpa]; decide⟩)] at hsense
    refine ⟨hsense, hgained.health, hgained.queued, fun hauto => ?_, fun hauto hpg => ?_⟩
    · rw [hgained.off hauto]
      exact ⟨rfl, rfl⟩
    · rw [hgained.ramps hauto hpg]
      exact ⟨rfl, rfl, rfl, rfl⟩

end Sys2Proof.Machine
end

section
/-! PROOFS. Fences by the score and by a fatal error that a warm cycle follows to its end: the statements that ask for CUT
of them fail. -/

namespace Sys2Proof.Machine

open Sys2Proof

/-! ## A fence that HM or CTF triggers, with nothing to drain and no duration to wait for -/

/-- The slot of `SlotRec.instant` in ONLINE with AUTO_CONTAIN and FATAL_FENCE set, WATCHED, its score 8 below the fence
threshold. -/
def SlotRec.instantFencing : SlotRec :=
  { SlotRec.instant .online .none SlotRec.reset.tt with
    policy := some { Policy.instant with autoContain := true, fatalFence := true }
    hm := { score := 72, watched := true, alert := false, firstExpiry := false } }

def State.instantFencing : State := State.reset.setSlot 0 SlotRec.instantFencing

theorem State.instantFencing_slot : State.instantFencing.slot 0 = SlotRec.instantFencing := State.setSlot_slot_self _ _ _

theorem State.instantFencing_watchFollows : State.instantFencing.watchFollows := by
  intro i
  fin_cases i <;> rfl

/-- An error message whose fence finds nothing to drain leads the slot to TRAINING. -/
theorem cardError_trains {v : Severity} {t : State} (hv : v ≠ .correctable)
    (h : exec (.cardRequest 0 (.error v)) State.instantFencing = .next t) : (t.slot 0).ctf.cls = .hold := by
  cases v with
  | correctable => exact absurd rfl hv
  | nonfatal =>
    cases h
    decide
  | fatal =>
    cases h
    decide

/-- Refutes O16: with FATAL_FENCE set, nothing to drain, an isolation lead of 0 and neither a reset hold nor a release lag,
the fatal error message takes a slot in ONLINE through the whole warm cycle to TRAINING in one event; its class is then HOLD,
where `drainedNow` has CUT. -/
theorem not_cardErrorsAreScoredBySeverity : ¬ Obligations.CardErrorsAreScoredBySeverity := by
  intro h
  obtain ⟨-, hheard⟩ := h State.instantFencing 0 rfl (fun _ => rfl) rfl
  obtain ⟨-, -, -, -, -, hdrained⟩ := hheard (by decide)
  obtain ⟨t, ht, -, -, hnow⟩ := hdrained rfl (Or.inl rfl) (Or.inl rfl)
  have hcut := SlotRec.drainedNow_cut (hnow rfl) (by decide)
  rw [cardError_trains (by decide) ht] at hcut
  cases hcut

/-- Refutes O17: the nonfatal error message that brings the score of the same slot to the fence threshold takes it to
TRAINING in one event in the same way; its class is then HOLD, where `drainedNow` has CUT. -/
theorem not_thresholdCrossedByState : ¬ Obligations.ThresholdCrossedByState := by
  rintro ⟨h, -⟩
  obtain ⟨t, ht, -, -, -, -, hdrained⟩ := h State.instantFencing 0
    { Policy.instant with autoContain := true, fatalFence := true } rfl (fun _ => rfl) rfl (Or.inl rfl) (by decide)
    (by decide) (by decide) (by decide)
  obtain ⟨-, hnow⟩ := hdrained State.instantFencing_watchFollows rfl (Or.inl rfl)
  have hcut := SlotRec.drainedNow_cut (hnow rfl) (by decide)
  rw [cardError_trains (by decide) ht] at hcut
  cases hcut

end Sys2Proof.Machine
end

section
/-! PROOFS. Card memory writes and reads by class, with the blocked access of a calm slot. -/

namespace Sys2Proof.Machine

open Sys2Proof

/-! ## The windows and the bus range that CTF compares with (R121, R125) -/

theorem RiRec.inInterruptWindow_iff (r : RiRec) (a : Addr) : r.inInterruptWindow a = true ↔
    ∃ c, r.cb = some c ∧ c.intBase.toNat ≤ a.toNat ∧ a.toNat < c.intBase.toNat + c.intSize := by
  unfold RiRec.inInterruptWindow
  cases r.cb <;> simp

theorem Policy.permits_iff (p : Policy) (a : Addr) (n : Nat) : p.permits a n = true ↔
    ∃ v ∈ p.permitWindows, v.base.toNat ≤ a.toNat ∧ a.toNat + 4 * n ≤ v.base.toNat + v.size := by
  simp [Policy.permits, Window.holds]

theorem State.ownsBus_iff (s : State) (i : Slot) (b : BitVec 8) : s.ownsBus i b = true ↔
    ∃ p, (s.slot i).policy = some p ∧ p.busFirst.toNat ≤ b.toNat ∧ b.toNat ≤ p.busLast.toNat := by
  unfold State.ownsBus
  cases (s.slot i).policy <;> simp [Policy.hasBus]

/-! ## What CTF does with an access by class (R122 to R127) -/

/-- A card request whose work returns nothing, with the end of its event. -/
theorem exec_cardRequest {s u : State} {i : Slot} {q : CardRequest} (hs : s.summaryInLine) (hp : (s.slot i).planSettled)
    (h : s.cardRequest i q = u) (hri : u.ri = s.ri) (had : (u.slot i).ad = (s.slot i).ad) :
    exec (.cardRequest i q) s = .next u := by
  subst h
  exact next_close hs hp rfl hri had

theorem State.cardWrite_forwarded {s : State} {i : Slot} {w : CardWrite} (h : (s.slot i).ctf.cls = .opened
    ∨ (s.slot i).ctf.cls = .permit
      ∧ (s.ri.inInterruptWindow w.addr = true ∨ (s.slot i).pol.permits w.addr w.data.length = true)) :
    s.cardWrite i w = s.emit (.cardWriteUp i w) := by
  unfold State.cardWrite
  rcases h with h | ⟨h, hw⟩
  · rw [h]
  · rw [h]
    cases hint : s.ri.inInterruptWindow w.addr with
    | true => rfl
    | false => exact if_pos (hw.resolve_left (by simp [hint]))

theorem State.cardWrite_blocked {s : State} {i : Slot} {w : CardWrite} (h : (s.slot i).ctf.cls = .permit)
    (hint : s.ri.inInterruptWindow w.addr = false) (hw : (s.slot i).pol.permits w.addr w.data.length = false) :
    s.cardWrite i w = s.blocked i w.addr 1 w.data.length := by
  unfold State.cardWrite
  rw [h, hint]
  exact if_neg (by rw [State.pol, hw]; simp)

theorem State.cardWrite_kept {s : State} {i : Slot} {w : CardWrite} (h : (s.slot i).ctf.cls = .hold)
    (hint : s.ri.inInterruptWindow w.addr = true) :
    s.cardWrite i w = s.setSlot i { s.slot i with ctf := { (s.slot i).ctf with holdover := some w } } := by
  unfold State.cardWrite
  rw [h, hint]
  rfl

theorem State.cardWrite_dropped {s : State} {i : Slot} {w : CardWrite}
    (h : (s.slot i).ctf.cls = .hold ∧ s.ri.inInterruptWindow w.addr = false ∨ (s.slot i).ctf.cls = .cut) :
    s.cardWrite i w = s := by
  unfold State.cardWrite
  rcases h with ⟨h, hint⟩ | h
  · rw [h, hint]
  · rw [h]

theorem State.cardRead_forwarded {s : State} {i : Slot} {q : Requester} {a : Addr} {n : Nat}
    (hown : s.ownsBus i q.bus = true) (h : (s.slot i).ctf.cls = .opened
      ∨ (s.slot i).ctf.cls = .permit ∧ (s.slot i).pol.permits a n = true) :
    s.cardRead i q a n = s.emit (.cardReadUp i q a n) := by
  unfold State.cardRead
  rw [if_pos hown]
  rcases h with h | ⟨h, hw⟩
  · rw [h]
  · rw [h]
    exact if_pos hw

theorem State.cardRead_refused {s : State} {i : Slot} {q : Requester} {a : Addr} {n : Nat}
    (h : s.ownsBus i q.bus = false ∨ (s.slot i).ctf.cls = .hold ∨ (s.slot i).ctf.cls = .cut) :
    s.cardRead i q a n = s.emit (.refuseDown i q) := by
  unfold State.cardRead
  split
  next hown =>
    rcases h with h | h | h
    · simp [h] at hown
    · rw [h]
    · rw [h]
  next => rfl

theorem State.cardRead_blocked {s : State} {i : Slot} {q : Requester} {a : Addr} {n : Nat}
    (hown : s.ownsBus i q.bus = true) (h : (s.slot i).ctf.cls = .permit) (hw : (s.slot i).pol.permits a n = false) :
    s.cardRead i q a n = (s.emit (.refuseDown i q)).blocked i a 0 n := by
  unfold State.cardRead
  rw [if_pos hown, h]
  exact if_neg (by rw [State.pol, hw]; simp)

/-! ## A blocked access of a calm slot (R126) -/

/-- HM's checks after an event that is no deadline expiry, where the score stays below every threshold and nothing is held. -/
theorem State.scoreChecks_below {u : State} {i : Slot} {p : Policy} {e : ScoreEvent} (old : Nat)
    (hx : ∀ k q, e ≠ .deadlineExpiry k q) (hp : (u.slot i).policy = some p) (hw : (u.slot i).hm.score < p.watchT)
    (hf : (u.slot i).hm.score < p.fenceT) (hb : (u.slot i).hm.score < p.probT) (hd : (u.slot i).hm.watched = false)
    (hh : (u.slot i).tt.hold = []) :
    u.scoreChecks i e old
      = u.setSlot i (SlotRec.reported { u.slot i with hm := (u.slot i).hm.compared p } e.positive) := by
  have hnote : u.noteExpiry i e = u := by
    cases e with
    | deadlineExpiry k q => exact absurd rfl (hx k q)
    | _ => rfl
  unfold State.scoreChecks
  rw [hnote, State.checks_stand (p := p) e hp ((decide_eq_false (by omega)).trans hd.symm)
    (SlotRec.uncrossed_of_lt hf hb)]
  exact State.promote_still (Or.inl (by rw [State.setSlot_slot_self]; exact hh))

/-- The record of a slot whose access was blocked, before HM's checks. -/
def SlotRec.noteBlocked (r : SlotRec) : SlotRec :=
  { r with hm := { r.hm with score := r.hm.score + 8 }, ctf := { r.ctf with dmaReported := true } }

/-- The queue after a blocked access: DMA_BLOCKED for the first one of the stay. -/
def State.blockedQueue (s : State) (i : Slot) (a : Addr) (kind n : Nat) : List Incident :=
  if (s.slot i).ctf.dmaReported then s.iq
  else
    iwTake
      { slot := i, kind := .dmaBlocked, state := (s.slot i).cs.state, timestamp := s.tb.counter
        score := (s.slot i).hm.score + 8, attempts := (s.slot i).cs.attempts, trigger := (s.slot i).cs.trigger
        mergedCount := 0, merged := 0, countA := n, countB := kind, detail := a }
      s.iq

theorem State.weigh_blocked {s : State} {i : Slot} (hmax : (s.slot i).hm.score + 8 ≤ 1023) :
    s.weigh i .blocked
      = s.setSlot i { s.slot i with hm := { (s.slot i).hm with score := (s.slot i).hm.score + 8 } } := by
  have hscore : ScoreEvent.blocked.apply (s.slot i).hm.score = (s.slot i).hm.score + 8 := Nat.min_eq_right hmax
  rw [← hscore]
  rfl

/-- CTF's report of a blocked access stands before HM's checks. -/
theorem State.blocked_eq {s : State} {i : Slot} (a : Addr) (kind n : Nat) (hmax : (s.slot i).hm.score + 8 ≤ 1023) :
    s.blocked i a kind n = State.scoreChecks
      { s.setSlot i (s.slot i).noteBlocked with iq := s.blockedQueue i a kind n } i .blocked (s.slot i).hm.score := by
  unfold State.blocked State.scoreWith
  dsimp only
  rw [State.weigh_blocked hmax, State.setSlot_slot_self]
  congr 1
  unfold State.blockedQueue
  cases hr : (s.slot i).ctf.dmaReported with
  | true =>
    have hctf : (s.slot i).ctf = { (s.slot i).ctf with dmaReported := true } := by rw [← hr]
    rw [if_pos rfl, if_pos rfl, SlotRec.noteBlocked, ← hctf]
    rfl
  | false =>
    rw [if_neg (by simp), if_neg (by simp), State.modSlot_eq, State.raise_slot, State.setSlot_slot_self, State.raise,
      State.incident, State.setSlot_slot_self]
    simp only [State.setSlot, Vector.set_set]
    rfl

/-- A blocked access that crosses no threshold. -/
theorem State.blocked_calm {s : State} {i : Slot} (a : Addr) (kind n : Nat) (hh : (s.slot i).tt.hold = [])
    (hc : (s.slot i).calm 8) :
    s.blocked i a kind n = { s.setSlot i { (s.slot i).scored 8 with ctf := { (s.slot i).ctf with dmaReported := true } } with
      iq := s.blockedQueue i a kind n } := by
  obtain ⟨p, hp, hw, hf, hb, hmax, hd⟩ := hc
  have hslot : State.slot { s.setSlot i (s.slot i).noteBlocked with iq := s.blockedQueue i a kind n } i
      = (s.slot i).noteBlocked := State.setSlot_slot_self s i _
  have hscored : SlotRec.reported { (s.slot i).noteBlocked with hm := (s.slot i).noteBlocked.hm.compared p }
      ScoreEvent.blocked.positive = { (s.slot i).scored 8 with ctf := { (s.slot i).ctf with dmaReported := true } } :=
    SlotRec.scored_eq (r := { s.slot i with ctf := { (s.slot i).ctf with dmaReported := true } }) hw hf hd
  rw [State.blocked_eq a kind n hmax, State.scoreChecks_below (p := p) _ (by simp) (by rw [hslot]; exact hp)
    (by rw [hslot]; exact hw) (by rw [hslot]; exact hf) (by rw [hslot]; exact hb) (by rw [hslot]; exact hd)
    (by rw [hslot]; exact hh), hslot, hscored]
  simp only [State.setSlot, Vector.set_set]

/-- In PROBATION the rise of the score is the one that QUIET mode sees. -/
theorem SlotRec.scored_probation {r : SlotRec} (n : Nat) (h : r.cs.state = .probation) :
    (r.scored n).cs = { r.cs with probCount := if r.cs.probMode = .quiet then r.pol.probQuiet else r.cs.probCount } := by
  simp only [SlotRec.scored, h, true_and]

/-! ## The statements -/

/-- Settles O18, by the class of the slot and the windows. -/
theorem cardWritesByClass : Obligations.CardWritesByClass := by
  intro s i w
  dsimp only
  intro hs hp
  rw [← RiRec.inInterruptWindow_iff, ← Policy.permits_iff, Bool.not_eq_true, Bool.not_eq_true]
  refine ⟨fun h => ?_, fun h hint => ?_, fun h => ?_, fun h hint hout hst hh hc => ?_⟩
  · exact exec_cardRequest hs hp (State.cardWrite_forwarded h) rfl rfl
  · exact exec_cardRequest hs hp (State.cardWrite_kept h hint) rfl (by rw [State.setSlot_slot_self])
  · exact exec_cardRequest hs hp (State.cardWrite_dropped h) rfl rfl
  · rw [← SlotRec.scored_probation 8 hst, ← hst]
    exact exec_cardRequest hs hp ((State.cardWrite_blocked h hint hout).trans (State.blocked_calm _ _ _ hh hc)) rfl
      ((congrArg SlotRec.ad (State.setSlot_slot_self s i _)).trans rfl)

/-- Settles O19, by the bus number, the class of the slot and the permit windows. -/
theorem cardReadsByClass : Obligations.CardReadsByClass := by
  intro s i q a n
  dsimp only
  intro hs hp
  rw [← State.ownsBus_iff, ← Policy.permits_iff, Bool.not_eq_true, Bool.not_eq_true]
  refine ⟨fun hown h => ?_, fun h => ?_, fun hown h hout hst hh hc => ?_⟩
  · exact exec_cardRequest hs hp (State.cardRead_forwarded hown h) rfl rfl
  · exact exec_cardRequest hs hp (State.cardRead_refused h) rfl rfl
  · rw [← SlotRec.scored_probation 8 hst, ← hst]
    exact exec_cardRequest hs hp ((State.cardRead_blocked hown h hout).trans (State.blocked_calm _ _ _ hh hc)) rfl
      ((congrArg SlotRec.ad (State.setSlot_slot_self s i _)).trans rfl)

end Sys2Proof.Machine
end

section
/-! PROOFS. The end of probation by the quiet count. -/

namespace Sys2Proof.Machine

open Sys2Proof

/-! ## The end of probation with requests held (R59) -/

/-- Promotion changes TT's record alone and adds the requests that it sends down; with nothing held it does nothing. -/
theorem State.promote_sends (s : State) (i : Slot) : ∃ (t : TtRec) (pre : List Output),
    s.promote i = (s.setSlot i ((s.slot i).setTt t)).emits pre
      ∧ ((s.slot i).tt.hold = [] → t = (s.slot i).tt ∧ pre = []) := by
  by_cases hh : (s.slot i).tt.hold = []
  · refine ⟨(s.slot i).tt, [], ?_, fun _ => ⟨rfl, rfl⟩⟩
    rw [State.promote_still (Or.inl hh), State.emits_nil]
    exact (s.setSlot_self i).symm
  · obtain ⟨-, t, ht⟩ := promoteLoop_path i false 0 (s.slot i).tt.hold.length (s.slot i)
    refine ⟨t, (promoteLoop i (s.slot i).tt.hold.length (s.slot i)).2, ?_, fun h => absurd h hh⟩
    rw [← ht]
    rfl

theorem State.goneOnline_discard (s : State) (i : Slot) :
    (((s.enter i .online).modSlot i fun r => r.clearScore.clearFirstExpiry).slot i).tt.discard = (s.slot i).tt.discard := by
  rw [State.modSlot_slot_self, State.enter_slot_self]
  rfl

/-- The end of probation is the entry to ONLINE, the promotion under the new limit, and the return of what waits for it. -/
theorem State.probationEnd_eq (s : State) (i : Slot) :
    s.probationEnd i = ((s.goneOnline i).promote i).onEntry i .online (s.slot i).cs.attempts := by
  unfold State.probationEnd
  dsimp only
  rw [State.goneOnline_discard]
  rfl

/-- RECOVERED is raised with the score cleared and the attempts still those used. -/
theorem State.goneOnline_recovered {s : State} {i : Slot} (hq : queuedFor i s.iq ≤ 3) :
    ∃ x ∈ (s.goneOnline i).iq, x.slot = i ∧ x.kind = .recovered ∧ x.state = .online ∧ x.score = 0
      ∧ x.attempts = (s.slot i).cs.attempts ∧ x.trigger = (s.slot i).cs.trigger ∧ x.countA = (s.slot i).tt.discard := by
  refine ⟨_, State.mem_raise .recovered (s.slot i).tt.discard 0 0 hq, rfl, rfl, ?_⟩
  unfold State.incident
  rw [State.modSlot_slot_self, State.enter_slot_self]
  exact ⟨rfl, rfl, rfl, rfl, rfl⟩

theorem exec_quietExpiry {s : State} {i : Slot} (hst : (s.slot i).cs.state = .probation)
    (hm : (s.slot i).cs.probMode = .quiet) (hc : (s.slot i).cs.probCount = 0) :
    exec (.probationQuietExpiry i) s = .next ((s.probationEnd i).close i) := by
  have h : s.quietCount i = s.probationEnd i := if_pos ⟨hst, hm, hc⟩
  rw [← h]
  rfl

/-- `u` is the slot of `s` gone to ONLINE and promoted, which set TT's record to `t` and sent `pre` down, before AD returns
what waits for it. -/
structure WentOnline (i : Slot) (s u : State) (t : TtRec) (pre : List Output) : Prop where
  slot : u.slot i = ((s.goneOnline i).slot i).setTt t
  ri : u.ri = s.ri
  tb : u.tb = s.tb
  iq : u.iq = (s.goneOnline i).iq
  out : u.out = s.out ++ pre

theorem State.promote_wentOnline (s : State) (i : Slot) : ∃ (t : TtRec) (pre : List Output),
    WentOnline i s ((s.goneOnline i).promote i) t pre
      ∧ ((s.slot i).tt.hold = [] → t = (s.slot i).tt ∧ pre = []) := by
  obtain ⟨t, pre, hpromote, hnone⟩ := (s.goneOnline i).promote_sends i
  rw [State.goneOnline_slot s i] at hnone
  refine ⟨t, pre, ?_, hnone⟩
  rw [hpromote]
  exact ⟨by rw [State.emits_slot, State.setSlot_slot_self], rfl, rfl, rfl, rfl⟩

/-- The return at the entry to ONLINE, as it is seen from before the end of probation. -/
theorem WentOnline.arrived {i : Slot} {s u : State} {t : TtRec} {pre : List Output} (h : WentOnline i s u t pre) (n : Nat) :
    s.arrived (u.onEntry i .online n).align pre i .online n 0 := by
  have hslot := h.slot
  rw [State.goneOnline_slot] at hslot
  have harrived := State.onEntry_arrived u i n
  rw [hslot] at harrived
  obtain ⟨hout, hflight, hcauses, had⟩ := (u.onEntry i .online n).align_arrives i
  refine State.arrived_of harrived (by rw [hslot]; rfl) h.ri h.tb h.out hout hflight hcauses had fun k o hko hk => ?_
  rcases hk with rfl | rfl <;> simp [entryReturns] at hko

/-- Settles O27: the promotion changes TT's record alone, and the return only AD's. -/
theorem quietExpiryEndsProbation : Obligations.QuietExpiryEndsProbation := by
  intro s i
  dsimp only
  intro _ hd hst hm hc
  refine ⟨_, exec_quietExpiry hst hm hc, ?_⟩
  rw [State.probationEnd_eq]
  obtain ⟨t, pre, honline, hnone⟩ := s.promote_wentOnline i
  generalize (s.goneOnline i).promote i = u at honline ⊢
  have hu := honline.slot
  rw [State.goneOnline_slot] at hu
  have hreturns := u.onEntry_returns i .online (s.slot i).cs.attempts
  rw [State.close_ended (hreturns.done (by rw [hu]; exact hd)).settled]
  have hclose := hreturns.trans (State.align_returns _ i)
  have hslot := hclose.slot
  rw [hu] at hslot
  refine ⟨by rw [hslot]; rfl, by rw [hslot]; rfl, by rw [hslot]; rfl, by rw [hslot]; rfl, fun hh => ?_,
    ⟨pre, fun hh => (hnone hh).2, honline.arrived _⟩, fun hq => ?_⟩
  · rw [hslot]
    exact (hnone hh).1
  · rw [hclose.iq, honline.iq]
    exact State.goneOnline_recovered hq

end Sys2Proof.Machine
end

section
/-! PROOFS. Ends of a drain and short presses that a warm cycle follows to its end: the statements that ask for CUT of them
fail. -/

namespace Sys2Proof.Machine

open Sys2Proof

/-! ## The end of a drain with no duration to wait for -/

/-- A slot of kind WARM whose drain timer stands at 0; its policy has neither an isolation lead nor a reset hold nor a
release lag. -/
def SlotRec.instantDrained : SlotRec :=
  { SlotRec.instant .fenced .warm SlotRec.reset.tt with
    cs := { (SlotRec.instant .fenced .warm SlotRec.reset.tt).cs with drain := some 0 } }

def State.instantDrained : State := State.reset.setSlot 0 SlotRec.instantDrained

theorem State.instantDrained_slot : State.instantDrained.slot 0 = SlotRec.instantDrained := State.setSlot_slot_self _ _ _

/-- The end of the drain leads the slot to TRAINING. -/
theorem drainTimerExpiry_trains {t : State} (h : exec (.drainTimerExpiry 0) State.instantDrained = .next t) :
    (t.slot 0).ctf.cls = .hold := by
  cases h
  decide

/-- Refutes O22: with an isolation lead of 0 and neither a reset hold nor a release lag, the end of the drain takes a slot of
kind WARM through ISOLATE, ASSERT and RECONNECT to TRAINING in one event; its class is then HOLD, where `drainedNow` has
CUT. -/
theorem not_drainEndChoosesThePath : ¬ Obligations.DrainEndChoosesThePath := by
  intro h
  obtain ⟨-, hnow⟩ := h State.instantDrained 0 rfl (fun _ => rfl) rfl rfl
  obtain ⟨t, ht, hd, -⟩ := hnow rfl
  have hcut := SlotRec.drainedNow_cut hd (by rw [State.instantDrained_slot]; decide)
  rw [drainTimerExpiry_trains ht] at hcut
  cases hcut

/-! ## A short press with nothing to drain and no duration to wait for -/

/-- A slot in ONLINE with ATTENTION set, whose button has been seen released once after a press of no width. -/
def SlotRec.instantPressed : SlotRec :=
  { SlotRec.instant .online .none SlotRec.reset.tt with
    policy := some { Policy.instant with attention := true, attnLong := 2 }
    sense := { SlotRec.reset.sense with attnAcc := true } }

def State.instantPressed : State :=
  { State.reset.setSlot 0 SlotRec.instantPressed with sampleTimer := 0 }

/-- Pins with every level at 0 and every attention sample after the presence sample. -/
def SensePins.allLow : SensePins := { presence := 0, attention := 0, attentionFirst := 0, order := [] }

theorem State.instantPressed_slot : State.instantPressed.slot 0 = SlotRec.instantPressed := State.setSlot_slot_self _ _ _

/-- The release of the press leads the slot to TRAINING. -/
theorem release_trains {t : State} (h : exec (.senseSample SensePins.allLow) State.instantPressed = .next t) :
    (t.slot 0).ctf.cls = .hold := by
  have ht : t = (State.instantPressed.senseSample SensePins.allLow).align := (Host.Outcome.next.inj h).symm
  rw [ht]
  decide +kernel

/-- Refutes O32: with ATTENTION set, nothing to drain, an isolation lead of 0 and neither a reset hold nor a release lag, the
short press of a slot in ONLINE whose automatic kind is WARM takes the warm cycle to TRAINING in one event; its class is then
HOLD, where `drainedNow` has CUT. -/
theorem not_pressesActByLength : ¬ Obligations.PressesActByLength := by
  rintro ⟨h, -⟩
  obtain ⟨t, ht, -, -, -, -, hnow⟩ := h State.instantPressed SensePins.allLow 0 rfl (fun _ => rfl) rfl rfl rfl rfl rfl
    (by decide)
  obtain ⟨-, hd⟩ := hnow (by decide) rfl (Or.inl rfl) (Or.inl rfl)
  have hcut := SlotRec.drainedNow_cut (hd rfl) (by rw [State.instantPressed_slot]; decide)
  rw [release_trains ht] at hcut
  cases hcut

end Sys2Proof.Machine
end

section
/-! PROOFS. A failed attempt: its incidents, its outputs, and the slot's record; the ramp at its maximum and the training
timeout. -/

namespace Sys2Proof.Machine

open Sys2Proof

/-! ## A failed attempt (R51, R80) -/

theorem State.cancelOp_rest (s : State) (i : Slot) :
    (s.cancelOp i).iq = s.iq ∧ (s.cancelOp i).signals = s.signals := by
  obtain ⟨hiq, hsignals⟩ := s.seDrop_rest i
  unfold State.cancelOp
  dsimp only
  split
  · have hret := (s.seDrop i).endEntry_returns i .overtaken 0
    exact ⟨hret.iq.trans hiq, hret.signals.trans hsignals⟩
  · exact ⟨hiq, hsignals⟩

/-- An update of PRU's record that leaves the four outputs drives none of them. -/
theorem State.modPru_still {s : State} {i : Slot} {f : PruRec → PruRec}
    (hiso : (f (s.slot i).pru).isoOpen = (s.slot i).pru.isoOpen)
    (hasserted : (f (s.slot i).pru).asserted = (s.slot i).pru.asserted)
    (hpower : (f (s.slot i).pru).power = (s.slot i).pru.power)
    (hbleed : (f (s.slot i).pru).bleed = (s.slot i).pru.bleed) : (s.modPru i f).signals = s.signals := by
  rw [State.modPru_signals, signalChanges_nil _ _ _ hiso hasserted hpower hbleed, List.append_nil]

/-- From outputs that are up, the shutdown path makes the four changes of R68. -/
theorem State.shutdown_signals {s : State} {i : Slot} (h : (s.slot i).pru.up) :
    (s.shutdown i).signals = s.signals ++ powerOffSignals i := by
  obtain ⟨hpower, hasserted, hiso, hbleed⟩ := h
  have hslot : (s.modPru i fun p => { p with sequence := .shutdown }).slot i
      = { s.slot i with pru := { (s.slot i).pru with sequence := .shutdown } } := State.modPru_slot_self _ _ _
  have hsignals : (s.shutdown i).signals = (s.modPru i fun p => { p with sequence := .shutdown }).signals
      ++ signalChanges i ((s.modPru i fun p => { p with sequence := .shutdown }).slot i).pru
        (((s.modPru i fun p => { p with sequence := .shutdown }).slot i).pru.powerOff
          ((s.modPru i fun p => { p with sequence := .shutdown }).pol i).bleedWait) := rfl
  rw [hsignals, hslot, State.modPru_still rfl rfl rfl rfl]
  simp [signalChanges, PruRec.powerOff, powerOffSignals, hpower, hasserted, hiso, hbleed]

/-- The incident of a failed attempt is the only one that it takes. -/
theorem State.failAttempt_takes (s : State) (i : Slot) (cause index : Nat) : (s.failAttempt i cause index).iq
    = iwTake (s.incident i .recoveryFailed (s.slot i).tt.discard (s.slot i).cs.state.code (detailOf cause index)) s.iq :=
  (State.cancelOp_rest _ i).1

theorem State.failChecked_signals (s : State) (i : Slot) (cause index : Nat) :
    (s.failChecked i cause index).signals = s.signals := (State.cancelOp_rest _ i).2

theorem State.failAttempt_signals {s : State} {i : Slot} (cause index : Nat) (h : (s.slot i).pru.up) :
    (s.failAttempt i cause index).signals = s.signals ++ powerOffSignals i := by
  rw [State.failAttempt_eq, State.shutdown_signals (by rw [State.failChecked_slot]; exact h), State.failChecked_signals]

theorem State.failAttempt_settled {s : State} {i : Slot} (cause index : Nat) (h : (s.slot i).planSettled) :
    ((s.failAttempt i cause index).slot i).planSettled := by
  rw [State.failAttempt_slot]
  exact State.failChecked_settled cause index h

/-- The slot record after a failed attempt: the attempt check, in BLEEDING (R51). -/
theorem SlotRec.failed_cs (r : SlotRec) : r.failed.cs =
    { r.cs with
      state := .bleeding, kind := .cold, drain := none
      target := if r.pol.maxAttempts ≤ r.cs.attempts then .retired else .none
      retryPending := if r.pol.maxAttempts ≤ r.cs.attempts then r.cs.retryPending else true } := by
  change { r.cs.failCheck r.pol.maxAttempts with state := .bleeding } = _
  unfold CsRec.failCheck
  split <;> rfl

theorem SlotRec.failed_pru (r : SlotRec) : r.failed.pru =
    { r.pru with
      isoOpen := true, asserted := true, power := false, bleed := true, rail := .down, rechecks := 0, lastReading := 0
      timer := some r.pol.bleedWait, phase := .bleedWait, sequence := .shutdown, rampDue := false } := rfl

theorem SlotRec.failed_dark (r : SlotRec) : r.failed.pru.dark := ⟨rfl, rfl, rfl⟩

/-! ## A ramp fault (R76) -/

/-- The incidents of a ramp fault: RAIL_FAULT with the count, then RECOVERY_FAILED of the attempt. -/
theorem State.rampFault_incidents {s : State} {i : Slot} (k : RailFault) (h : queuedFor i s.iq ≤ 2) :
    s.incident i .railFault (s.slot i).pru.rampCount 0 (detailOf k.code 0) ∈ (s.rampFault i k).iq
      ∧ s.incident i .recoveryFailed (s.slot i).tt.discard (s.slot i).cs.state.code (detailOf 1 0)
        ∈ (s.rampFault i k).iq := by
  have hone := queuedFor_iwTake_le (s.incident i .railFault (s.slot i).pru.rampCount 0 (detailOf k.code 0)) s.iq i
  have htakes : (s.rampFault i k).iq = iwTake
      (s.incident i .recoveryFailed (s.slot i).tt.discard (s.slot i).cs.state.code (detailOf 1 0))
      (iwTake (s.incident i .railFault (s.slot i).pru.rampCount 0 (detailOf k.code 0)) s.iq) :=
    State.failAttempt_takes (s.raise i .railFault (s.slot i).pru.rampCount 0 (detailOf k.code 0)) i 1 0
  rw [htakes]
  refine ⟨mem_iwTake ?_ (mem_iwTake_self ?_), mem_iwTake_self ?_⟩
  all_goals
    change queuedFor i _ < 4
    omega

theorem State.rampFault_signals {s : State} {i : Slot} (k : RailFault) (h : (s.slot i).pru.up) :
    (s.rampFault i k).signals = s.signals ++ powerOffSignals i :=
  State.failAttempt_signals (s := s.raise i .railFault (s.slot i).pru.rampCount 0 (detailOf k.code 0)) 1 0 h

/-! ## RAMP_SLOW and the training timeout (R75, R79) -/

theorem exec_rampSlow {s : State} {i : Slot} (hp : (s.slot i).pru.phase = .ramp) (hd : (s.slot i).pru.rampDue = true) :
    exec (.rampSlow i) s = .next ((s.rampFault i .rampSlow).close i) := by
  have h : s.rampCheck i = s.rampFault i .rampSlow := if_pos ⟨hp, hd⟩
  rw [← h]
  rfl

theorem exec_trainingTimeout {s : State} {i : Slot} (hp : (s.slot i).pru.phase = .training)
    (ht : (s.slot i).pru.timer = some 0) :
    exec (.trainingTimeout i) s = .next (((s.modPru i PruRec.rest).failAttempt i 2 0).close i) := by
  have h : s.trainingTimer i = (s.modPru i PruRec.rest).failAttempt i 2 0 := if_pos (by simp [PruRec.ends, hp, ht])
  rw [← h]
  rfl

/-- From `s` to `w` the slot's attempt has failed: its record, its outputs and RECOVERY_FAILED, taken as the first or the
second incident of the event. -/
structure AttemptFailed (i : Slot) (s w : State) : Prop where
  slot : w.slot i = { (s.slot i).failed with ad := (w.slot i).ad }
  settled : (s.slot i).planSettled → (w.slot i).planSettled
  signals : (s.slot i).pru.up → w.signals = s.signals ++ powerOffSignals i
  queued : queuedFor i s.iq ≤ 2 → ∃ x ∈ w.iq, x.slot = i ∧ x.kind = .recoveryFailed ∧ x.attempts = (s.slot i).cs.attempts
    ∧ x.trigger = (s.slot i).cs.trigger ∧ x.countA = (s.slot i).tt.discard ∧ x.countB = (s.slot i).cs.state.code

theorem State.rampFault_fails (s : State) (i : Slot) (k : RailFault) : AttemptFailed i s (s.rampFault i k) where
  slot := s.rampFault_slot i k
  settled := State.rampFault_settled k
  signals := State.rampFault_signals k
  queued hq := ⟨_, (State.rampFault_incidents k hq).2, rfl, rfl, rfl, rfl, rfl, rfl⟩

/-- Once PRU has come to rest, the failed attempt is that of the slot before. -/
theorem State.trainingFails (s : State) (i : Slot) : AttemptFailed i s ((s.modPru i PruRec.rest).failAttempt i 2 0) := by
  have hslot : (s.modPru i PruRec.rest).slot i = { s.slot i with pru := (s.slot i).pru.rest } := State.modPru_slot_self _ _ _
  refine ⟨?_, fun hp => State.failAttempt_settled 2 0 (by rw [hslot]; exact hp), fun hup => ?_, fun hq => ?_⟩
  · conv_lhs => rw [State.failAttempt_slot, hslot]
    rw [State.failAttempt_slot]
    rfl
  · rw [State.failAttempt_signals 2 0 (by rw [hslot]; exact hup), State.modPru_still rfl rfl rfl rfl]
  · rw [State.failAttempt_takes]
    refine ⟨_, mem_iwTake_self (Nat.lt_succ_of_le (Nat.le_succ_of_le hq)), rfl, rfl, ?_⟩
    unfold State.incident
    rw [hslot]
    exact ⟨rfl, rfl, rfl, rfl⟩

/-- Settles O25: either command fails the attempt, and nothing is returned that lets a plan go on. -/
theorem rampSlowAndTrainingTimeoutFailTheAttempt : Obligations.RampSlowAndTrainingTimeoutFailTheAttempt := by
  intro s i c
  dsimp only
  intro _ hp hcase
  obtain ⟨w, hw, hf, hfault⟩ : ∃ w, exec c s = .next (w.close i) ∧ AttemptFailed i s w
      ∧ (c = .rampSlow i → w = s.rampFault i .rampSlow) := by
    rcases hcase with ⟨rfl, hphase, hdue⟩ | ⟨rfl, hphase, htimer⟩
    · exact ⟨_, exec_rampSlow hphase hdue, s.rampFault_fails i .rampSlow, fun _ => rfl⟩
    · exact ⟨_, exec_trainingTimeout hphase htimer, s.trainingFails i, fun h => by cases h⟩
  refine ⟨_, hw, ?_⟩
  rw [State.close_ended (hf.settled hp), State.align_slot, hf.slot, State.align_signals, w.align_ring.iq]
  refine ⟨SlotRec.failed_cs _, rfl, hf.signals, rfl, rfl, hf.queued, fun hc hq => ?_⟩
  rw [hfault hc]
  exact ⟨_, (State.rampFault_incidents .rampSlow hq).1, rfl, rfl, rfl, rfl⟩

end Sys2Proof.Machine
end

section
/-! PROOFS. The tick as one slot sees it; power-good accepted in RAMP. -/

namespace Sys2Proof.Machine

open Sys2Proof

/-! ## The power-good samples beside the other slots (R140) -/

theorem State.rampFault_beside (s : State) (i : Slot) (k : RailFault) : Beside i s (s.rampFault i k) :=
  (Beside.raise s i _ _ _ _).trans (State.failAttempt_beside _ _ _ _)

theorem State.rampEnds_beside (s : State) (i : Slot) (b : Bool) : Beside i s (s.rampEnds i b) := by
  unfold State.rampEnds
  dsimp only
  generalize (if b = true then _ else _ : Nat) = n
  split
  · exact s.rampFault_beside i _
  · split
    · exact (s.modPru_beside i _).trans (State.rampFault_beside _ _ _)
    · exact (s.modPru_beside i _).trans (State.modPru_beside _ _ _)

theorem State.powerLostOutcome_beside (s : State) (i : Slot) : Beside i s (s.powerLostOutcome i) := by
  unfold State.powerLostOutcome
  cases (s.slot i).cs.state with
  | online | held | isolated => exact (s.modCs_beside i _).trans (State.shutdown_beside _ _)
  | empty | off | bleeding | retired => exact Beside.refl i s
  | _ => exact s.failAttempt_beside i _ _

theorem State.powerLost_beside (s : State) (i : Slot) : Beside i s (s.powerLost i) := by
  have hnoted : Beside i s ((s.raise i .powerLost).setTrigger i .powerLost) :=
    (Beside.raise s i _ _ _ _).trans (State.setTrigger_beside _ _ _)
  have hcut : ∀ t : State, Beside i t (t.cutTraffic i) := fun t => Beside.modSlot t i _ rfl
  unfold State.powerLost
  cases (s.slot i).cs.state with
  | empty | off | bleeding | retired => exact Beside.refl i s
  | online | probation | held =>
    exact hnoted.trans ((State.fenceWork_beside _ _).trans ((hcut _).trans
      ((State.cancelOp_beside _ _).trans (State.powerLostOutcome_beside _ _))))
  | _ => exact hnoted.trans ((State.cancelOp_beside _ _).trans (State.powerLostOutcome_beside _ _))

theorem State.powerGood_beside (s : State) (i : Slot) (present b : Bool) : Beside i s (s.powerGood i present b) := by
  unfold State.powerGood
  dsimp only
  split
  · exact Beside.refl i s
  · split
    · exact s.rampEnds_beside i b
    · exact s.modPru_beside i _
  · exact Beside.refl i s
  · exact Beside.refl i s
  · exact (s.modPru_beside i _).trans (State.powerLost_beside _ _)

theorem State.powerGoodSample_beside (s : State) (p : TickPins) (i : Slot) : Beside i s (s.powerGoodSample p i) := by
  unfold State.powerGoodSample
  dsimp only
  split
  · exact (s.modSense_beside i _).trans (State.powerGood_beside _ _ _ _)
  · exact s.modSense_beside i _

theorem Apart.goodSamples {i : Slot} (p : TickPins) {l : List Slot} (hi : i ∉ l) (s : State) :
    Apart i s (l.foldl (fun t j => t.powerGoodSample p j) s) := by
  induction l generalizing s with
  | nil => exact Apart.refl i s
  | cons j l ih =>
    obtain ⟨hj, hl⟩ := not_or.1 fun h => hi (List.mem_cons.2 h)
    exact (Apart.of_within (Ne.symm hj) (s.powerGoodSample_within p j).1 (s.powerGoodSample_beside p j)).trans (ih hl _)

/-- A tick with no event ahead of the samples: the step of the counters, the samples of the others, the slot's own, and again
those of others. -/
theorem State.tick_split (s : State) (p : TickPins) (i : Slot) : ∃ u t : State, exec (.tick p []) s = .next t
    ∧ Apart i s.count u ∧ Apart i (u.powerGoodSample p i) t := by
  obtain ⟨before, after, hsplit⟩ := List.append_of_mem (mem_slotOrder p.order i)
  have hnodup := nodup_slotOrder p.order
  rw [hsplit] at hnodup
  obtain ⟨-, hafter, hdisj⟩ := List.nodup_append.1 hnodup
  have hexec : exec (.tick p []) s
      = .next ((slotOrder p.order).foldl (fun t j => t.powerGoodSample p j) s.count).align := rfl
  refine ⟨_, _, hexec, Apart.goodSamples p (fun h => hdisj i h i List.mem_cons_self rfl) s.count, ?_⟩
  rw [hsplit, List.foldl_append, List.foldl_cons]
  exact (Apart.goodSamples p (List.nodup_cons.1 hafter).1 _).trans (Apart.align i _)

/-- What the acts of the others leave in the queue. -/
theorem Apart.mem_iq {i : Slot} {s t : State} (h : Apart i s t) {x : Incident} (hx : x ∈ s.iq) (hi : x.slot = i) :
    x ∈ t.iq := by
  obtain ⟨xs, hothers, hiq⟩ := h.iq
  rw [hiq]
  exact mem_iwTakes_other (fun y hy => by rw [hi]; exact (hothers y hy).symm) hx

/-! ## The slot's own sample that accepts a change -/

/-- The sense record after an accepted change of power-good. -/
def SenseRec.goodAccepted (x : SenseRec) (raw : Bool) : SenseRec := { x with pgPrev := raw, pgAcc := raw }

theorem State.powerGoodSample_accepts {s : State} {p : TickPins} {i : Slot}
    (h : accepts (p.powerGood.getLsbD i.val) (s.slot i).sense.pgPrev (s.slot i).sense.pgAcc = true) :
    s.powerGoodSample p i = (s.modSense i fun x => x.goodAccepted (p.powerGood.getLsbD i.val)).powerGood i
      (p.powerGood.getLsbD i.val) (p.acceptFirst.getLsbD i.val) := by
  simp only [State.powerGoodSample, h, if_true, SenseRec.goodAccepted]

/-- The slot at the tick's step of its counters, with the power-good level accepted. -/
def SlotRec.goodAccepted (r : SlotRec) (raw : Bool) : SlotRec := { r.tick with sense := r.sense.goodAccepted raw }

/-- Before the acceptance of a change at a tick the slot has had the step of its counters, and its queued incidents stand. -/
theorem State.tick_accepts {s : State} {p : TickPins} {i : Slot} {raw : Bool} (hraw : p.powerGood.getLsbD i.val = raw)
    (hprev : (s.slot i).sense.pgPrev = raw) (hacc : (s.slot i).sense.pgAcc = !raw) :
    ∃ v t : State, exec (.tick p []) s = .next t ∧ Apart i (v.powerGood i raw (p.acceptFirst.getLsbD i.val)) t
      ∧ v.slot i = (s.slot i).goodAccepted raw ∧ queuedFor i v.iq = queuedFor i s.iq ∧ s.signals <+: v.signals := by
  obtain ⟨u, t, hexec, hbefore, hafter⟩ := s.tick_split p i
  have hu : u.slot i = (s.slot i).tick := by rw [hbefore.slot, State.count_slot]
  have hhit : accepts (p.powerGood.getLsbD i.val) (u.slot i).sense.pgPrev (u.slot i).sense.pgAcc = true := by
    rw [hu]
    refine accepts_iff.2 ⟨hraw.trans hprev.symm, ?_⟩
    change p.powerGood.getLsbD i.val ≠ (s.slot i).sense.pgAcc
    rw [hraw, hacc]
    cases raw <;> decide
  rw [State.powerGoodSample_accepts hhit, hraw] at hafter
  refine ⟨_, t, hexec, hafter, ?_, hbefore.queued, hbefore.signals⟩
  rw [State.modSense_slot, hu]
  rfl

/-! ## The end of a ramp (R75, R76) -/

/-- The ramp count that the acceptance is judged by, set; RAMP_SLOW is no longer due. -/
def PruRec.judged (p : PruRec) (n : Nat) : PruRec := { p with rampCount := n, rampDue := false }

theorem State.powerGood_ramp {s : State} {i : Slot} (b : Bool) (hr : (s.slot i).pru.rail = .unproven)
    (hp : (s.slot i).pru.phase = .ramp) : s.powerGood i true b = s.rampEnds i b := by
  simp only [State.powerGood, hr, hp, if_true]

theorem State.rampEnds_slow {s : State} {i : Slot} (h : (s.slot i).pru.rampDue = true) :
    s.rampEnds i false = s.rampFault i .rampSlow := by
  simp only [State.rampEnds, h, Bool.not_false, Bool.and_true, if_true]

theorem State.rampEnds_fast {s : State} {i : Slot} {b : Bool} {n : Nat} (h : b = true ∨ (s.slot i).pru.rampDue = false)
    (hn : n = if b then (s.slot i).pru.rampCount - 1 else (s.slot i).pru.rampCount) (hmin : n < (s.slot i).pol.rampMin) :
    s.rampEnds i b = (s.modPru i fun q => q.judged n).rampFault i .rampFast := by
  have hdue : ((s.slot i).pru.rampDue && !b) = false := by rcases h with rfl | h <;> simp [*]
  simp only [State.rampEnds, hdue, Bool.false_eq_true, if_false, ← hn]
  exact if_pos hmin

theorem State.rampEnds_settles {s : State} {i : Slot} {b : Bool} {n : Nat} (h : b = true ∨ (s.slot i).pru.rampDue = false)
    (hn : n = if b then (s.slot i).pru.rampCount - 1 else (s.slot i).pru.rampCount) (hmin : (s.slot i).pol.rampMin ≤ n) :
    s.rampEnds i b = (s.modPru i fun q => q.judged n).modPru i fun q => q.enterSettle (s.slot i).pol.settle := by
  have hdue : ((s.slot i).pru.rampDue && !b) = false := by rcases h with rfl | h <;> simp [*]
  simp only [State.rampEnds, hdue, Bool.false_eq_true, if_false, ← hn]
  exact if_neg (Nat.not_lt.2 hmin)

end Sys2Proof.Machine
end

section
/-! PROOFS. Power-good accepted in RAMP: SETTLE, or a ramp fault. -/

namespace Sys2Proof.Machine

open Sys2Proof

/-! ## A ramp fault among the samples of a tick -/

/-- What is left, at the end of the tick, of the ramp fault of a slot. -/
structure RampFailed (i : Slot) (x t : State) (f : RailFault) : Prop where
  cs : (t.slot i).cs = (x.slot i).failed.cs
  pru : (t.slot i).pru = (x.slot i).failed.pru
  sense : (t.slot i).sense = (x.slot i).sense
  queued : queuedFor i x.iq ≤ 2 →
    (∃ y ∈ t.iq, y.slot = i ∧ y.kind = .railFault ∧ y.countA = (x.slot i).pru.rampCount ∧ y.countB = 0
        ∧ y.detail = detailOf f.code 0)
      ∧ ∃ y ∈ t.iq, y.slot = i ∧ y.kind = .recoveryFailed ∧ y.countB = (x.slot i).cs.state.code

theorem Apart.rampFailed {i : Slot} {x t : State} {f : RailFault} (h : Apart i (x.rampFault i f) t) : RampFailed i x t f := by
  have hslot := h.slot.trans (x.rampFault_slot i f)
  refine ⟨by rw [hslot], by rw [hslot], by rw [hslot]; rfl, fun hq => ?_⟩
  obtain ⟨hrail, hrecovery⟩ := State.rampFault_incidents f hq
  exact ⟨⟨_, h.mem_iq hrail rfl, rfl, rfl, rfl, rfl, rfl⟩, ⟨_, h.mem_iq hrecovery rfl, rfl, rfl, rfl⟩⟩

/-- In RAMP the tick counts, and the ramp maximum makes RAMP_SLOW due (R74, R75). -/
theorem PruRec.tick_ramp {p : PruRec} (m : Nat) (hphase : p.phase = .ramp) (hdue : p.rampDue = false)
    (hn : p.rampCount + 1 ≤ 65535) : p.tick m =
      { p with timer := p.timer.map (· - 1), rampCount := p.rampCount + 1, rampDue := decide (m ≤ p.rampCount + 1) } := by
  rw [PruRec.tick_eq, hdue, Nat.min_eq_right hn]
  simp [hphase]

/-- The two ways in which an acceptance in RAMP ends it, seen at the end of the tick: SETTLE at the count that is judged, or a
ramp fault of a slot that stands at that count. -/
theorem State.tick_ramp {s : State} {p : TickPins} {i : Slot} (hphase : (s.slot i).pru.phase = .ramp)
    (hrail : (s.slot i).pru.rail = .unproven) (hdue : (s.slot i).pru.rampDue = false)
    (hn : (s.slot i).pru.rampCount + 1 ≤ 65535) (hraw : p.powerGood.getLsbD i.val = true)
    (hprev : (s.slot i).sense.pgPrev = true) (hacc : (s.slot i).sense.pgAcc = false) :
    let first := p.acceptFirst.getLsbD i.val
    let judged := if first then (s.slot i).pru.rampCount else (s.slot i).pru.rampCount + 1
    ∃ t, exec (.tick p []) s = .next t
      ∧ (first = true ∨ (s.slot i).pru.rampCount + 1 < (s.slot i).pol.rampMax → (s.slot i).pol.rampMin ≤ judged →
        t.slot i = { (s.slot i).goodAccepted true with
          pru := (((s.slot i).goodAccepted true).pru.judged judged).enterSettle (s.slot i).pol.settle })
      ∧ ∀ f : RailFault,
        (f = .rampFast ∧ (first = true ∨ (s.slot i).pru.rampCount + 1 < (s.slot i).pol.rampMax)
            ∧ judged < (s.slot i).pol.rampMin
          ∨ f = .rampSlow ∧ first = false ∧ (s.slot i).pol.rampMax ≤ (s.slot i).pru.rampCount + 1) →
        ∃ x, RampFailed i x t f ∧ queuedFor i x.iq = queuedFor i s.iq ∧ (x.slot i).pru.rampCount = judged
          ∧ x.slot i = { (s.slot i).goodAccepted true with pru := (x.slot i).pru } := by
  obtain ⟨v, t, hexec, hafter, hv, hq, -⟩ := State.tick_accepts hraw hprev hacc
  have hpru : (v.slot i).pru = (s.slot i).pru.tick (s.slot i).pol.rampMax := by rw [hv]; rfl
  rw [PruRec.tick_ramp _ hphase hdue hn] at hpru
  have hpol : (v.slot i).pol = (s.slot i).pol := by rw [hv]; rfl
  rw [State.powerGood_ramp _ (by rw [hpru]; exact hrail) (by rw [hpru]; exact hphase)] at hafter
  generalize p.acceptFirst.getLsbD i.val = first at hafter
  dsimp only
  generalize hj : (if first = true then (s.slot i).pru.rampCount else (s.slot i).pru.rampCount + 1) = judged
  have hcount : judged = if first = true then (v.slot i).pru.rampCount - 1 else (v.slot i).pru.rampCount := by
    rw [← hj, hpru]
    rfl
  have hnot : first = true ∨ (s.slot i).pru.rampCount + 1 < (s.slot i).pol.rampMax →
      first = true ∨ (v.slot i).pru.rampDue = false := fun h => h.imp_right fun hlt => by
    rw [hpru]
    exact decide_eq_false (Nat.not_le.2 hlt)
  refine ⟨t, hexec, fun hfirst hmin => ?_, fun f hf => ?_⟩
  · rw [State.rampEnds_settles (hnot hfirst) hcount (by rw [hpol]; exact hmin)] at hafter
    rw [hafter.slot, State.modPru_slot_self, State.modPru_slot_self, hv]
    rfl
  · rcases hf with ⟨rfl, hfirst, hmin⟩ | ⟨rfl, rfl, hmax⟩
    · rw [State.rampEnds_fast (hnot hfirst) hcount (by rw [hpol]; exact hmin)] at hafter
      refine ⟨_, hafter.rampFailed, hq, by rw [State.modPru_slot_self]; rfl, ?_⟩
      rw [State.modPru_slot_self, hv]
    · rw [State.rampEnds_slow (by rw [hpru]; exact decide_eq_true hmax)] at hafter
      refine ⟨_, hafter.rampFailed, hq, ?_, by rw [hv]⟩
      rw [hpru, ← hj]
      rfl

/-- Settles O7: the count that the acceptance is judged by chooses between SETTLE and the two ramp faults. -/
theorem acceptedPowerGoodEndsTheRamp : Obligations.AcceptedPowerGoodEndsTheRamp := by
  intro p s i
  dsimp only
  intro hphase hrail hdue hn hraw hprev hacc
  obtain ⟨t, hexec, hsettles, hfails⟩ := State.tick_ramp hphase hrail hdue hn hraw hprev hacc
  dsimp only at hsettles hfails
  generalize p.acceptFirst.getLsbD i.val = first at *
  generalize (if first = true then (s.slot i).pru.rampCount else (s.slot i).pru.rampCount + 1) = judged at *
  have houts : (((s.slot i).goodAccepted true).pru.judged judged).enterSettle (s.slot i).pol.settle
      = { ((s.slot i).pru.tick (s.slot i).pol.rampMax).judged judged with
          rail := .good, timer := some (s.slot i).pol.settle, phase := .settle } := rfl
  have hfault : ∀ f x, RampFailed i x t f → (x.slot i).pru.rampCount = judged →
      x.slot i = { (s.slot i).goodAccepted true with pru := (x.slot i).pru } →
      (t.slot i).sense.pgAcc = true ∧ (t.slot i).pru.rampCount = judged := fun f x hx hcount hslot => by
    rw [hx.sense, hx.pru, hslot]
    exact ⟨rfl, hcount⟩
  have hends : (t.slot i).sense.pgAcc = true ∧ (t.slot i).pru.rampCount = judged := by
    by_cases hfirst : first = true ∨ (s.slot i).pru.rampCount + 1 < (s.slot i).pol.rampMax
    · by_cases hmin : (s.slot i).pol.rampMin ≤ judged
      · rw [hsettles hfirst hmin]
        exact ⟨rfl, rfl⟩
      · obtain ⟨x, hx, -, hcount, hslot⟩ := hfails .rampFast (Or.inl ⟨rfl, hfirst, Nat.not_le.1 hmin⟩)
        exact hfault _ x hx hcount hslot
    · obtain ⟨hf, hmax⟩ := not_or.1 hfirst
      obtain ⟨x, hx, -, hcount, hslot⟩ := hfails .rampSlow (Or.inr ⟨rfl, Bool.eq_false_of_not_eq_true hf, Nat.not_lt.1 hmax⟩)
      exact hfault _ x hx hcount hslot
  refine ⟨t, hexec, hends.1, hends.2, fun hfirst hmin => ?_, fun f hf => ?_⟩
  · rw [hsettles hfirst hmin, houts, PruRec.tick_eq]
    exact ⟨rfl, rfl, rfl, rfl, rfl, rfl, rfl⟩
  · obtain ⟨x, hx, hq, hcount, hslot⟩ := hfails f hf
    have hcs := hx.cs
    rw [hslot, SlotRec.failed_cs] at hcs
    have hdetail : detailOf f.code 0 = if f = .rampFast then 1 else 2 := by
      rcases hf with ⟨rfl, -⟩ | ⟨rfl, -⟩ <;> rfl
    refine ⟨by rw [hcs], by rw [hcs], by rw [hx.pru]; exact SlotRec.failed_dark _, by rw [hx.pru]; rfl, by rw [hx.pru]; rfl,
      ?_, fun hle => ?_⟩
    · rw [hcs]
      by_cases hmax : (s.slot i).pol.maxAttempts ≤ (s.slot i).cs.attempts
      · rw [if_pos hmax]
        exact if_pos hmax
      · rw [if_neg hmax]
        exact ⟨if_neg hmax, if_neg hmax⟩
    · obtain ⟨⟨y, hy, h1, h2, h3, h4, h5⟩, z, hz, k1, k2, k3⟩ := hx.queued (by rw [hq]; exact hle)
      refine ⟨⟨y, hy, h1, h2, h3.trans hcount, h4, h5.trans hdetail⟩, z, hz, k1, k2, ?_⟩
      rw [k3, hslot]
      rfl

end Sys2Proof.Machine
end

section
/-! PROOFS. Power-good lost from a GOOD rail. -/

namespace Sys2Proof.Machine

open Sys2Proof

/-! ## Up to the decision of CS (R61, steps 1 to 3) -/

/-- POWER_LOST raised, with the trigger it showed, and the trigger written. -/
def State.lossNoted (s : State) (i : Slot) : State := (s.raise i .powerLost).setTrigger i .powerLost

/-- What comes before the decision of CS: TT's fence work and CTF's cut where requests are tracked, and the cancellation. -/
def State.lossCut (s : State) (i : Slot) : State :=
  if (s.slot i).cs.state.tracks then (((s.lossNoted i).fenceWork i).cutTraffic i).cancelOp i
  else (s.lossNoted i).cancelOp i

/-- The four states without a power-good to lose. -/
def SlotState.unpowered : SlotState → Bool
  | .empty | .off | .bleeding | .retired => true
  | _ => false

theorem State.powerLost_unpowered {s : State} {i : Slot} (h : (s.slot i).cs.state.unpowered = true) : s.powerLost i = s := by
  unfold State.powerLost
  generalize (s.slot i).cs.state = st at h
  cases st with
  | empty | off | bleeding | retired => rfl
  | _ => cases h

theorem State.powerLost_eq {s : State} {i : Slot} (h : (s.slot i).cs.state.unpowered = false) :
    s.powerLost i = (s.lossCut i).powerLostOutcome i := by
  unfold State.powerLost State.lossCut
  generalize (s.slot i).cs.state = st at h
  cases st with
  | empty | off | bleeding | retired => cases h
  | _ => rfl

/-- What the slot and the queue are before the decision. -/
structure LossTaken (i : Slot) (s u : State) : Prop where
  cs : (u.slot i).cs = { (s.slot i).cs with trigger := .powerLost }
  pru : (u.slot i).pru = (s.slot i).pru
  policy : (u.slot i).policy = (s.slot i).policy
  sense : (u.slot i).sense = (s.slot i).sense
  discard : (s.slot i).cs.state.tracks = true → (u.slot i).tt.discard = 0
  signals : u.signals = s.signals
  iq : u.iq = iwTake (s.incident i .powerLost 0 0 0) s.iq

theorem State.lossNoted_slot (s : State) (i : Slot) :
    (s.lossNoted i).slot i = { s.slot i with cs := { (s.slot i).cs with trigger := .powerLost } } := by
  rw [State.lossNoted, State.setTrigger, State.modSlot_slot_self, State.raise_slot]

theorem State.lossCut_taken (s : State) (i : Slot) : LossTaken i s (s.lossCut i) := by
  have hnoted := s.lossNoted_slot i
  unfold State.lossCut
  split
  · obtain ⟨hiq, hsignals⟩ := State.cancelOp_rest (((s.lossNoted i).fenceWork i).cutTraffic i) i
    have hslot := State.cancelOp_slot (((s.lossNoted i).fenceWork i).cutTraffic i) i
    have hcut : (((s.lossNoted i).fenceWork i).cutTraffic i).slot i
        = { ((s.lossNoted i).slot i).fenceWork with ctf := { ((s.lossNoted i).slot i).ctf with cls := .cut } } := by
      rw [State.cutTraffic, State.modSlot_slot_self, State.fenceWork, State.emits_slot, State.setSlot_slot_self]
      rfl
    rw [hcut, hnoted] at hslot
    exact ⟨by rw [hslot]; rfl, by rw [hslot]; rfl, by rw [hslot]; rfl, by rw [hslot]; rfl,
      fun _ => by rw [hslot]; rfl, hsignals, hiq⟩
  next htracks =>
    obtain ⟨hiq, hsignals⟩ := State.cancelOp_rest (s.lossNoted i) i
    have hslot := State.cancelOp_slot (s.lossNoted i) i
    rw [hnoted] at hslot
    exact ⟨by rw [hslot], by rw [hslot], by rw [hslot], by rw [hslot],
      fun h => absurd h htracks, hsignals, hiq⟩

/-! ## The decision of CS (R61, step 4) -/

/-- The slot record that the decision in state `st` leaves, but for the state. -/
def CsRec.powerLost (c : CsRec) (maxAttempts : Nat) (st : SlotState) : CsRec :=
  match st with
  | .online | .held => { c with target := .retired, retryPending := false }
  | .isolated => { c with target := .off, retryPending := false }
  | _ => c.failCheck maxAttempts

/-- From `u` to `w` the slot has been powered down from outputs that stood, with slot record `c` but for the state. -/
structure PoweredDown (i : Slot) (c : CsRec) (u w : State) : Prop where
  cs : (w.slot i).cs = { c with state := .bleeding }
  pru : (w.slot i).pru = { (u.slot i).pru with sequence := .shutdown }.powerOff (u.slot i).pol.bleedWait
  cls : (w.slot i).ctf.cls = .cut
  entry : ∀ k, (w.slot i).tt.entry k = .free
  hold : (w.slot i).tt.hold = []
  discard : (w.slot i).tt.discard = (u.slot i).tt.discard
  sense : (w.slot i).sense = (u.slot i).sense
  signals : (u.slot i).pru.up → w.signals = u.signals ++ powerOffSignals i

/-- The shutdown path from a slot with another slot record. -/
theorem State.shutdown_powersDown {u b : State} {i : Slot} {c : CsRec} {a : AdRec}
    (hslot : b.slot i = { u.slot i with cs := c, ad := a }) (hsignals : b.signals = u.signals) :
    PoweredDown i c u (b.shutdown i) := by
  have h := b.shutdown_slot i
  rw [hslot] at h
  refine ⟨by rw [h]; rfl, by rw [h]; rfl, by rw [h]; rfl, fun k => by rw [h]; exact TtRec.freeAll_entry _ k, by rw [h]; rfl,
    by rw [h]; rfl, by rw [h]; rfl, fun hup => ?_⟩
  rw [State.shutdown_signals (by rw [hslot]; exact hup), hsignals]

/-- In each powered state the decision leads to the shutdown path; an incident that a failed attempt adds comes after the
ones that are queued. -/
theorem State.powerLostOutcome_powersDown {u : State} {i : Slot} (h : (u.slot i).cs.state.unpowered = false) :
    PoweredDown i ((u.slot i).cs.powerLost (u.slot i).pol.maxAttempts (u.slot i).cs.state) u (u.powerLostOutcome i)
      ∧ ∀ x ∈ u.iq, queuedFor i u.iq ≤ 3 → x ∈ (u.powerLostOutcome i).iq := by
  have hfails : PoweredDown i ((u.slot i).cs.failCheck (u.slot i).pol.maxAttempts) u (u.failAttempt i 6 0)
      ∧ ∀ x ∈ u.iq, queuedFor i u.iq ≤ 3 → x ∈ (u.failAttempt i 6 0).iq := by
    refine ⟨State.shutdown_powersDown (u.failChecked_slot i 6 0) (u.failChecked_signals i 6 0), fun x hx hq => ?_⟩
    rw [State.failAttempt_takes]
    exact mem_iwTake (Nat.lt_succ_of_le hq) hx
  have hdown : ∀ f : CsRec → CsRec, PoweredDown i (f (u.slot i).cs) u ((u.modCs i f).shutdown i)
      ∧ ∀ x ∈ u.iq, queuedFor i u.iq ≤ 3 → x ∈ ((u.modCs i f).shutdown i).iq := fun f =>
    ⟨State.shutdown_powersDown (a := (u.slot i).ad) (u.modSlot_slot_self i _) rfl, fun x hx _ => hx⟩
  unfold State.powerLostOutcome
  generalize (u.slot i).cs.state = st at h
  cases st with
  | online | held => exact hdown fun c => { c with target := .retired, retryPending := false }
  | isolated => exact hdown fun c => { c with target := .off, retryPending := false }
  | empty | off | bleeding | retired => cases h
  | _ => exact hfails

/-- Power-good lost in a powered state, from the slot as it stood. -/
theorem State.powerLost_powersDown {s : State} {i : Slot} (h : (s.slot i).cs.state.unpowered = false) :
    ∃ u, LossTaken i s u
      ∧ PoweredDown i ((u.slot i).cs.powerLost (s.slot i).pol.maxAttempts (s.slot i).cs.state) u (s.powerLost i)
      ∧ (queuedFor i s.iq ≤ 2 → s.incident i .powerLost 0 0 0 ∈ (s.powerLost i).iq) := by
  have htaken := s.lossCut_taken i
  have hpol : ((s.lossCut i).slot i).pol = (s.slot i).pol := by
    unfold SlotRec.pol
    rw [htaken.policy]
  have hstate : ((s.lossCut i).slot i).cs.state = (s.slot i).cs.state := by rw [htaken.cs]
  obtain ⟨hdown, hkeep⟩ := State.powerLostOutcome_powersDown (u := s.lossCut i) (i := i) (by rw [hstate]; exact h)
  rw [hstate, hpol] at hdown
  rw [State.powerLost_eq h]
  refine ⟨_, htaken, hdown, fun hq => hkeep _ ?_ ?_⟩
  · rw [htaken.iq]
    exact mem_iwTake_self (Nat.lt_succ_of_le (Nat.le_succ_of_le hq))
  · rw [htaken.iq]
    exact (queuedFor_iwTake_le _ _ _).trans (Nat.succ_le_succ hq)

/-! ## Power-good lost at a tick -/

theorem State.powerGood_lost {s : State} {i : Slot} (b : Bool) (h : (s.slot i).pru.rail = .good) :
    s.powerGood i false b = (s.modPru i fun q => { q with rail := .unproven }).powerLost i := by
  simp only [State.powerGood, h]

/-- Outside RAMP the tick leaves the outputs. -/
theorem PruRec.tick_up {p : PruRec} (m : Nat) (h : p.up) : (p.tick m).up := by
  rw [PruRec.tick_eq]
  exact h

theorem CsRec.powerLost_kept (c : CsRec) (n : Nat) (st : SlotState) :
    (c.powerLost n st).attempts = c.attempts ∧ (c.powerLost n st).trigger = c.trigger := by
  have hfails : (c.failCheck n).attempts = c.attempts ∧ (c.failCheck n).trigger = c.trigger := by
    unfold CsRec.failCheck
    split <;> exact ⟨rfl, rfl⟩
  cases st with
  | online | held | isolated => exact ⟨rfl, rfl⟩
  | _ => exact hfails

theorem CsRec.powerLost_fails (c : CsRec) (n : Nat) {st : SlotState}
    (h : st.recovery = true ∧ st ≠ .bleeding ∨ st = .probation) : c.powerLost n st = c.failCheck n := by
  cases st with
  | online | held | isolated => simp [SlotState.recovery] at h
  | _ => rfl

/-- The acceptance of a loss on a GOOD rail up to the work of CS: the rail is unproven, the slot otherwise as the tick's step of
the counters left it. -/
theorem State.tick_loses {s : State} {p : TickPins} {i : Slot} (hrail : (s.slot i).pru.rail = .good)
    (hraw : p.powerGood.getLsbD i.val = false) (hprev : (s.slot i).sense.pgPrev = false)
    (hacc : (s.slot i).sense.pgAcc = true) :
    ∃ m t : State, exec (.tick p []) s = .next t ∧ Apart i (m.powerLost i) t
      ∧ m.slot i = { (s.slot i).goodAccepted false with
          pru := { (s.slot i).pru.tick (s.slot i).pol.rampMax with rail := .unproven } }
      ∧ queuedFor i m.iq = queuedFor i s.iq ∧ s.signals <+: m.signals := by
  obtain ⟨v, t, hexec, hafter, hv, hq, hsignals⟩ := State.tick_accepts hraw hprev (raw := false) hacc
  have hpru : (v.slot i).pru = (s.slot i).pru.tick (s.slot i).pol.rampMax := by rw [hv]; rfl
  rw [State.powerGood_lost _ (by rw [hpru, PruRec.tick_eq]; exact hrail)] at hafter
  refine ⟨_, t, hexec, hafter, ?_, hq, ?_⟩
  · rw [State.modPru_slot_self, hpru, hv]
  · have hsig : (v.modPru i fun q => { q with rail := .unproven }).signals = v.signals :=
      State.modPru_still rfl rfl rfl rfl
    rw [hsig]
    exact hsignals

/-- Settles O8: the decision of CS by state, and the shutdown path. -/
theorem powerGoodLostByState : Obligations.PowerGoodLostByState := by
  intro p s i
  dsimp only
  intro hrail _ hraw hprev hacc
  obtain ⟨m, t, hexec, hafter, hm, hq, hsignals⟩ := State.tick_loses hrail hraw hprev hacc
  have hstate : (m.slot i).cs.state = (s.slot i).cs.state := by rw [hm]; rfl
  have hpol : (m.slot i).pol = (s.slot i).pol := by rw [hm]; rfl
  refine ⟨t, hexec, ?_⟩
  rw [hafter.slot]
  cases hun : (s.slot i).cs.state.unpowered
  case true =>
    rw [State.powerLost_unpowered (by rw [hstate]; exact hun), hm]
    refine ⟨rfl, fun h1 h2 h3 h4 => ?_, fun h => ?_, fun h => ?_, fun h => ?_, fun _ => rfl⟩
    all_goals
      exfalso
      generalize (s.slot i).cs.state = st at *
      cases st <;> simp_all [SlotState.unpowered, SlotState.recovery]
  case false =>
    obtain ⟨u, htaken, hdown, hqueued⟩ := State.powerLost_powersDown (s := m) (i := i) (by rw [hstate]; exact hun)
    obtain ⟨hattempts, htrigger⟩ := (u.slot i).cs.powerLost_kept (s.slot i).pol.maxAttempts (s.slot i).cs.state
    have hupol : (u.slot i).pol = (s.slot i).pol := by rw [← hpol, SlotRec.pol, htaken.policy, SlotRec.pol]
    have hucs : (u.slot i).cs = { (s.slot i).cs.tick with trigger := .powerLost } := by rw [htaken.cs, hm]; rfl
    have hupru : (u.slot i).pru = { (s.slot i).pru.tick (s.slot i).pol.rampMax with rail := .unproven } := by
      rw [htaken.pru, hm]
    rw [hstate, hpol] at hdown
    refine ⟨by rw [hdown.sense, htaken.sense, hm]; rfl, fun _ _ _ _ => ⟨by rw [hdown.cs], ?_, ?_, by rw [hdown.pru]; rfl,
      by rw [hdown.pru]; rfl, ?_, hdown.cls, hdown.entry, hdown.hold, ?_, fun hup => ?_, fun hle => ?_⟩,
      fun h => ⟨?_, ?_, ?_⟩, fun h => ⟨?_, ?_⟩, fun h => ?_, fun h => ?_⟩
    · rw [hdown.cs]
      exact htrigger.trans (by rw [hucs])
    · rw [hdown.pru]
      exact ⟨rfl, rfl, rfl⟩
    · rw [hdown.pru, hupol]
      rfl
    · rw [hdown.cs]
      exact hattempts.trans (by rw [hucs]; rfl)
    · have hpost := hdown.signals (by rw [hupru]; exact PruRec.tick_up _ hup)
      obtain ⟨pre, hpre⟩ := hsignals
      refine ⟨pre, ?_⟩
      rw [hpre, ← htaken.signals, ← hpost]
      exact hafter.signals
    · exact ⟨_, hafter.mem_iq (hqueued (by rw [hq]; exact hle)) rfl, rfl, rfl, hstate⟩
    · rw [hdown.cs]
      rcases h with h | h <;> rw [h] <;> rfl
    · rw [hdown.cs]
      rcases h with h | h <;> rw [h] <;> rfl
    · rw [hdown.discard]
      refine htaken.discard ?_
      rw [hstate]
      rcases h with h | h <;> rw [h] <;> rfl
    · rw [hdown.cs, h]
      rfl
    · rw [hdown.cs, h]
      rfl
    · rw [hdown.cs, CsRec.powerLost_fails _ _ h, hucs]
      by_cases hmax : (s.slot i).pol.maxAttempts ≤ (s.slot i).cs.attempts
      · simp [CsRec.failCheck, CsRec.tick, hmax]
      · simp [CsRec.failCheck, CsRec.tick, hmax]
    · rcases h with h | h | h | h <;> rw [h] at hun <;> cases hun

end Sys2Proof.Machine
end

section
/-! SUPPORT. An action given ALONE that RI takes: its checks, its start, and the operations that return no entry. -/

namespace Sys2Proof.Machine

open Sys2Proof

/-! ## The checks pass (R146, R171) -/

theorem State.takes.canTake {s : State} {a : ActionArgs} {cb : ControlBlock} (h : s.takes a cb) :
    s.ri.canTake a.index = true := by
  obtain ⟨hcb, hstate, hsize, hflight, hwork⟩ := h
  have hnot : s.ri.isInFlight a.index = false := by
    unfold RiRec.isInFlight
    exact List.any_eq_false.2 fun f hf => by simpa using hflight f hf
  simp [RiRec.canTake, hcb, hstate, hsize, hwork, hnot]

theorem SlotRec.check_passes {r : SlotRec} {e : ActEntry} {c : ActCode} (hact : e.act = some c) (hpolicy : r.policy ≠ none)
    (hargs : c.argsOk e.argA e.argB = true) (hfree : r.ad.occupant = .none ∨ c.overtakes r.ad = true)
    (haccepts : c.accepts r.cs.state = true) : r.check e false = .ok c := by
  have hsome : r.policy.isNone = false := Option.isNone_eq_false_iff.2 (Option.isSome_iff_ne_none.2 hpolicy)
  have hbusy : (decide (r.ad.occupant = .none) || false || c.overtakes r.ad) = true := by
    rcases hfree with h | h <;> simp [h]
  simp only [SlotRec.check, hact, hsome, hargs, haccepts, hbusy, Bool.false_and, Bool.not_true, Bool.false_eq_true, if_false]

/-! ## The start of an action (R144) -/

/-- The ALONE entry of `a` taken and in the record of slot `i`, before it starts. -/
def State.taken (s : State) (i : Slot) (code : BitVec 8) (a : ActionArgs) : State :=
  (s.takeEntries [entryOf a code]).setAd i { AdRec.free with occupant := .action, current := some (entryOf a code) }

theorem State.taken_slot (s : State) (i : Slot) (code : BitVec 8) (a : ActionArgs) : (s.taken i code a).slot i
    = { s.slot i with ad := { AdRec.free with occupant := .action, current := some (entryOf a code) } } :=
  State.modSlot_slot_self _ _ _

theorem State.taken_iq (s : State) (i : Slot) (code : BitVec 8) (a : ActionArgs) : (s.taken i code a).iq = s.iq := rfl

theorem State.alone_runs {s : State} {i : Slot} {code : BitVec 8} {a : ActionArgs} {cb : ControlBlock} {c : ActCode}
    (ht : s.takes a cb) (ho : (s.slot i).ad.occupant = .none) (hc : (s.slot i).check (entryOf a code) false = .ok c) :
    s.alone i code a = (((s.taken i code a).run i (entryOf a code) c).settle i).align := by
  have hpass : (s.takeEntries [entryOf a code]).passEntries i .action (entryOf a code) []
      = ((s.taken i code a).run i (entryOf a code) c).settle i := by
    unfold State.passEntries
    have hsame : ((s.takeEntries [entryOf a code]).slot i).check (entryOf a code) false = .ok c := hc
    rw [hsame]
    dsimp only
    rw [if_pos (show ((s.takeEntries [entryOf a code]).slot i).ad.occupant = .none from ho)]
    rfl
  rw [State.alone, if_pos ht.canTake, ← hpass]
  rfl

/-! ## Operations that return no entry -/

/-- From `s` to `t` RI's record and the action record of slot `i` are as they were. -/
structure Unreturned (i : Slot) (s t : State) : Prop where
  ri : t.ri = s.ri
  ad : (t.slot i).ad = (s.slot i).ad

theorem Unreturned.refl (i : Slot) (s : State) : Unreturned i s s := ⟨rfl, rfl⟩

theorem Unreturned.trans {i : Slot} {s t u : State} (h : Unreturned i s t) (k : Unreturned i t u) : Unreturned i s u :=
  ⟨k.ri.trans h.ri, k.ad.trans h.ad⟩

theorem Unreturned.modSlot {i : Slot} {s t : State} (h : Unreturned i s t) {f : SlotRec → SlotRec} (hf : ∀ r, (f r).ad = r.ad) :
    Unreturned i s (t.modSlot i f) := h.trans ⟨rfl, by rw [State.modSlot_slot_self, hf]⟩

theorem Unreturned.modCs {i : Slot} {s t : State} (h : Unreturned i s t) (f : CsRec → CsRec) :
    Unreturned i s (t.modCs i f) := h.modSlot fun _ => rfl

theorem Unreturned.modPru {i : Slot} {s t : State} (h : Unreturned i s t) (f : PruRec → PruRec) :
    Unreturned i s (t.modPru i f) := h.trans ⟨rfl, by rw [State.modPru_slot_self]⟩

theorem Unreturned.enter {i : Slot} {s t : State} (h : Unreturned i s t) (st : SlotState) : Unreturned i s (t.enter i st) :=
  h.trans ⟨rfl, by rw [State.enter_slot_self]; rfl⟩

theorem Unreturned.raise {i : Slot} {s t : State} (h : Unreturned i s t) (k : IncKind) (m n : Nat) (d : BitVec 64) :
    Unreturned i s (t.raise i k m n d) := h.trans ⟨rfl, rfl⟩

theorem Unreturned.fenceWork {i : Slot} {s t : State} (h : Unreturned i s t) : Unreturned i s (t.fenceWork i) :=
  h.trans ⟨rfl, by rw [State.fenceWork, State.emits_slot, State.setSlot_slot_self]; rfl⟩

theorem Unreturned.resetAssertion {i : Slot} {s t : State} (h : Unreturned i s t) : Unreturned i s (t.resetAssertion i) :=
  h.trans ⟨rfl, by rw [State.resetAssertion_slot]; rfl⟩

/-- The cancellation returns a SNAPSHOT alone. -/
theorem Unreturned.cancelOp {i : Slot} {s t : State} (h : Unreturned i s t) (hr : (s.slot i).ad.runs .snapshot = false) :
    Unreturned i s (t.cancelOp i) := by
  have hdrop : t.cancelOp i = t.seDrop i := if_neg (by rw [h.ad, hr]; decide)
  rw [hdrop]
  exact h.trans ⟨State.seDrop_ri t i, by rw [State.seDrop_slot]⟩

theorem Unreturned.powerOffNow {i : Slot} {s t : State} (h : Unreturned i s t) : Unreturned i s (t.powerOffNow i) :=
  ((h.modPru _).resetAssertion).enter _

theorem Unreturned.shutdown {i : Slot} {s t : State} (h : Unreturned i s t) : Unreturned i s (t.shutdown i) :=
  (h.modPru _).powerOffNow

theorem Unreturned.rampFault {i : Slot} {s t : State} (h : Unreturned i s t) (hr : (s.slot i).ad.runs .snapshot = false)
    (k : RailFault) : Unreturned i s (t.rampFault i k) :=
  (((h.raise _ _ _ _).raise _ _ _ _).modCs _ |>.cancelOp hr).shutdown

theorem Unreturned.powerUp {i : Slot} {s t : State} (h : Unreturned i s t) (hr : (s.slot i).ad.runs .snapshot = false) :
    Unreturned i s (t.powerUp i) := by
  unfold State.powerUp
  dsimp only
  split
  · exact ((h.enter _).modPru _).rampFault hr _
  · exact (h.enter _).modPru _

theorem Unreturned.reconnect {i : Slot} {s t : State} (h : Unreturned i s t) : Unreturned i s (t.reconnect i) := by
  unfold State.reconnect
  dsimp only
  split
  · exact ((h.modPru _).modPru _).enter _
  · exact h.modPru _

/-- No sequence but ISOLATE returns an entry. -/
theorem Unreturned.assertReset {i : Slot} {s t : State} (h : Unreturned i s t) (hq : (t.slot i).pru.sequence ≠ .isolate) :
    Unreturned i s (t.assertReset i) := by
  have hassert : Unreturned i s (t.enterAssert i) := (h.modPru _).resetAssertion
  rw [State.assertReset_eq]
  split
  · unfold State.assertDone
    rw [t.enterAssert_sequence i]
    cases hseq : (t.slot i).pru.sequence
    case isolate => exact absurd hseq hq
    case warm => exact hassert.reconnect
    case coldDown => exact hassert.powerOffNow
    all_goals exact hassert
  · exact hassert

theorem Unreturned.startReset {i : Slot} {s t : State} (h : Unreturned i s t) {q : Sequence} (hq : q ≠ .isolate) :
    Unreturned i s (t.startReset i q) := by
  have hphase := (h.enter .resetting).modPru
    fun p => { p with sequence := q, isoOpen := true, timer := some (t.pol i).isoLead, phase := .isolate }
  unfold State.startReset
  dsimp only
  split
  · exact hphase.assertReset (by rw [State.modPru_slot_self]; exact hq)
  · exact hphase

/-- The end of a drain returns nothing, unless the kind is NONE. -/
theorem Unreturned.drainEnd {i : Slot} {s t : State} (h : Unreturned i s t) (hk : (t.slot i).cs.kind ≠ .none) :
    Unreturned i s (t.drainEnd i) := by
  have hcycle : ∀ k : RecKind, (if k = .warm then Sequence.warm else .coldDown) ≠ .isolate := by
    intro k
    cases k <;> decide
  have hq : ((t.slot i).cs.drainPath (t.slot i).pol).2 ≠ .isolate := by
    unfold CsRec.drainPath
    rw [if_neg hk]
    split
    · exact Sequence.noConfusion
    · exact hcycle _
  rw [State.drainEnd_path, ← State.modCs_eq t i fun c => (c.drainPath (t.slot i).pol).1]
  exact (h.modCs _).startReset hq

theorem Unreturned.fence {i : Slot} {s t : State} (h : Unreturned i s t) (hr : (s.slot i).ad.runs .snapshot = false)
    (g : Trigger) {k : RecKind} (hk : k ≠ .none) : Unreturned i s (t.fence i g k none) := by
  have hcut : Unreturned i s (t.fenceCut i g k) := (((h.enter _).modCs _).fenceWork).cancelOp hr
  obtain ⟨hslots, -⟩ := (t.fenceCut i g k).fenceRaises_slots i g k (t.slot i).tt.abortCount none
  have hraised : Unreturned i s ((t.fenceCut i g k).fenceRaises i g k (t.slot i).tt.abortCount none) := by
    unfold State.fenceRaises
    dsimp only
    split
    · exact (hcut.raise _ _ _ _).raise _ _ _ _
    · exact hcut.raise _ _ _ _
  rw [State.fence_eq]
  unfold State.startDrain
  split
  · refine hraised.drainEnd ?_
    rw [State.slot_congr hslots, State.fenceCut_slot]
    exact hk
  · exact hraised.modCs _

/-! ## An action that is in progress at the end of its event (R145) -/

/-- What starts and returns nothing leaves the entry in the record, and the event ends with the summary. -/
theorem State.alone_starts {s : State} {i : Slot} {code : BitVec 8} {a : ActionArgs} {cb : ControlBlock} {c : ActCode}
    (ht : s.takes a cb) (ho : (s.slot i).ad.occupant = .none) (hc : (s.slot i).check (entryOf a code) false = .ok c)
    (h : Unreturned i (s.taken i code a) ((s.taken i code a).run i (entryOf a code) c)) :
    s.alone i code a = ((s.taken i code a).run i (entryOf a code) c).align
      ∧ s.started ((s.taken i code a).run i (entryOf a code) c).align i code a := by
  have had := h.ad
  rw [State.taken_slot] at had
  have hsettled : (((s.taken i code a).run i (entryOf a code) c).slot i).planSettled := fun hnone => by
    rw [had] at hnone
    cases hnone
  refine ⟨by rw [State.alone_runs ht ho hc, State.settle_settled hsettled], ?_⟩
  unfold State.started
  rw [State.align_slot, State.align_ri, had, h.ri]
  exact ⟨rfl, rfl, rfl, rfl, rfl⟩

end Sys2Proof.Machine
end

section
/-! PROOFS. The start of a recovery by an action. -/

namespace Sys2Proof.Machine

open Sys2Proof

/-! ## The end of a drain on a warm cycle without a hold (R47, R72, R78) -/

/-- On the warm cycle the attempt check found one more attempt and a WARM one. -/
theorem CsRec.drainPath_warm {c : CsRec} {p : Policy} (h : (c.drainPath p).2 = .warm) :
    c.attempts < p.maxAttempts ∧ (if p.escalate = true ∧ 1 < c.attempts + 1 then RecKind.cold else c.kind) = .warm := by
  have hcycle : ∀ k : RecKind, (if k = .warm then Sequence.warm else .coldDown) = .warm → k = .warm := by
    intro k
    cases k <;> decide
  unfold CsRec.drainPath at h
  split at h
  · cases h
  · split at h
    · cases h
    next hmax => exact ⟨Nat.not_le.1 hmax, hcycle _ h⟩

theorem CsRec.drainPath_cycle (c : CsRec) (p : Policy) (hk : c.kind ≠ .none) :
    (c.drainPath p).2 = .warm ∨ (c.drainPath p).2 = .coldDown := by
  have hcycle : ∀ k : RecKind, (if k = .warm then Sequence.warm else .coldDown) = .warm
      ∨ (if k = .warm then Sequence.warm else .coldDown) = .coldDown := by
    intro k
    cases k <;> decide
  unfold CsRec.drainPath
  rw [if_neg hk]
  split
  · exact Or.inr rfl
  · exact hcycle _

theorem CsRec.drainPath_state (c : CsRec) (p : Policy) (st : SlotState) :
    ({ c with state := st }.drainPath p).2 = (c.drainPath p).2 := by
  unfold CsRec.drainPath
  dsimp only
  split
  · rfl
  · split <;> rfl

/-- With no hold, what a warm cycle makes of PRU past ASSERT is not told. -/
theorem SlotRec.drainedNow_warm {r w : SlotRec} (h : r.drainedNow w) (hk : r.cs.kind ≠ .none) (hh : r.pol.resetHold = 0)
    (hw : (r.cs.drainPath r.pol).2 = .warm) (p : PruRec) : r.drainedNow { w with pru := p } := by
  obtain ⟨hmax, hkind⟩ := CsRec.drainPath_warm hw
  obtain ⟨hentry, hhold, hctf, -, -, -, -⟩ := h fun hn => absurd hn hk
  refine fun _ => ⟨hentry, hhold, hctf, fun _ _ hne => absurd hh hne, fun _ hc => ?_, fun _ hle => absurd hmax (Nat.not_lt.2 hle),
    fun hn => absurd hn hk⟩
  rw [hkind] at hc
  cases hc

/-- The path past ASSERT on the warm cycle without a hold: the slot waits out the release lag. -/
theorem State.assertReset_lags {s : State} {i : Slot} (hseq : (s.slot i).pru.sequence = .warm)
    (hh : (s.slot i).pol.resetHold = 0) (hlag : (s.slot i).pol.releaseLag ≠ 0) :
    ∃ p : PruRec, (s.assertReset i).slot i = { (s.slot i).pastAssert with pru := p } := by
  have hslot : (s.enterAssert i).slot i = (s.slot i).pastAssert := by
    rw [← State.pastAssert_slot, State.pastAssert, hseq]
  have hpol : ((s.slot i).pastAssert).pol = (s.slot i).pol := by
    unfold SlotRec.pastAssert
    rw [hseq]
    rfl
  have hdone : s.assertReset i = (s.enterAssert i).reconnect i := by
    rw [State.assertReset_eq, State.pol, PruRec.hold_warm _ hseq, if_pos hh, State.assertDone, State.enterAssert_sequence, hseq]
  rw [hdone, State.reconnect_lags (by rw [hslot, hpol]; exact hlag), hslot]
  exact ⟨_, State.setSlot_slot_self _ _ _⟩

/-- The cold path takes the slot past ASSERT in the event, whatever the hold. -/
theorem State.assertReset_cold {s : State} {i : Slot} (hseq : (s.slot i).pru.sequence = .coldDown) :
    (s.assertReset i).slot i = (s.slot i).pastAssert := by
  rw [State.assertReset_through (by rw [hseq]; decide), State.assertDone_coldDown (by rw [State.enterAssert_sequence, hseq]),
    ← State.pastAssert_slot, State.pastAssert, hseq]

/-- The end of the drain of a fenced slot that has a kind, where the reset hold may be 0 and the release lag is not. -/
theorem State.drainEnd_lags {s : State} {i : Slot} {r : SlotRec} (h : r.fencedWith (s.slot i)) (hk : r.cs.kind ≠ .none)
    (hlag : r.pol.releaseLag ≠ 0) :
    (r.pol.isoLead ≠ 0 → r.drained ((s.drainEnd i).slot i)) ∧ (r.pol.isoLead = 0 → r.drainedNow ((s.drainEnd i).slot i)) := by
  by_cases hh : r.pol.resetHold = 0
  case neg =>
    obtain ⟨a, q, hslot, -, -, -, -, hwaits, hnow⟩ := State.drainEnd_fenced h hh
    rw [hslot]
    exact ⟨fun hl => hwaits hl a, fun hl => hnow hl a⟩
  generalize hu : s.setSlot i { s.slot i with cs := ((s.slot i).cs.drainPath (s.slot i).pol).1 } = u
  have huslot : u.slot i = { s.slot i with cs := ((s.slot i).cs.drainPath (s.slot i).pol).1 } := by
    rw [← hu, State.setSlot_slot_self]
  have hupol : (u.slot i).pol = r.pol := by rw [← h.pol, huslot]; rfl
  have hcycle : ((s.slot i).cs.drainPath (s.slot i).pol).2 = (r.cs.drainPath r.pol).2 := by
    rw [h.pol, h.cs, CsRec.drainPath_state]
  rw [State.drainEnd_path, hu]
  refine ⟨fun hl => ?_, fun hl => ?_⟩
  · rw [State.startReset_slot _ (by rw [hupol]; exact hl), huslot]
    exact SlotRec.drained_resetting h (s.slot i).ad
  · have hnow := SlotRec.drainedNow_pastAssert h (s.slot i).ad
    rw [State.startReset_noLead _ _ _ (by rw [State.pol, hupol]; exact hl)]
    generalize hv : (u.enter i .resetting).modPru i (fun p =>
      { p with sequence := ((s.slot i).cs.drainPath (s.slot i).pol).2, isoOpen := true, timer := some 0, phase := .isolate }) = v
    have hvslot : v.slot i = SlotRec.resetting { s.slot i with cs := ((s.slot i).cs.drainPath (s.slot i).pol).1 }
        ((s.slot i).cs.drainPath (s.slot i).pol).2 0 := by
      rw [← hv, State.modPru_slot_self, State.enter_slot_self, huslot]
      rfl
    have hvpol : (v.slot i).pol = r.pol := by rw [hvslot, ← h.pol]; rfl
    have hvseq : (v.slot i).pru.sequence = (r.cs.drainPath r.pol).2 := by rw [hvslot, ← hcycle]; rfl
    have hpast : r.drainedNow (v.slot i).pastAssert := by
      have hsame : { (v.slot i).pastAssert with ad := (s.slot i).ad } = (v.slot i).pastAssert := by
        rw [hvslot]
        unfold SlotRec.pastAssert
        dsimp only
        split <;> rfl
      rw [← hsame, hvslot]
      exact hnow
    rcases CsRec.drainPath_cycle r.cs r.pol hk with hwarm | hcold
    · obtain ⟨p, hp⟩ := State.assertReset_lags (hvseq.trans hwarm) (by rw [hvpol]; exact hh) (by rw [hvpol]; exact hlag)
      rw [hp]
      exact SlotRec.drainedNow_warm hpast hk hh hwarm p
    · rw [State.assertReset_cold (hvseq.trans hcold)]
      exact hpast

end Sys2Proof.Machine
end

section
/-! PROOFS. RECOVER, and FENCE in ISOLATED, by state. -/

namespace Sys2Proof.Machine

open Sys2Proof

theorem kindOfArg_recovery {n : BitVec 16} (h : n = 1 ∨ n = 2) :
    kindOfArg n ≠ .none ∧ kindOfArg n = if n = 1 then .warm else .cold := by
  rcases h with rfl | rfl <;> decide

/-! ## Nothing is returned where a recovery begins (R145) -/

theorem Unreturned.recoverAction {i : Slot} {s : State} (hr : (s.slot i).ad.runs .snapshot = false) {n : BitVec 16}
    (hn : n = 1 ∨ n = 2) : Unreturned i s (s.recoverAction i n) := by
  unfold State.recoverAction
  split
  · split
    · exact ((((Unreturned.refl i s).modCs _).enter _).modPru _).reconnect
    · exact ((Unreturned.refl i s).modCs _).shutdown
  · exact ((Unreturned.refl i s).modCs _).fence hr _ (kindOfArg_recovery hn).1
  · exact ((Unreturned.refl i s).modCs _).powerUp hr
  · exact Unreturned.refl i s

/-- RECOVER, and FENCE with WARM or COLD in ISOLATED, start a recovery, and the entry is in progress at the end of the event. -/
theorem State.recovery_starts {s : State} {i : Slot} {code : BitVec 8} {a : ActionArgs} {cb : ControlBlock} (ht : s.takes a cb)
    (hp : (s.slot i).policy ≠ none) (hb : a.argB = 0) (ha : a.argA = 1 ∨ a.argA = 2) (ho : (s.slot i).ad.occupant = .none)
    (hc : code = 2 ∧ ActCode.recover.accepts (s.slot i).cs.state = true ∨ code = 1 ∧ (s.slot i).cs.state = .isolated) :
    s.alone i code a = ((s.taken i code a).recoverAction i a.argA).align
      ∧ s.started ((s.taken i code a).recoverAction i a.argA).align i code a := by
  have hfree : ∀ c : ActCode, (s.slot i).ad.occupant = .none ∨ c.overtakes (s.slot i).ad = true := fun _ => Or.inl ho
  have hkeeps : Unreturned i (s.taken i code a) ((s.taken i code a).recoverAction i a.argA) := by
    refine Unreturned.recoverAction ?_ ha
    rw [State.taken_slot]
    rcases hc with ⟨rfl, -⟩ | ⟨rfl, -⟩ <;> rfl
  rcases hc with ⟨rfl, haccepts⟩ | ⟨rfl, hst⟩
  · refine State.alone_starts ht ho (c := .recover) (SlotRec.check_passes rfl hp ?_ (hfree _) haccepts) hkeeps
    rcases ha with ha | ha <;> simp [entryOf, ActCode.argsOk, hb, ha]
  · have hrun : (s.taken i 1 a).run i (entryOf a 1) .fence = (s.taken i 1 a).recoverAction i a.argA := by
      have hstate : ((s.taken i 1 a).slot i).cs.state = .isolated := by rw [State.taken_slot]; exact hst
      simp only [State.run, State.startFence, hstate]
      exact if_neg (kindOfArg_recovery ha).1
    rw [← hrun] at hkeeps ⊢
    refine State.alone_starts ht ho (c := .fence) (SlotRec.check_passes rfl hp ?_ (hfree _) (by rw [hst]; rfl)) hkeeps
    rcases ha with ha | ha <;> simp [entryOf, ActCode.argsOk, hb, ha]

/-! ## The paths from ISOLATED (R47, R54) -/

theorem State.recoverAction_warm {s : State} {i : Slot} {n : BitVec 16} (hst : (s.slot i).cs.state = .isolated) (hn : n = 1)
    (hlag : (s.slot i).pol.releaseLag ≠ 0) :
    ((s.recoverAction i n).slot i).cs
        = { (s.slot i).cs.firstAttempt .warm (s.slot i).pol.restore .action with state := .resetting }
      ∧ ((s.recoverAction i n).slot i).pru = { (s.slot i).pru with
          sequence := .reconnect, isoOpen := false, timer := some (s.slot i).pol.releaseLag, phase := .reconnect } := by
  generalize hv : (((s.modCs i fun c => c.firstAttempt .warm (s.pol i).restore .action).enter i .resetting).modPru i
    fun p => { p with sequence := .reconnect }) = v
  have hrecover : s.recoverAction i n = v.reconnect i := by
    subst hn
    rw [← hv]
    simp only [State.recoverAction, hst]
    rfl
  have hslot : v.slot i = { s.slot i with
      cs := { (s.slot i).cs.firstAttempt .warm (s.slot i).pol.restore .action with state := .resetting }
      ctf := { (s.slot i).ctf with cls := SlotState.resetting.cls }
      pru := { (s.slot i).pru with sequence := .reconnect } } := by
    rw [← hv, State.modPru_slot_self, State.enter_slot_self, State.modCs, State.modSlot_slot_self]
    rfl
  have hpol : (v.slot i).pol = (s.slot i).pol := by rw [hslot]; rfl
  have hafter : (v.reconnect i).slot i = { v.slot i with
      pru := { (v.slot i).pru with isoOpen := false, timer := some (v.slot i).pol.releaseLag, phase := .reconnect } } := by
    rw [State.reconnect_lags (by rw [hpol]; exact hlag)]
    exact State.setSlot_slot_self _ _ _
  rw [hrecover, hafter, hpol, hslot]
  exact ⟨rfl, rfl⟩

theorem State.recoverAction_cold {s : State} {i : Slot} {n : BitVec 16} (hst : (s.slot i).cs.state = .isolated) (hn : n = 2) :
    ((s.recoverAction i n).slot i).cs = { (s.slot i).cs.firstAttempt .cold (s.slot i).pol.restore .action with
        target := .none, retryPending := false, state := .bleeding }
      ∧ ((s.recoverAction i n).slot i).pru
          = { (s.slot i).pru with sequence := .shutdown }.powerOff (s.slot i).pol.bleedWait := by
  have hrecover : s.recoverAction i n = s.recoverCold i := by
    subst hn
    simp only [State.recoverAction, hst]
    rfl
  rw [hrecover, State.recoverCold, State.shutdown_slot, State.modCs, State.modSlot_slot_self]
  exact ⟨rfl, rfl⟩

/-! ## The path from RETIRED (R53, R54, R74) -/

/-- The slot's record when the rail rises in POWERING. -/
def SlotRec.rising (r : SlotRec) (c : CsRec) : SlotRec :=
  { r with cs := { c with state := .powering }, ctf := { r.ctf with cls := SlotState.powering.cls }, pru := r.pru.enterRamp }

/-- The slot record of a RECOVER from RETIRED, before POWERING. -/
def CsRec.recoverRetired (c : CsRec) (restore : Bool) : CsRec :=
  { c.firstAttempt .cold restore .action with target := .none, retryPending := false }

/-- The rail rises, and a power-good level already accepted is a ramp fault at count 0. -/
theorem State.recoverAction_retired {s : State} {i : Slot} (n : BitVec 16) (hst : (s.slot i).cs.state = .retired) :
    ∃ v : State, v.slot i = (s.slot i).rising ((s.slot i).cs.recoverRetired (s.slot i).pol.restore) ∧ v.iq = s.iq
      ∧ s.recoverAction i n = if (s.slot i).sense.pgAcc then v.rampFault i .rampFast else v := by
  have hrecover : s.recoverAction i n = s.recoverRetired i .action := by simp only [State.recoverAction, hst]
  refine ⟨((s.modCs i fun c => c.recoverRetired (s.slot i).pol.restore).enter i .powering).modPru i PruRec.enterRamp, ?_, rfl, ?_⟩
  · rw [State.modPru_slot_self, State.enter_slot_self, State.modCs, State.modSlot_slot_self]
    rfl
  · have hsense : ((s.modCs i fun c => c.recoverRetired (s.slot i).pol.restore).slot i).sense = (s.slot i).sense := by
      rw [State.modCs, State.modSlot_slot_self]
    rw [hrecover, ← hsense]
    rfl

/-! ## The fence from HELD (R43, R54) -/

/-- The record that a RECOVER in HELD fences with. -/
def SlotRec.recovering (r : SlotRec) (k : RecKind) : SlotRec :=
  { r with cs := { r.cs with attempts := 0, trigger := .action, target := .none, retryPending := false, kind := k } }

theorem State.recoverAction_held {s : State} {i : Slot} (n : BitVec 16) (hst : (s.slot i).cs.state = .held) :
    ∃ v : State, v.slot i = { s.slot i with cs := { (s.slot i).cs with attempts := 0 } }
      ∧ s.recoverAction i n = v.fence i .action (kindOfArg n) none := by
  refine ⟨s.modCs i fun c => { c with attempts := 0 }, State.modSlot_slot_self _ _ _, ?_⟩
  simp only [State.recoverAction, hst]

theorem SlotRec.recovering_fenced (r : SlotRec) (k : RecKind) (a : AdRec) : (r.recovering k).fencedWith
    { SlotRec.fencedBy { r with cs := { r.cs with attempts := 0 } } .action k with ad := a } := ⟨rfl, rfl, rfl, rfl⟩

end Sys2Proof.Machine
end

section
/-! PROOFS. The first attempt of a recovery that an action begins. -/

namespace Sys2Proof.Machine

open Sys2Proof

theorem SlotRec.pol_of_some {r : SlotRec} {p : Policy} (h : r.policy = some p) : r.pol = p := by rw [SlotRec.pol, h]; rfl

/-- The fields that RECOVER and FENCE read of a slot whose record has taken the entry. -/
theorem State.taken_same (s : State) (i : Slot) (code : BitVec 8) (a : ActionArgs) :
    ((s.taken i code a).slot i).cs = (s.slot i).cs ∧ ((s.taken i code a).slot i).pru = (s.slot i).pru
      ∧ ((s.taken i code a).slot i).pol = (s.slot i).pol ∧ ((s.taken i code a).slot i).sense = (s.slot i).sense
      ∧ ((s.taken i code a).slot i).tt = (s.slot i).tt := by
  rw [State.taken_slot]
  exact ⟨rfl, rfl, rfl, rfl, rfl⟩

/-- A fence in HELD by RECOVER, where the drain runs. -/
theorem State.recovery_drains {s : State} {i : Slot} (n : BitVec 16) (hst : (s.slot i).cs.state = .held)
    (hdrain : (s.slot i).pol.drain ≠ 0) (hlive : ∃ k, (s.slot i).tt.entry k ≠ .free) (hd : (s.slot i).planDone) :
    ((s.recoverAction i n).slot i).cs = { ((s.slot i).recovering (kindOfArg n)).cs with
      state := .fenced, drain := some (s.slot i).pol.drain } := by
  obtain ⟨v, hv, hrun⟩ := State.recoverAction_held n hst
  obtain ⟨w, hw⟩ := State.fence_waits (s := v) (i := i) .action (kindOfArg n) none (by rw [hv]; exact hdrain)
    (by rw [hv]; exact hlive) (by rw [hv]; exact hd)
  rw [hrun, hw.1, hv]
  rfl

/-- A fence in HELD by RECOVER, where the drain ends in the event. -/
theorem State.recovery_drained {s : State} {i : Slot} {n : BitVec 16} (hst : (s.slot i).cs.state = .held) (hn : n = 1 ∨ n = 2)
    (hlag : (s.slot i).pol.releaseLag ≠ 0) (hends : (s.slot i).pol.drain = 0 ∨ ∀ k, (s.slot i).tt.entry k = .free) :
    ((s.slot i).pol.isoLead ≠ 0 → ((s.slot i).recovering (kindOfArg n)).drained ((s.recoverAction i n).slot i))
      ∧ ((s.slot i).pol.isoLead = 0 → ((s.slot i).recovering (kindOfArg n)).drainedNow ((s.recoverAction i n).slot i)) := by
  obtain ⟨v, hv, hrun⟩ := State.recoverAction_held n hst
  obtain ⟨w, hfence, hw⟩ := State.fence_ends (s := v) (i := i) .action (kindOfArg n) none (by rw [hv]; exact hends)
  have hfenced : ((s.slot i).recovering (kindOfArg n)).fencedWith (w.slot i) := by
    rw [hw, hv]
    exact (s.slot i).recovering_fenced _ _
  rw [hrun, hfence]
  exact State.drainEnd_lags hfenced (kindOfArg_recovery hn).1 hlag

/-- A RECOVER in RETIRED that finds power-good accepted: RAMP_FAST at count 0 fails attempt 1. -/
theorem State.recovery_rampFast {s : State} {i : Slot} (n : BitVec 16) (hst : (s.slot i).cs.state = .retired)
    (hacc : (s.slot i).sense.pgAcc = true) :
    ((s.recoverAction i n).slot i).cs = { (s.slot i).cs.recoverRetired (s.slot i).pol.restore with
        state := .bleeding, kind := .cold, drain := none
        target := if (s.slot i).pol.maxAttempts ≤ 1 then .retired else .none
        retryPending := if (s.slot i).pol.maxAttempts ≤ 1 then false else true }
      ∧ ((s.recoverAction i n).slot i).pru.dark
      ∧ (queuedFor i s.iq ≤ 2 →
        (∃ x ∈ (s.recoverAction i n).iq,
          x.slot = i ∧ x.kind = .railFault ∧ x.countA = 0 ∧ x.detail = 1 ∧ x.trigger = .action)
          ∧ ∃ x ∈ (s.recoverAction i n).iq, x.slot = i ∧ x.kind = .recoveryFailed ∧ x.countB = 2 ∧ x.trigger = .action) := by
  obtain ⟨v, hv, hiq, hrises⟩ := State.recoverAction_retired n hst
  rw [hacc, if_pos rfl] at hrises
  have hslot := v.rampFault_slot i .rampFast
  have hcs := SlotRec.failed_cs (v.slot i)
  rw [hv] at hcs
  rw [hrises]
  refine ⟨by rw [hslot, hv]; exact hcs, by rw [hslot]; exact SlotRec.failed_dark _, fun hq => ?_⟩
  obtain ⟨hfault, hfailed⟩ := State.rampFault_incidents (s := v) (i := i) .rampFast (by rw [hiq]; exact hq)
  have htrigger : (v.slot i).cs.trigger = .action := by rw [hv]; rfl
  exact ⟨⟨_, hfault, rfl, rfl, by rw [hv]; rfl, rfl, htrigger⟩, _, hfailed, rfl, rfl, by rw [hv]; rfl, htrigger⟩

theorem SlotRec.drainedNow_ad {r q : SlotRec} {a : AdRec} (h : SlotRec.drainedNow { r with ad := a } q) (ha : a.remaining = []) :
    r.drainedNow q := fun _ => h fun _ => ha

/-- The row that begins a recovery runs as RECOVER does on the slot whose record has taken the entry. -/
theorem exec_recovery {s : State} {i : Slot} {a : ActionArgs} {cb : ControlBlock} {c : Instr} (ht : s.takes a cb)
    (hp : (s.slot i).policy ≠ none) (hb : a.argB = 0) (ha : a.argA = 1 ∨ a.argA = 2) (ho : (s.slot i).ad.occupant = .none)
    (hc : c = .recover i a ∨ c = .fence i a ∧ (s.slot i).cs.state = .isolated)
    (haccepts : ActCode.recover.accepts (s.slot i).cs.state = true) :
    let code : BitVec 8 := if c = .fence i a then 1 else 2
    exec c s = .next ((s.taken i code a).recoverAction i a.argA).align
      ∧ s.started ((s.taken i code a).recoverAction i a.argA).align i code a := by
  rcases hc with rfl | ⟨rfl, hst⟩
  · rw [if_neg nofun]
    dsimp only
    obtain ⟨halone, hstarted⟩ := State.recovery_starts ht hp hb ha ho (Or.inl ⟨rfl, haccepts⟩)
    rw [← halone] at hstarted ⊢
    exact ⟨rfl, hstarted⟩
  · rw [if_pos rfl]
    dsimp only
    obtain ⟨halone, hstarted⟩ := State.recovery_starts ht hp hb ha ho (Or.inr ⟨rfl, hst⟩)
    rw [← halone] at hstarted ⊢
    exact ⟨rfl, hstarted⟩

/-- Settles O40, by state: the paths of RECOVER, with the entry in the record. -/
theorem recoverBeginsTheFirstAttempt : Obligations.RecoverBeginsTheFirstAttempt := by
  intro s i a cb p c
  dsimp only
  intro ht _ hp hb ha ho _ hlag hc
  have hexec := exec_recovery ht (by rw [hp]; exact Option.some_ne_none p) hb ha ho hc
  have hrecover : c = .recover i a → (if c = .fence i a then (1 : BitVec 8) else 2) = 2 := by
    rintro rfl
    exact if_neg nofun
  obtain ⟨hcs, hpru, hpol, hsense, htt⟩ := s.taken_same i (if c = .fence i a then 1 else 2) a
  have hplan : ((s.taken i (if c = .fence i a then 1 else 2) a).slot i).planDone := by rw [State.taken_slot]; rfl
  have hrecord : ∀ k, ((s.taken i (if c = .fence i a then 1 else 2) a).slot i).recovering k
      = { (s.slot i).recovering k with ad := ((s.taken i (if c = .fence i a then 1 else 2) a).slot i).ad } := fun k => by
    rw [State.taken_slot]
    rfl
  have hiq := s.taken_iq i (if c = .fence i a then 1 else 2) a
  have hkind := (kindOfArg_recovery ha).2
  dsimp only at hexec
  generalize (if c = .fence i a then (1 : BitVec 8) else 2) = code at *
  generalize s.taken i code a = u at *
  rw [SlotRec.pol_of_some hp] at hpol
  refine ⟨fun hst => ?_, fun hcode hst hacc => ?_, fun hcode hst hacc => ?_, fun hcode hst hdrain hlive => ?_,
    fun hcode hst hends => ?_⟩
  · obtain ⟨hrun, hstarted⟩ := hexec (by rw [hst]; rfl)
    refine ⟨_, hrun, hstarted, ?_⟩
    rw [State.align_slot]
    rcases ha with hwarm | hcold
    · obtain ⟨h1, h2⟩ := State.recoverAction_warm (by rw [hcs]; exact hst) hwarm (by rw [hpol]; exact hlag)
      rw [h1, h2, hpol, hcs, hpru]
      exact ⟨rfl, rfl, rfl, fun _ => ⟨rfl, rfl, rfl⟩, fun h => absurd (hwarm.symm.trans h) (by decide)⟩
    · obtain ⟨h1, h2⟩ := State.recoverAction_cold (by rw [hcs]; exact hst) hcold
      rw [h1, h2, hpol, hcs, hpru]
      exact ⟨rfl, rfl, rfl, fun h => absurd (hcold.symm.trans h) (by decide),
        fun _ => ⟨rfl, rfl, rfl, rfl, ⟨rfl, rfl, rfl⟩, rfl, rfl⟩⟩
  all_goals
    obtain rfl := hrecover hcode
    obtain ⟨hrun, hstarted⟩ := hexec (by rw [hst]; rfl)
    refine ⟨_, hrun, hstarted, ?_⟩
    rw [State.align_slot]
  · obtain ⟨v, hv, -, hrises⟩ := State.recoverAction_retired a.argA ((congrArg CsRec.state hcs).trans hst)
    rw [hsense, hacc] at hrises
    rw [hrises, if_neg nofun, hv, hcs, hpol]
    exact ⟨rfl, rfl, rfl⟩
  · obtain ⟨h1, h2, h3⟩ := State.recovery_rampFast a.argA ((congrArg CsRec.state hcs).trans hst)
      ((congrArg SenseRec.pgAcc hsense).trans hacc)
    rw [hpol] at h1
    rw [h1]
    refine ⟨rfl, rfl, rfl, rfl, h2, rfl, ?_, fun hq => ?_⟩
    · by_cases hm : p.maxAttempts ≤ 1 <;> simp [hm]
    · rw [(State.align_ring _).iq]
      exact h3 (by rw [hiq]; exact hq)
  · have h := State.recovery_drains a.argA ((congrArg CsRec.state hcs).trans hst) (by rw [hpol]; exact hdrain)
      (by rw [htt]; exact hlive) hplan
    rw [h, hrecord, hpol]
    exact ⟨rfl, rfl, rfl, rfl, hkind⟩
  · obtain ⟨hwaits, hnow⟩ := State.recovery_drained ((congrArg CsRec.state hcs).trans hst) ha (by rw [hpol]; exact hlag)
      (by rw [hpol, htt]; exact hends)
    rw [hpol, hrecord, hkind] at hwaits hnow
    exact ⟨hwaits, fun hl => SlotRec.drainedNow_ad (hnow hl) hplan⟩

end Sys2Proof.Machine
end

section
/-! PROOFS. POWER_ON in OFF. -/

namespace Sys2Proof.Machine

open Sys2Proof

theorem Unreturned.bringUp {i : Slot} {s : State} (hr : (s.slot i).ad.runs .snapshot = false) (b : Bool) :
    Unreturned i s (s.bringUp i b) := ((Unreturned.refl i s).modCs _).powerUp hr

/-- The outputs that change at the entry to RAMP. -/
theorem State.bringRamp_signals (s : State) (i : Slot) (b : Bool) : (s.bringRamp i b).signals = s.signals
    ++ (if (s.slot i).pru.bleed then [⟨i, .bleed, false⟩] else [])
    ++ if (s.slot i).pru.power then [] else [⟨i, .power, true⟩] := by
  have hslot := s.bringRamp_slot i b
  have hchanges : signalChanges i (s.slot i).pru (s.slot i).pru.enterRamp
      = (if (s.slot i).pru.bleed then [⟨i, .bleed, false⟩] else [])
        ++ if (s.slot i).pru.power then [] else [⟨i, .power, true⟩] := by
    cases hb : (s.slot i).pru.bleed <;> cases hp : (s.slot i).pru.power <;>
      simp [signalChanges, PruRec.enterRamp, hb, hp]
  have hsignals : (s.bringRamp i b).signals = s.signals ++ signalChanges i (s.slot i).pru (s.slot i).pru.enterRamp := by
    rw [State.bringRamp, State.modPru_signals, State.enter_slot_self, State.modCs, State.modSlot_slot_self]
    rfl
  rw [hsignals, hchanges, List.append_assoc]

/-- The row starts a bring-up on the slot whose record has taken the entry. -/
theorem exec_powerOn {s : State} {i : Slot} {a : ActionArgs} {cb : ControlBlock} (ht : s.takes a cb)
    (hp : (s.slot i).policy ≠ none) (hb : a.argB = 0) (ha : a.argA.toNat ≤ 1) (ho : (s.slot i).ad.occupant = .none)
    (hst : (s.slot i).cs.state = .off) :
    exec (.powerOn i a) s = .next ((s.taken i 3 a).bringUp i (decide (a.argA = 1))).align
      ∧ s.started ((s.taken i 3 a).bringUp i (decide (a.argA = 1))).align i 3 a := by
  have hargs : ActCode.powerOn.argsOk a.argA a.argB = true := by simp [ActCode.argsOk, hb, ha]
  obtain ⟨halone, hstarted⟩ := State.alone_starts (c := .powerOn) (code := 3) ht ho
    (SlotRec.check_passes rfl hp hargs (Or.inl ho) (by rw [hst]; rfl)) (Unreturned.bringUp (by rw [State.taken_slot]; rfl) _)
  rw [← halone] at hstarted
  exact ⟨congrArg Host.Outcome.next halone, halone ▸ hstarted⟩

/-- Settles O41: the entry to RAMP, and RAMP_FAST at count 0. -/
theorem powerOnStartsABringUp : Obligations.PowerOnStartsABringUp := by
  intro s i a cb
  dsimp only
  intro ht hline hp hb ha ho _ hst
  obtain ⟨hrun, hstarted⟩ := exec_powerOn ht hp hb ha ho hst
  have hup := (s.taken i 3 a).bringUp_eq i (decide (a.argA = 1))
  have hramp := (s.taken i 3 a).bringRamp_slot i (decide (a.argA = 1))
  have hsignals := (s.taken i 3 a).bringRamp_signals i (decide (a.argA = 1))
  rw [State.taken_slot] at hup hramp hsignals
  dsimp only at hup hsignals
  refine ⟨fun hacc => ⟨_, hrun, hstarted, ?_⟩, fun hacc => ⟨_, hrun, hstarted, ?_⟩⟩ <;> rw [hup, hacc]
  · have hinLine : ((s.taken i 3 a).bringRamp i (decide (a.argA = 1))).summaryInLine :=
      State.summaryInLine_of_same hline rfl rfl rfl
    rw [if_neg nofun, State.align_of_summaryInLine hinLine, hramp]
    exact ⟨rfl, rfl, rfl, rfl, rfl, rfl, hsignals⟩
  · rw [if_pos rfl, State.align_slot, (State.align_ring _).iq]
    have hiq : ((s.taken i 3 a).bringRamp i (decide (a.argA = 1))).iq = s.iq := rfl
    generalize (s.taken i 3 a).bringRamp i (decide (a.argA = 1)) = v at hramp hiq
    rw [v.rampFault_slot i .rampFast]
    have hpol : (v.slot i).pol = (s.slot i).pol := by rw [hramp]; rfl
    have hattempts : (v.slot i).cs.attempts = 0 := by rw [hramp]; rfl
    refine ⟨by rw [hramp]; rfl, ?_, SlotRec.failed_dark _, rfl, rfl, rfl, ?_, fun hq => ?_⟩
    · rw [SlotRec.failed_cs, hpol, hattempts, hramp]
      by_cases hm : (s.slot i).pol.maxAttempts = 0 <;> simp [SlotRec.ramping, hm]
    · rw [SlotRec.failed_pru, hpol]
    · obtain ⟨hfault, hfailed⟩ := State.rampFault_incidents (s := v) (i := i) .rampFast (by rw [hiq]; exact hq)
      exact ⟨⟨_, hfault, rfl, rfl, by rw [hramp]; rfl, rfl, rfl⟩, _, hfailed, rfl, rfl, by rw [hramp]; rfl⟩

end Sys2Proof.Machine
end

section
/-! SUPPORT. An action that is returned in the event in which it starts, and the entry to PROBATION. -/

namespace Sys2Proof.Machine

open Sys2Proof

/-! ## An entry returned in the event that took it (R171, R173) -/

/-- What an action leaves when it ends its own entry: RI's record and the entry as taken, the outputs `pre` added. -/
structure ActsOnce (i : Slot) (code : BitVec 8) (a : ActionArgs) (s w : State) (pre : List Output) : Prop where
  unreturned : Unreturned i (s.taken i code a) w
  tb : w.tb = s.tb
  out : w.out = s.out ++ pre

/-- The entry just taken is the last in flight, and no other has its index. -/
theorem State.takes.find {s : State} {a : ActionArgs} {cb : ControlBlock} (h : s.takes a cb) (n : Tick) :
    (s.ri.inFlight ++ [InFlight.mk a.index n]).find? (fun g => decide (g.index = a.index)) = some ⟨a.index, n⟩ := by
  obtain ⟨-, -, -, hflight, -⟩ := h
  have hnone : s.ri.inFlight.find? (fun g => decide (g.index = a.index)) = none :=
    List.find?_eq_none.2 fun f hf => by simpa using hflight f hf
  rw [List.find?_append, hnone]
  simp

theorem State.takes.filter {s : State} {a : ActionArgs} {cb : ControlBlock} (h : s.takes a cb) (n : Tick) :
    (s.ri.inFlight ++ [InFlight.mk a.index n]).filter (fun g => !decide (g.index = a.index)) = s.ri.inFlight := by
  obtain ⟨-, -, -, hflight, -⟩ := h
  have hall : s.ri.inFlight.filter (fun g => !decide (g.index = a.index)) = s.ri.inFlight :=
    List.filter_eq_self.2 fun f hf => by simpa using hflight f hf
  rw [List.filter_append, hall]
  simp

theorem ActsOnce.holds {i : Slot} {code : BitVec 8} {a : ActionArgs} {s w : State} {pre : List Output} {cb : ControlBlock}
    (h : ActsOnce i code a s w pre) (ht : s.takes a cb) : w.holdsEntry i (entryOf a code) ⟨a.index, s.tb.counter⟩ cb := by
  unfold State.holdsEntry
  rw [h.unreturned.ad, State.taken_slot, h.unreturned.ri]
  exact ⟨rfl, rfl, ht.1, ht.find _⟩

/-- An action that ends its own entry: the two writes of the return after `pre`, and the ring as before. -/
theorem State.alone_returns {s w : State} {i : Slot} {code : BitVec 8} {a : ActionArgs} {cb : ControlBlock} {c : ActCode}
    {o : ActOutcome} {n : Nat} {pre : List Output} (ht : s.takes a cb) (ho : (s.slot i).ad.occupant = .none)
    (hc : (s.slot i).check (entryOf a code) false = .ok c)
    (hrun : (s.taken i code a).run i (entryOf a code) c = w.endEntry i o n) (hw : ActsOnce i code a s w pre) :
    Returns i w (s.alone i code a)
      ∧ s.out ++ pre ++ returnWrites cb.actionBase i (entryOf a code) o (w.slot i).cs.state n s.tb.counter
          <+: (s.alone i code a).out
      ∧ (s.alone i code a).ri.inFlight = s.ri.inFlight
      ∧ (s.alone i code a).ri.causes = { s.ri.causes with actionDone := true } := by
  obtain ⟨hout, hflight, hcauses, had⟩ := w.endEntry_returned i (entryOf a code) _ cb o n (hw.holds ht)
  have hsettled : ((w.endEntry i o n).slot i).planSettled := fun _ => by rw [had]
  have halone : s.alone i code a = (w.endEntry i o n).align := by
    rw [State.alone_runs ht ho hc, hrun, State.settle_settled hsettled]
  obtain ⟨hprefix, hin, hca, -⟩ := (w.endEntry i o n).align_arrives i
  rw [halone]
  refine ⟨(w.endEntry_returns i o n).trans (State.align_returns _ i), ?_, ?_, ?_⟩
  · rw [hw.out, hw.tb, List.append_nil] at hout
    exact hout.trans hprefix
  · rw [hin, hflight, hw.unreturned.ri]
    exact ht.filter _
  · rw [hca, hcauses, hw.unreturned.ri]
    rfl

/-- The same where the action adds no output of its own. -/
theorem State.alone_answers {s w : State} {i : Slot} {code : BitVec 8} {a : ActionArgs} {cb : ControlBlock} {c : ActCode}
    {o : ActOutcome} {n : Nat} (ht : s.takes a cb) (ho : (s.slot i).ad.occupant = .none)
    (hc : (s.slot i).check (entryOf a code) false = .ok c)
    (hrun : (s.taken i code a).run i (entryOf a code) c = w.endEntry i o n) (hw : ActsOnce i code a s w []) :
    Returns i w (s.alone i code a) ∧ s.answered (s.alone i code a) i code a cb o (w.slot i).cs.state n := by
  obtain ⟨hreturns, hout, hflight, hcauses⟩ := State.alone_returns ht ho hc hrun hw
  rw [List.append_nil] at hout
  exact ⟨hreturns, hout, hflight, hcauses⟩

/-- A state entry that the record's entry does not await returns nothing. -/
theorem State.onEntry_unawaited {s : State} {i : Slot} {e : ActEntry} {st : SlotState} (n : Nat)
    (he : (s.slot i).ad.current = some e) (hst : e.awaits st = none) : s.onEntry i st n = s := by
  simp only [State.onEntry, he, hst]

/-! ## The entry to PROBATION (R57) -/

/-- The slot in PROBATION, promoted, and the held interrupt message sent, before AD returns what waits for it. -/
def State.onTrial (s : State) (i : Slot) : State :=
  ((((s.enter i .probation).modCs i fun c => c.startProbation (s.pol i)).modSlot i
    fun r => r.clearScore.clearFirstExpiry).promote i).sendHoldover i

/-- The slot's record in PROBATION. -/
def SlotRec.onTrial (r : SlotRec) : SlotRec :=
  { r with
    cs := { r.cs with state := .probation }.startProbation r.pol
    hm := { score := 0, watched := false, alert := false, firstExpiry := false }
    ctf := { holdover := none, dmaReported := false, cls := .permit } }

theorem State.enterProbation_eq (s : State) (i : Slot) :
    s.enterProbation i = (s.onTrial i).onEntry i .probation ((s.onTrial i).slot i).cs.attempts := rfl

/-- The message goes out as the last of the outputs; nothing else but the slot's CTF record changes. -/
theorem State.sendHoldover_eq (s : State) (i : Slot) : s.sendHoldover i
    = (s.setSlot i { s.slot i with ctf := { (s.slot i).ctf with holdover := none, dmaReported := false } }).emits
        ((s.slot i).ctf.holdover.toList.map (.cardWriteUp i)) := by
  unfold State.sendHoldover
  cases hw : (s.slot i).ctf.holdover with
  | none =>
    rw [Option.toList_none, List.map_nil, State.emits_nil]
    rfl
  | some w => rfl

/-- `u` is the slot of `s` in PROBATION before the return: promotion has set TT's record to `t` and sent `pre` down. -/
structure WentOnTrial (i : Slot) (s u : State) (t : TtRec) (pre : List Output) : Prop where
  slot : u.slot i = (s.slot i).onTrial.setTt t
  ri : u.ri = s.ri
  tb : u.tb = s.tb
  se : u.se = s.se
  others : ∀ j, j ≠ i → u.slot j = s.slot j
  readId : u.readId = s.readId
  out : u.out = s.out ++ pre ++ (s.slot i).ctf.holdover.toList.map (.cardWriteUp i)

theorem State.onTrial_wentOnTrial (s : State) (i : Slot) : ∃ (t : TtRec) (pre : List Output),
    WentOnTrial i s (s.onTrial i) t pre ∧ ((s.slot i).tt.hold = [] → t = (s.slot i).tt ∧ pre = []) := by
  generalize hv : ((s.enter i .probation).modCs i fun c => c.startProbation (s.pol i)).modSlot i
    (fun r => r.clearScore.clearFirstExpiry) = v
  have hslot : v.slot i = { s.slot i with
      cs := { (s.slot i).cs with state := .probation }.startProbation (s.slot i).pol
      hm := { score := 0, watched := false, alert := false, firstExpiry := false }
      ctf := { (s.slot i).ctf with cls := .permit } } := by
    rw [← hv, State.modSlot_slot_self, State.modCs, State.modSlot_slot_self, State.enter_slot_self]
    rfl
  obtain ⟨t, pre, hpromote, hnone⟩ := v.promote_sends i
  rw [hslot] at hpromote hnone
  generalize hw : v.setSlot i (SlotRec.setTt _ t) = w at hpromote
  have hwslot : w.slot i = { s.slot i with
      cs := { (s.slot i).cs with state := .probation }.startProbation (s.slot i).pol
      hm := { score := 0, watched := false, alert := false, firstExpiry := false }
      ctf := { (s.slot i).ctf with cls := .permit }
      tt := t } := by
    rw [← hw, State.setSlot_slot_self]
    rfl
  have hothers : ∀ j, j ≠ i → w.slot j = s.slot j := fun j hj => by
    rw [← hw, State.setSlot_slot_ne _ _ _ _ hj, ← hv, State.modSlot_slot_ne _ _ _ _ hj, State.modCs,
      State.modSlot_slot_ne _ _ _ _ hj, State.enter, State.modSlot_slot_ne _ _ _ _ hj]
  refine ⟨t, pre, ?_, hnone⟩
  rw [State.onTrial, hv, hpromote, State.sendHoldover_eq, State.emits_slot, hwslot]
  refine ⟨?_, by rw [← hw, ← hv]; rfl, by rw [← hw, ← hv]; rfl, by rw [← hw, ← hv]; rfl, fun j hj => ?_,
    by rw [← hw, ← hv]; rfl, by rw [← hw, ← hv]; rfl⟩
  · rw [State.emits_slot, State.setSlot_slot_self]
    rfl
  · rw [State.emits_slot, State.setSlot_slot_ne _ _ _ _ hj, State.emits_slot, hothers j hj]

/-- With no request held, nothing is sent down. -/
theorem State.onTrial_still {s : State} {i : Slot} (hh : (s.slot i).tt.hold = []) :
    WentOnTrial i s (s.onTrial i) (s.slot i).tt [] := by
  obtain ⟨t, pre, hwent, hnone⟩ := s.onTrial_wentOnTrial i
  obtain ⟨rfl, rfl⟩ := hnone hh
  exact hwent

end Sys2Proof.Machine
end

section
/-! PROOFS. ADMIT and RELEASE. -/

namespace Sys2Proof.Machine

open Sys2Proof

theorem SlotRec.onTrial_cs {r : SlotRec} {p : Policy} (h : r.policy = some p) : r.onTrial.cs =
    { r.cs with
      state := .probation, probMode := if p.probationTraffic then .traffic else .quiet
      probCount := if p.probationTraffic then 0 else p.probQuiet } := by
  change { r.cs with state := .probation }.startProbation r.pol = _
  rw [SlotRec.pol_of_some h, CsRec.startProbation]
  split <;> rfl

/-- ADMIT is the entry to PROBATION, with its own entry ended DONE. -/
theorem State.admit_runs {s : State} {i : Slot} {a : ActionArgs} (hh : (s.slot i).tt.hold = []) :
    (s.taken i 6 a).run i (entryOf a 6) .admitSlot = ((s.taken i 6 a).onTrial i).endEntry i .done 0
      ∧ WentOnTrial i (s.taken i 6 a) ((s.taken i 6 a).onTrial i) ((s.taken i 6 a).slot i).tt [] := by
  have hwent := State.onTrial_still (s := s.taken i 6 a) (i := i) (by rw [State.taken_slot]; exact hh)
  refine ⟨?_, hwent⟩
  have hentry : (((s.taken i 6 a).onTrial i).slot i).ad.current = some (entryOf a 6) := by
    rw [hwent.slot, State.taken_slot]
    rfl
  rw [State.run, State.startAdmit, State.enterProbation_eq, State.onEntry_unawaited _ hentry rfl]

/-- RELEASE is the entry to ONLINE, with its own entry ended DONE and the count as the result. -/
theorem State.release_runs {s : State} {i : Slot} {a : ActionArgs} (hh : (s.slot i).tt.hold = []) :
    (s.taken i 7 a).run i (entryOf a 7) .release
      = ((s.taken i 7 a).goneOnline i).endEntry i .done (s.slot i).cs.probCount := by
  have hslot := (s.taken i 7 a).goneOnline_slot i
  rw [State.taken_slot] at hslot
  have hstill : ((s.taken i 7 a).goneOnline i).promote i = (s.taken i 7 a).goneOnline i :=
    State.promote_still (Or.inl (by rw [hslot]; exact hh))
  have hentry : (((s.taken i 7 a).goneOnline i).slot i).ad.current = some (entryOf a 7) := by rw [hslot]
  rw [State.run, State.startRelease, State.probationEnd_eq, hstill, State.onEntry_unawaited _ hentry rfl, State.taken_slot]

theorem exec_admitSlot (s : State) (i : Slot) (a : ActionArgs) : exec (.admitSlot i a) s = .next (s.alone i 6 a) := rfl

theorem exec_release (s : State) (i : Slot) (a : ActionArgs) : exec (.release i a) s = .next (s.alone i 7 a) := rfl

/-- Settles O43: the two entries, and the return of the action by its own hand. -/
theorem admitAndReleaseReturnDone : Obligations.AdmitAndReleaseReturnDone := by
  intro s i a cb p
  dsimp only
  intro ht hp hb ha ho _ hh
  have hpolicy : (s.slot i).policy ≠ none := by rw [hp]; exact Option.some_ne_none p
  have hchecks : ∀ c : ActCode, c.argsOk a.argA a.argB = true → c.accepts (s.slot i).cs.state = true → ∀ code,
      (entryOf a code).act = some c → (s.slot i).check (entryOf a code) false = .ok c := fun c hargs haccepts code hact =>
    SlotRec.check_passes hact hpolicy hargs (Or.inl ho) haccepts
  have hargs : ActCode.admitSlot.argsOk a.argA a.argB = true ∧ ActCode.release.argsOk a.argA a.argB = true := by
    rw [ha, hb]
    exact ⟨rfl, rfl⟩
  obtain ⟨hadmit, hwent⟩ := State.admit_runs (a := a) hh
  have htrial : ∀ pre, (s.slot i).ctf.holdover.toList.map (.cardWriteUp i) = pre →
      ActsOnce i 6 a s ((s.taken i 6 a).onTrial i) pre := by
    rintro pre rfl
    refine ⟨⟨hwent.ri, by rw [hwent.slot]; rfl⟩, hwent.tb, ?_⟩
    rw [hwent.out, State.taken_slot, List.append_nil]
    rfl
  have hstate : (((s.taken i 6 a).onTrial i).slot i).cs
      = { (s.slot i).cs with
          state := .probation, probMode := if p.probationTraffic then .traffic else .quiet
          probCount := if p.probationTraffic then 0 else p.probQuiet } := by
    rw [hwent.slot]
    refine (SlotRec.onTrial_cs (r := (s.taken i 6 a).slot i) (p := p) (by rw [State.taken_slot]; exact hp)).trans ?_
    rw [State.taken_slot]
  refine ⟨fun hst hw => ⟨_, exec_admitSlot s i a, ?_⟩, fun w hst hw => ⟨_, exec_admitSlot s i a, ?_⟩,
    fun hst => ⟨_, exec_release s i a, ?_⟩⟩
  · obtain ⟨hreturns, hanswered⟩ := State.alone_answers ht ho
      (hchecks .admitSlot hargs.1 (by rw [hst]; rfl) 6 rfl) hadmit (htrial [] (by rw [hw]; rfl))
    rw [hreturns.slot]
    rw [hstate] at hanswered ⊢
    rw [hwent.slot, State.taken_slot]
    exact ⟨hanswered, rfl, rfl, rfl, rfl⟩
  · obtain ⟨hreturns, hout, -, -⟩ := State.alone_returns ht ho
      (hchecks .admitSlot hargs.1 (by rw [hst]; rfl) 6 rfl) hadmit (htrial [.cardWriteUp i w] (by rw [hw]; rfl))
    rw [hstate] at hout
    rw [hreturns.slot, hstate, hwent.slot]
    refine ⟨rfl, rfl, ?_⟩
    rw [List.append_assoc] at hout
    exact hout
  · have hslot := (s.taken i 7 a).goneOnline_slot i
    rw [State.taken_slot] at hslot
    have honce : ActsOnce i 7 a s ((s.taken i 7 a).goneOnline i) [] :=
      ⟨⟨rfl, by rw [hslot, State.taken_slot]⟩, rfl, (List.append_nil _).symm⟩
    obtain ⟨hreturns, hanswered⟩ := State.alone_answers ht ho
      (hchecks .release hargs.2 (by rw [hst]; rfl) 7 rfl) (State.release_runs hh) honce
    rw [hslot] at hanswered
    rw [hreturns.slot, hslot, hreturns.iq]
    refine ⟨hanswered, rfl, rfl, rfl, fun hq => ?_⟩
    obtain ⟨x, hx, h1, h2, -, -, h3, -, h4⟩ := State.goneOnline_recovered (s := s.taken i 7 a) (i := i) hq
    rw [State.taken_slot] at h3 h4
    exact ⟨x, hx, h1, h2, h3, h4⟩

end Sys2Proof.Machine
end

section
/-! SUPPORT. POWER_OFF and RETIRE: what they run, and the entry that they overtake. -/

namespace Sys2Proof.Machine

open Sys2Proof

/-! ## The two actions by state (R60, R151, R152) -/

/-- POWER_OFF or RETIRE. -/
def downCode (off : Bool) : ActCode := if off then .powerOff else .retire

/-- The shutdown target that the action asks for. -/
def downTarget (off : Bool) : Target := if off then .off else .retired

theorem State.down_off {s : State} {i : Slot} (e : ActEntry) (off : Bool) (h : (s.slot i).cs.state = .off) :
    s.run i e (downCode off) = (if off then s else (s.setTrigger i .action).enterRetired i 0).endEntry i .done 0 := by
  cases off <;> simp [downCode, State.run, State.startPowerOff, State.startRetire, h]

theorem State.down_retired {s : State} {i : Slot} (e : ActEntry) (off : Bool) (h : (s.slot i).cs.state = .retired) :
    s.run i e (downCode off) = s.endEntry i (if off then .failed else .done) 0 := by
  cases off <;> simp [downCode, State.run, State.startPowerOff, State.startRetire, h]

theorem State.down_powers {s : State} {i : Slot} (e : ActEntry) (off : Bool) (hoff : (s.slot i).cs.state ≠ .off)
    (hretired : (s.slot i).cs.state ≠ .retired) :
    s.run i e (downCode off) = s.powerDown i (downTarget off) .action := by
  cases off <;> simp only [downCode, downTarget, State.run, State.startPowerOff, State.startRetire] <;>
    cases hst : (s.slot i).cs.state <;> rfl

theorem State.powerDown_bleeding {s : State} {i : Slot} (g : Target) (t : Trigger) (h : (s.slot i).cs.state = .bleeding) :
    s.powerDown i g t = s.modCs i fun c => { c with target := c.target.meet g, retryPending := false } := by
  simp only [State.powerDown, h]

/-- The slot record of a POWER_OFF or RETIRE on its way down. -/
def CsRec.poweredDown (c : CsRec) (g : Target) (t : Trigger) : CsRec :=
  { c with target := c.target.meet g, retryPending := false, drain := none, trigger := t }

/-- The four states from which no shutdown path starts. -/
def SlotState.atRest (st : SlotState) : Prop := st = .bleeding ∨ st = .empty ∨ st = .off ∨ st = .retired

theorem State.powerDown_shuts {s : State} {i : Slot} (g : Target) (t : Trigger) (h : ¬ (s.slot i).cs.state.atRest) :
    s.powerDown i g t = ((s.modCs i fun c => c.poweredDown g t).cancelOp i).shutdown i := by
  unfold State.powerDown
  cases hst : (s.slot i).cs.state
  case empty | off | retired | bleeding => exact absurd (by simp [hst, SlotState.atRest]) h
  all_goals rfl

/-- From the states that have no power to remove the work of CS does nothing. -/
theorem State.powerDown_idle {s : State} {i : Slot} (g : Target) (t : Trigger)
    (h : (s.slot i).cs.state = .empty ∨ (s.slot i).cs.state = .off ∨ (s.slot i).cs.state = .retired) :
    s.powerDown i g t = s := by
  rcases h with h | h | h <;> simp only [State.powerDown, h]

/-! ## What they drop of the slot's work (R116, R158) -/

/-- From `s` to `t` RM is as it was, and SE holds what it held, but for the operations of the slot. -/
structure DropsOps (i : Slot) (s t : State) : Prop where
  rm : t.rm = s.rm
  ops : t.se.ops = s.se.ops ∨ t.se.ops = s.se.ops.filter fun op => !decide (op.slot = i)
  done : (s.slot i).planDone → (t.slot i).planDone

theorem DropsOps.refl (i : Slot) (s : State) : DropsOps i s s := ⟨rfl, Or.inl rfl, id⟩

theorem Returns.drops {i : Slot} {s t : State} (h : Returns i s t) : DropsOps i s t :=
  ⟨h.rm, Or.inl (congrArg SeRec.ops h.se), h.done⟩

theorem DropsOps.filter {i : Slot} {s t : State} (h : DropsOps i s t) :
    t.se.ops.filter (fun op => !decide (op.slot = i)) = s.se.ops.filter fun op => !decide (op.slot = i) := by
  rcases h.ops with h | h <;> rw [h]
  rw [List.filter_filter]
  simp

theorem DropsOps.trans {i : Slot} {s t u : State} (h : DropsOps i s t) (k : DropsOps i t u) : DropsOps i s u := by
  refine ⟨k.rm.trans h.rm, ?_, fun hd => k.done (h.done hd)⟩
  rcases k.ops with k | k
  · rw [k]
    exact h.ops
  · rw [k, h.filter]
    exact Or.inr rfl

theorem State.seDrop_drops (s : State) (i : Slot) : DropsOps i s (s.seDrop i) :=
  ⟨(s.seDrop_slots i).2, Or.inr (s.seDrop_ops i), by rw [State.seDrop_slot]; exact id⟩

theorem State.cancelOp_drops (s : State) (i : Slot) : DropsOps i s (s.cancelOp i) := by
  unfold State.cancelOp
  dsimp only
  split
  · exact (s.seDrop_drops i).trans (State.endEntry_returns _ _ _ _).drops
  · exact s.seDrop_drops i

theorem State.powerDown_drops (s : State) (i : Slot) (g : Target) (t : Trigger) : DropsOps i s (s.powerDown i g t) := by
  by_cases hrest : (s.slot i).cs.state.atRest
  · rcases hrest with hbleeding | hidle
    · rw [State.powerDown_bleeding g t hbleeding]
      exact ⟨rfl, Or.inl rfl, by rw [State.modCs, State.modSlot_slot_self]; exact id⟩
    · rw [State.powerDown_idle g t hidle]
      exact DropsOps.refl i s
  · rw [State.powerDown_shuts g t hrest]
    have hnoted : DropsOps i s (s.modCs i fun c => c.poweredDown g t) :=
      ⟨rfl, Or.inl rfl, by rw [State.modCs, State.modSlot_slot_self]; exact id⟩
    have hshut : ∀ u : State, DropsOps i u (u.shutdown i) := fun u =>
      ⟨rfl, Or.inl rfl, by rw [State.shutdown_slot]; exact id⟩
    exact (hnoted.trans (State.cancelOp_drops _ i)).trans (hshut _)

theorem State.enterRetired_drops (s : State) (i : Slot) (n : Nat) : DropsOps i s (s.enterRetired i n) := by
  refine ⟨rfl, Or.inl rfl, ?_⟩
  rw [State.enterRetired, State.modCs, State.modSlot_slot_self, State.raise_slot, State.enter_slot_self]
  exact id

theorem State.down_drops (s : State) (i : Slot) (e : ActEntry) (off : Bool) : DropsOps i s (s.run i e (downCode off)) := by
  by_cases hoff : (s.slot i).cs.state = .off
  · rw [State.down_off e off hoff]
    refine DropsOps.trans ?_ (State.endEntry_returns _ _ _ _).drops
    split
    · exact DropsOps.refl i s
    · have hset : DropsOps i s (s.setTrigger i .action) :=
        ⟨rfl, Or.inl rfl, by rw [State.setTrigger, State.modSlot_slot_self]; exact id⟩
      exact hset.trans (State.enterRetired_drops _ i 0)
  by_cases hretired : (s.slot i).cs.state = .retired
  · rw [State.down_retired e off hretired]
    exact (State.endEntry_returns _ _ _ _).drops
  · rw [State.down_powers e off hoff hretired]
    exact s.powerDown_drops i _ _

/-! ## The overtaken entry (R158, R159) -/

/-- The work of the entry withdrawn, before it is returned: the outputs `pre` are those of SE's next operation. -/
structure Withdrawn (i : Slot) (e : ActEntry) (s u : State) (pre : List Output) : Prop where
  slot : u.slot i = s.slot i
  ri : u.ri = s.ri
  tb : u.tb = s.tb
  out : u.out = s.out ++ pre
  silent : e.act ≠ some .snapshot → pre = []
  ops : e.act = some .snapshot → u.se.ops = s.se.ops.filter fun op => !decide (op.slot = i)
  sample : e.act = some .railSample → (u.rm.req i).sample = false

theorem State.overtake_withdraws {s : State} {i : Slot} {e : ActEntry} (h : (s.slot i).ad.current = some e) :
    ∃ u pre, s.overtake i = u.endEntry i .overtaken 0 ∧ Withdrawn i e s u pre := by
  have hruns : ∀ c : ActCode, (s.slot i).ad.runs c = true ↔ e.act = some c := fun c => by
    rw [AdRec.runs_iff h]
    exact decide_eq_true_iff
  unfold State.overtake
  dsimp only
  by_cases hsnap : e.act = some .snapshot
  · have hnot : (s.slot i).ad.runs .railSample = false := Bool.eq_false_of_not_eq_true fun hr => by
      rw [hruns, hsnap] at hr
      cases hr
    obtain ⟨pre, hpre⟩ := (s.seDrop_only i).out
    rw [if_pos ((hruns _).2 hsnap), hnot]
    exact ⟨_, pre, rfl, s.seDrop_slot i i, s.seDrop_ri i, (s.seDrop_only i).tb, hpre.symm, absurd hsnap, fun _ => s.seDrop_ops i,
      fun hr => by rw [hsnap] at hr; cases hr⟩
  · rw [if_neg fun hr => hsnap ((hruns _).1 hr)]
    by_cases hrail : e.act = some .railSample
    · rw [if_pos ((hruns _).2 hrail)]
      exact ⟨_, [], rfl, rfl, rfl, rfl, (List.append_nil _).symm, fun _ => rfl, fun hr => absurd hr hsnap,
        fun _ => (RmRec.withdraw_sample s.rm i).1⟩
    · rw [if_neg fun hr => hrail ((hruns _).1 hr)]
      exact ⟨_, [], rfl, rfl, rfl, rfl, (List.append_nil _).symm, fun _ => rfl, fun hr => absurd hr hsnap,
        fun hr => absurd hr hrail⟩

end Sys2Proof.Machine
end

section
/-! PROOFS. POWER_OFF and RETIRE. -/

namespace Sys2Proof.Machine

open Sys2Proof

/-! ## The overtaking entry (R158, R171) -/

/-- The slot's record once the new entry has taken the place of the overtaken one. -/
def State.overtaken (s : State) (i : Slot) (code : BitVec 8) (a : ActionArgs) : State :=
  ((s.takeEntries [entryOf a code]).overtake i).setAd i
    { AdRec.free with occupant := .action, current := some (entryOf a code) }

theorem State.alone_overtakes {s : State} {i : Slot} {code : BitVec 8} {a : ActionArgs} {cb : ControlBlock} {off : Bool}
    (ht : s.takes a cb) (ho : (s.slot i).ad.occupant ≠ .none)
    (hc : (s.slot i).check (entryOf a code) false = .ok (downCode off)) :
    s.alone i code a = ((s.overtaken i code a).run i (entryOf a code) (downCode off)).align := by
  have hdone : (((s.overtaken i code a).run i (entryOf a code) (downCode off)).slot i).planDone := by
    refine (State.down_drops _ i _ off).done ?_
    rw [State.overtaken, State.setAd, State.modSlot_slot_self]
    rfl
  have hpass : (s.takeEntries [entryOf a code]).passEntries i .action (entryOf a code) []
      = ((s.overtaken i code a).run i (entryOf a code) (downCode off)).settle i := by
    unfold State.passEntries
    have hsame : ((s.takeEntries [entryOf a code]).slot i).check (entryOf a code) false = .ok (downCode off) := hc
    rw [hsame]
    dsimp only
    rw [if_neg (show ((s.takeEntries [entryOf a code]).slot i).ad.occupant ≠ .none from ho)]
    rfl
  rw [State.settle_settled hdone.settled] at hpass
  rw [State.alone, if_pos ht.canTake, ← hpass]
  rfl

/-- The entry that is overtaken is in flight before the new one is taken, at another index. -/
theorem State.holdsEntry.taken {s : State} {i : Slot} {e : ActEntry} {f : InFlight} {cb : ControlBlock} (h : s.holdsEntry i e f cb)
    (es : List ActEntry) : (s.takeEntries es).holdsEntry i e f cb := by
  obtain ⟨hcurrent, hremaining, hcb, hfind⟩ := h
  refine ⟨hcurrent, hremaining, hcb, ?_⟩
  change (s.ri.inFlight ++ _).find? _ = some f
  rw [List.find?_append, hfind]
  rfl

/-- The overtaken entry is returned first, its work withdrawn, and what the new one does keeps that. -/
theorem State.alone_overtaken {s : State} {i : Slot} {code : BitVec 8} {a : ActionArgs} {cb : ControlBlock} {off : Bool}
    {e : ActEntry} {f : InFlight} (ht : s.takes a cb) (ho : (s.slot i).ad.occupant ≠ .none)
    (hc : (s.slot i).check (entryOf a code) false = .ok (downCode off)) (h : s.holdsEntry i e f cb) :
    ∃ pre, (e.act ≠ some .snapshot → pre = [])
      ∧ (e.act = some .snapshot → (s.alone i code a).se.ops = s.se.ops.filter fun op => !decide (op.slot = i))
      ∧ (e.act = some .railSample → ((s.alone i code a).rm.req i).sample = false)
      ∧ s.out ++ pre ++
          [.hostWrite (ringAddr cb.actionBase e.index + 16)
              (returnBody .overtaken (s.slot i).cs.state 0 f.taken s.tb.counter),
            .hostWrite (ringAddr cb.actionBase e.index) (toLE 2 (e.controlWord i))] <+: (s.alone i code a).out
      ∧ ∀ g ∈ (s.alone i code a).ri.inFlight, g.index ≠ e.index := by
  have hold := h.taken [entryOf a code]
  obtain ⟨u, pre, hover, hw⟩ := State.overtake_withdraws (s := s.takeEntries [entryOf a code]) hold.1
  have huhold : u.holdsEntry i e f cb := by
    unfold State.holdsEntry
    rw [hw.slot, hw.ri]
    exact hold
  obtain ⟨hout, hflight, -, -⟩ := u.endEntry_returned i e f cb .overtaken 0 huhold
  have hback := u.endEntry_returns i .overtaken 0
  rw [State.alone_overtakes ht ho hc]
  generalize hv : s.overtaken i code a = v
  have hvout : v.out = (u.endEntry i .overtaken 0).out := by rw [← hv, State.overtaken, hover]; rfl
  have hvse : v.se = u.se := by rw [← hback.se, ← hv, State.overtaken, hover]; rfl
  have hvrm : v.rm = u.rm := by rw [← hback.rm, ← hv, State.overtaken, hover]; rfl
  have hvflight : v.ri.inFlight = (u.endEntry i .overtaken 0).ri.inFlight := by rw [← hv, State.overtaken, hover]; rfl
  have hdrops := v.down_drops i (entryOf a code) off
  have hring := (v.run i (entryOf a code) (downCode off)).align_ring
  refine ⟨pre, hw.silent, fun hsnap => ?_, fun hrail => ?_, ?_, fun g hg => ?_⟩
  · have hfilter := hdrops.filter
    have hops : v.se.ops = s.se.ops.filter fun op => !decide (op.slot = i) := by
      rw [hvse]
      exact hw.ops hsnap
    rw [hring.se]
    rcases hdrops.ops with hsame | hagain
    · rw [hsame, hops]
    · rw [hagain, hops, List.filter_filter]
      simp
  · rw [hring.rm, hdrops.rm, hvrm]
    exact hw.sample hrail
  · rw [hw.out, hw.slot, hw.tb, List.append_nil] at hout
    exact (hout.trans (by rw [hvout])).trans (((v.run_only i _ _).out).trans (State.align_only i _).out)
  · rw [State.align_ri] at hg
    have hin := (v.run_beside i _ _).flies g hg
    rw [hvflight, hflight] at hin
    simpa using (List.mem_filter.1 hin).2

/-! ## The action on a free record (R60) -/

theorem Unreturned.powerDown {i : Slot} {s : State} (hr : (s.slot i).ad.runs .snapshot = false) (g : Target) (t : Trigger) :
    Unreturned i s (s.powerDown i g t) := by
  by_cases hrest : (s.slot i).cs.state.atRest
  · rcases hrest with hbleeding | hidle
    · rw [State.powerDown_bleeding g t hbleeding]
      exact (Unreturned.refl i s).modCs _
    · rw [State.powerDown_idle g t hidle]
      exact Unreturned.refl i s
  · rw [State.powerDown_shuts g t hrest]
    exact (((Unreturned.refl i s).modCs _).cancelOp hr).shutdown

/-- The shutdown path of the action on the slot's record, and on the outputs that stood. -/
theorem State.powerDown_slot {s : State} {i : Slot} (g : Target) (t : Trigger) (h : ¬ (s.slot i).cs.state.atRest) :
    PoweredDown i ((s.slot i).cs.poweredDown g t) s (s.powerDown i g t) := by
  obtain ⟨-, hsignals⟩ := State.cancelOp_rest (s.modCs i fun c => c.poweredDown g t) i
  have hslot := State.cancelOp_slot (s.modCs i fun c => c.poweredDown g t) i
  rw [State.modCs, State.modSlot_slot_self] at hslot
  rw [State.powerDown_shuts g t h]
  exact State.shutdown_powersDown hslot hsignals

/-- RETIRED entered from OFF by the action: the incident shows it as the trigger. -/
theorem State.retiredFromOff (s : State) (i : Slot) :
    let w := (s.setTrigger i .action).enterRetired i 0
    (w.slot i).cs = { (s.slot i).cs with
        trigger := .action, state := .retired, kind := .none, target := .none, retryPending := false }
      ∧ Unreturned i s w
      ∧ (queuedFor i s.iq ≤ 3 → ∃ x ∈ w.iq, x.slot = i ∧ x.kind = .retired ∧ x.countB = 0 ∧ x.trigger = .action) := by
  dsimp only
  have hentered : ((s.setTrigger i .action).enter i .retired).slot i
      = SlotRec.enter { s.slot i with cs := { (s.slot i).cs with trigger := .action } } .retired := by
    rw [State.enter_slot_self, State.setTrigger, State.modSlot_slot_self]
  have hkeeps : Unreturned i s (s.setTrigger i .action) := (Unreturned.refl i s).modSlot fun _ => rfl
  have hretires : Unreturned i s ((s.setTrigger i .action).enterRetired i 0) := by
    unfold State.enterRetired
    exact ((hkeeps.enter _).raise _ _ _ _).modCs _
  refine ⟨?_, hretires, fun hq => ⟨_, State.mem_raise _ _ _ _ hq, rfl, rfl, rfl, ?_⟩⟩
  · rw [State.enterRetired, State.modCs, State.modSlot_slot_self, State.raise_slot, hentered]
    rfl
  · unfold State.incident
    rw [hentered]
    rfl

end Sys2Proof.Machine
end

section
/-! PROOFS. POWER_OFF and RETIRE by slot state. -/

namespace Sys2Proof.Machine

open Sys2Proof

theorem exec_down {s : State} {i : Slot} {a : ActionArgs} {c : Instr} {off : Bool}
    (h : c = if off then .powerOff i a else .retire i a) :
    exec c s = .next (s.alone i (if off then 4 else 5) a) := by
  subst h
  cases off <;> rfl

/-- The action passes its checks in every state but EMPTY, whatever the record holds. -/
theorem SlotRec.check_down {r : SlotRec} {a : ActionArgs} (off : Bool) (hp : r.policy ≠ none) (hb : a.argB = 0)
    (ha : a.argA = 0) (hst : r.cs.state ≠ .empty) :
    r.check (entryOf a (if off then 4 else 5)) false = .ok (downCode off) := by
  cases off <;> exact SlotRec.check_passes rfl hp (by simp [entryOf, ActCode.argsOk, ha, hb, downCode]) (Or.inr rfl)
    (by simp [ActCode.accepts, hst, downCode])

theorem downTarget_meet (t : Target) (off : Bool) :
    t.meet (downTarget off) = if t = .retired ∨ off = false then Target.retired else .off := by
  cases off <;> cases t <;> rfl

/-- Returned in its event: in OFF and in RETIRED. -/
theorem State.down_answers {s w : State} {i : Slot} {a : ActionArgs} {cb : ControlBlock} {off : Bool} {o : ActOutcome}
    (ht : s.takes a cb) (ho : (s.slot i).ad.occupant = .none)
    (hc : (s.slot i).check (entryOf a (if off then 4 else 5)) false = .ok (downCode off))
    (hrun : (s.taken i (if off then 4 else 5) a).run i (entryOf a (if off then 4 else 5)) (downCode off) = w.endEntry i o 0)
    (hw : Unreturned i (s.taken i (if off then 4 else 5) a) w) (htb : w.tb = s.tb) (hout : w.out = s.out) :
    Returns i w (s.alone i (if off then 4 else 5) a)
      ∧ s.answered (s.alone i (if off then 4 else 5) a) i (if off then 4 else 5) a cb o (w.slot i).cs.state 0 :=
  State.alone_answers ht ho hc hrun ⟨hw, htb, hout.trans (List.append_nil _).symm⟩

/-- In progress at the end of its event: in every other state. -/
theorem State.down_starts {s : State} {i : Slot} {a : ActionArgs} {cb : ControlBlock} {off : Bool}
    (ht : s.takes a cb) (ho : (s.slot i).ad.occupant = .none)
    (hc : (s.slot i).check (entryOf a (if off then 4 else 5)) false = .ok (downCode off))
    (hoff : (s.slot i).cs.state ≠ .off) (hretired : (s.slot i).cs.state ≠ .retired) :
    s.alone i (if off then 4 else 5) a
        = ((s.taken i (if off then 4 else 5) a).powerDown i (downTarget off) .action).align
      ∧ s.started (s.alone i (if off then 4 else 5) a) i (if off then 4 else 5) a := by
  have hcs : ((s.taken i (if off then 4 else 5) a).slot i).cs = (s.slot i).cs := by rw [State.taken_slot]
  have hrun := State.down_powers (s := s.taken i (if off then 4 else 5) a) (entryOf a (if off then 4 else 5)) off
    (by rw [hcs]; exact hoff) (by rw [hcs]; exact hretired)
  obtain ⟨halone, hstarted⟩ := State.alone_starts ht ho hc (by
    rw [hrun]
    refine Unreturned.powerDown ?_ _ _
    rw [State.taken_slot]
    cases off <;> rfl)
  rw [hrun] at halone hstarted
  exact ⟨halone, by rw [halone]; exact hstarted⟩

/-- Settles O42, by state: the return in OFF and RETIRED, and the way down from the others. -/
theorem powerOffAndRetireByState : Obligations.PowerOffAndRetireByState := by
  intro s i a cb c off
  dsimp only
  intro hrow ht hline hp hb ha hempty
  have hc := SlotRec.check_down off hp hb ha hempty
  refine ⟨fun e f ho h => ?_, fun ho _ => ⟨_, exec_down hrow, fun hst hoff => ?_, fun hst hoff => ?_, fun hst => ?_,
    fun hst => ?_, fun hoff hretired hbleeding => ?_⟩⟩
  · obtain ⟨pre, h1, h2, h3, h4, h5⟩ := State.alone_overtaken ht ho hc h
    exact ⟨_, pre, exec_down hrow, h1, h2, h3, h4, h5⟩
  · have hcs := congrArg SlotRec.cs (s.taken_slot i (if off then 4 else 5) a)
    have hrun := State.down_off (s := s.taken i (if off then 4 else 5) a) (entryOf a (if off then 4 else 5)) off
      (by rw [hcs]; exact hst)
    obtain ⟨hreturns, hanswered⟩ := State.down_answers ht ho hc
      (hrun.trans (congrArg (fun w : State => w.endEntry i .done 0) (if_pos hoff))) (Unreturned.refl i _) rfl rfl
    rw [hcs, hst] at hanswered
    rw [hreturns.slot]
    exact ⟨hanswered, hcs⟩
  · have hcs := congrArg SlotRec.cs (s.taken_slot i (if off then 4 else 5) a)
    have hrun := State.down_off (s := s.taken i (if off then 4 else 5) a) (entryOf a (if off then 4 else 5)) off
      (by rw [hcs]; exact hst)
    obtain ⟨hretired, hkeeps, hqueued⟩ := (s.taken i (if off then 4 else 5) a).retiredFromOff i
    obtain ⟨hreturns, hanswered⟩ := State.down_answers ht ho hc
      (hrun.trans (congrArg (fun w : State => w.endEntry i .done 0) (if_neg (ne_of_eq_of_ne hoff Bool.false_ne_true)))) hkeeps rfl rfl
    rw [hretired] at hanswered
    rw [hreturns.slot, hreturns.iq]
    exact ⟨hanswered, by rw [hretired], by rw [hretired], hqueued⟩
  · have hcs := congrArg SlotRec.cs (s.taken_slot i (if off then 4 else 5) a)
    have hrun := State.down_retired (s := s.taken i (if off then 4 else 5) a) (entryOf a (if off then 4 else 5)) off
      (by rw [hcs]; exact hst)
    obtain ⟨hreturns, hanswered⟩ := State.down_answers ht ho hc hrun (Unreturned.refl i _) rfl rfl
    rw [hcs, hst] at hanswered
    rw [hreturns.slot]
    exact ⟨hanswered, hcs⟩
  · obtain ⟨halone, hstarted⟩ := State.down_starts ht ho hc (by rw [hst]; decide) (by rw [hst]; decide)
    refine ⟨hstarted, ?_⟩
    rw [halone, State.align_slot, State.powerDown_bleeding _ _ (by rw [State.taken_slot]; exact hst), State.modCs,
      State.modSlot_slot_self, State.taken_slot]
    exact ⟨by rw [downTarget_meet], rfl⟩
  · obtain ⟨halone, hstarted⟩ := State.down_starts ht ho hc hoff hretired
    have hrest : ¬ (s.slot i).cs.state.atRest := by simp [SlotState.atRest, hempty, hoff, hretired, hbleeding]
    have hdown := State.powerDown_slot (s := s.taken i (if off then 4 else 5) a) (i := i) (downTarget off) .action
      (by rw [State.taken_slot]; exact hrest)
    refine ⟨hstarted, ?_⟩
    rw [halone, State.align_slot, State.align_signals]
    generalize (s.taken i (if off then 4 else 5) a).powerDown i (downTarget off) .action = v at hdown
    obtain ⟨hcs, hpru, -, hentry, hhold, -, -, hsignals⟩ := hdown
    rw [State.taken_slot] at hcs hpru hsignals
    refine ⟨?_, hsignals, ?_, ?_, ?_, ?_, hentry, hhold⟩
    · rw [hcs, ← downTarget_meet]
      rfl
    all_goals rw [hpru]
    · exact ⟨rfl, rfl, rfl⟩
    all_goals rfl

end Sys2Proof.Machine
end

section
/-! PROOFS. Link-up. -/

namespace Sys2Proof.Machine

open Sys2Proof

/-! ## The entry to HELD (R35, R55) -/

/-- The slot's record in HELD. -/
def SlotRec.held (r : SlotRec) : SlotRec :=
  { r with
    cs := { r.cs with state := .held }
    ctf := { r.ctf with cls := .hold }
    hm := { r.hm with firstExpiry := false } }

theorem State.enterHeld_slot (s : State) (i : Slot) : (s.enterHeld i).slot i = (s.slot i).held := by
  rw [State.enterHeld, State.modSlot_slot_self, State.enter_slot_self]
  rfl

/-- No entry that HELD returns has the last bleed reading for its result. -/
theorem entryReturns_held {k : ActCode} {o : ActOutcome} (h : (k, SlotState.held, o) ∈ entryReturns) :
    ¬ (k = .powerOff ∨ k = .retire) := by
  rintro (rfl | rfl) <;> simp [entryReturns] at h

/-- The return at the entry to HELD of slot record `r`, seen from before an event that has left RI and the record alone. -/
theorem State.held_arrived {s u w : State} {i : Slot} {pre : List Output} (hslot : (u.slot i).cs.state = .held)
    (hattempts : (u.slot i).cs.attempts = (s.slot i).cs.attempts) (hkeeps : Unreturned i s u) (htb : u.tb = s.tb)
    (hout : u.out = s.out ++ pre) (hw : (u.onEntry i .held (u.slot i).cs.attempts).out <+: w.out)
    (hin : w.ri.inFlight = (u.onEntry i .held (u.slot i).cs.attempts).ri.inFlight)
    (hca : w.ri.causes = (u.onEntry i .held (u.slot i).cs.attempts).ri.causes)
    (haw : (w.slot i).ad = ((u.onEntry i .held (u.slot i).cs.attempts).slot i).ad) :
    s.arrived w pre i .held (s.slot i).cs.attempts 0 := by
  have harrived := State.onEntry_arrived u i (u.slot i).cs.attempts
  rw [hslot] at harrived
  rw [← hattempts]
  exact State.arrived_of harrived hkeeps.ad hkeeps.ri htb hout hw hin hca haw fun k o hko hk =>
    absurd hk (entryReturns_held hko)

/-! ## The request of a restore (R55, R103, R105) -/

theorem State.seRequest_slot (s : State) (op : SeOp) (i : Slot) : (s.seRequest op).slot i = s.slot i := by
  rw [State.slot, (s.seRequest_slots op).1]
  rfl

theorem State.seRequest_same (s : State) (op : SeOp) :
    (s.seRequest op).ri = s.ri ∧ (s.seRequest op).iq = s.iq := by
  unfold State.seRequest
  split <;> exact ⟨rfl, rfl⟩

/-- The operation is the last of those that SE holds; with none it starts with its header read. -/
theorem State.seRequest_ops {s : State} (op : SeOp) (h : s.se.current = none → s.se.queue = []) :
    (s.seRequest op).se.ops = s.se.ops ++ [op]
      ∧ (s.se.current = none →
        (s.seRequest op).out = s.out ++ [.hostRead .shadowEngine s.readId (s.slot op.slot).pol.areaAddr 16]) := by
  unfold State.seRequest
  cases hc : s.se.current with
  | none =>
    refine ⟨?_, fun _ => rfl⟩
    rw [State.seBegin_ops]
    simp [SeRec.ops, hc, h hc]
  | some o =>
    refine ⟨?_, nofun⟩
    simp [SeRec.ops, hc]

/-! ## Link-up by phase (R55, R79) -/

theorem State.linkUp_elsewhere {s : State} {i : Slot} (h : (s.slot i).pru.phase ≠ .training) : s.linkUp i = s := if_neg h

/-- PRU at rest, and the slot in RESTORING. -/
def SlotRec.restoring (r : SlotRec) : SlotRec :=
  { r with
    cs := { r.cs with state := .restoring }
    ctf := { r.ctf with cls := .hold }
    pru := r.pru.rest }

theorem State.linkUp_restores {s : State} {i : Slot} (hp : (s.slot i).pru.phase = .training)
    (hr : (s.slot i).cs.restoreWanted = true) :
    s.linkUp i = ((s.modPru i PruRec.rest).enter i .restoring).seRequest ⟨.restore, i⟩
      ∧ ((s.modPru i PruRec.rest).enter i .restoring).slot i = (s.slot i).restoring := by
  refine ⟨?_, ?_⟩
  · rw [State.linkUp, if_pos hp, if_pos hr]
  · rw [State.enter_slot_self, State.modPru_slot_self]
    rfl

theorem State.linkUp_holds {s : State} {i : Slot} (hp : (s.slot i).pru.phase = .training)
    (hr : (s.slot i).cs.restoreWanted = false) :
    let u := (s.modPru i PruRec.rest).enterHeld i
    s.linkUp i = u.onEntry i .held (u.slot i).cs.attempts
      ∧ u.slot i = SlotRec.held { s.slot i with pru := (s.slot i).pru.rest } := by
  refine ⟨?_, ?_⟩
  · rw [State.linkUp, if_pos hp, if_neg (by rw [hr]; decide)]
  · rw [State.enterHeld_slot, State.modPru_slot_self]

theorem exec_linkUp (s : State) (i : Slot) : exec (.linkUp i) s = .next ((s.linkUp i).close i) := rfl

/-- Settles O26: RESTORING with the request of a restore, or HELD with what waits for it returned. -/
theorem linkUpEndsTraining : Obligations.LinkUpEndsTraining := by
  intro s i
  dsimp only
  intro hline hd hqueue
  refine ⟨fun hp => ?_, fun hp => ⟨_, exec_linkUp s i, ?_⟩⟩
  · rw [exec_linkUp, State.linkUp_elsewhere hp, State.close_settled hd.settled hline]
  rcases Bool.eq_false_or_eq_true (s.slot i).cs.restoreWanted with hr | hr
  case inr =>
    obtain ⟨hup, hslot⟩ := State.linkUp_holds hp hr
    dsimp only at hup hslot
    generalize hu : (s.modPru i PruRec.rest).enterHeld i = u at hup hslot
    have hreturns := u.onEntry_returns i .held (u.slot i).cs.attempts
    have hclosed := hreturns.trans (State.align_returns _ i)
    have hclose : (u.onEntry i .held (u.slot i).cs.attempts).close i
        = (u.onEntry i .held (u.slot i).cs.attempts).align :=
      State.close_ended (hreturns.done (by rw [hslot]; exact hd)).settled
    obtain ⟨hout, hflight, hcauses, had⟩ := (u.onEntry i .held (u.slot i).cs.attempts).align_arrives i
    have harrived : s.arrived (u.onEntry i .held (u.slot i).cs.attempts).align [] i .held (s.slot i).cs.attempts 0 := by
      refine State.held_arrived (by rw [hslot]; rfl) (by rw [hslot]; rfl) ⟨by rw [← hu]; rfl, by rw [hslot]; rfl⟩
        (by rw [← hu]; rfl) ?_ hout hflight hcauses had
      rw [List.append_nil, ← hu]
      rfl
    rw [hup, hclose]
    generalize (u.onEntry i .held (u.slot i).cs.attempts).align = w at hclosed harrived
    rw [hclosed.slot, hclosed.iq, hclosed.se, hslot]
    exact ⟨rfl, rfl, rfl, rfl, rfl, by rw [← hu]; rfl, fun h => absurd (h.symm.trans hr) nofun,
      fun _ => ⟨rfl, rfl, by rw [← hu]; rfl, harrived⟩⟩
  case inl =>
    obtain ⟨hup, hslot⟩ := State.linkUp_restores hp hr
    generalize hu : (s.modPru i PruRec.rest).enter i .restoring = u at hup hslot
    obtain ⟨hri, hiq⟩ := u.seRequest_same ⟨.restore, i⟩
    have hurec := u.seRequest_slot ⟨.restore, i⟩ i
    obtain ⟨hops, hread⟩ := State.seRequest_ops (s := u) ⟨.restore, i⟩ (by rw [← hu]; exact hqueue)
    have hclose : (u.seRequest ⟨.restore, i⟩).close i = u.seRequest ⟨.restore, i⟩ :=
      State.close_quiet hline hd.settled (by rw [hri, ← hu]; rfl) (by rw [hurec, hslot]; rfl)
    rw [hup, hclose, hurec, hiq, hops, hslot]
    refine ⟨rfl, rfl, rfl, rfl, rfl, by rw [← hu]; rfl, fun _ => ⟨rfl, rfl, by rw [← hu]; rfl, rfl, fun hnone => ?_⟩,
      fun h => absurd (h.symm.trans hr) nofun⟩
    rw [hread (by rw [← hu]; exact hnone), hslot, ← hu]
    rfl

end Sys2Proof.Machine
end

section
/-! SUPPORT. An operation that ends with its slot's entry to another state: the return of what waits for it, and the start of the
next operation. -/

namespace Sys2Proof.Machine

open Sys2Proof

theorem State.onEntry_readId (s : State) (i : Slot) (st : SlotState) (n : Nat) : (s.onEntry i st n).readId = s.readId := by
  unfold State.onEntry
  split
  · rfl
  · split
    · rfl
    · exact s.endEntry_readId i _ _

/-- From `s` to `u` the current operation has been put aside and slot `i` has entered `st`, with the outputs `pre`; AD has not
returned what waits for the entry. -/
structure Entered (i : Slot) (s u : State) (st : SlotState) (pre : List Output) : Prop where
  se : u.se = s.seClear.se
  keeps : Unreturned i s u
  tb : u.tb = s.tb
  readId : u.readId = s.readId
  out : u.out = s.out ++ pre
  policy : ∀ j, (u.slot j).policy = (s.slot j).policy
  state : (u.slot i).cs.state = st
  attempts : (u.slot i).cs.attempts = (s.slot i).cs.attempts

/-- AD returns what waits for the entry, and the next operation starts. -/
def State.goesOn (u : State) (i : Slot) (st : SlotState) : State := (u.onEntry i st (u.slot i).cs.attempts).seNext

/-- Of the slot nothing changes but AD's record. -/
theorem State.goesOn_slot (u : State) (i : Slot) (st : SlotState) :
    (u.goesOn i st).slot i = { u.slot i with ad := ((u.goesOn i st).slot i).ad } ∧ (u.goesOn i st).iq = u.iq
      ∧ u.out <+: (u.goesOn i st).out ∧ ((u.slot i).planDone → ((u.goesOn i st).slot i).planDone) := by
  have hreturns := u.onEntry_returns i st (u.slot i).cs.attempts
  obtain ⟨-, hiq, hout⟩ := (u.onEntry i st (u.slot i).cs.attempts).seNext_same
  unfold State.goesOn
  rw [State.seNext_slot]
  exact ⟨hreturns.slot, hiq.trans hreturns.iq, hreturns.out.trans hout, hreturns.done⟩

/-- What waits for the entry is returned with the state entered. -/
theorem Entered.arrived {i : Slot} {s u : State} {st : SlotState} {pre : List Output} (h : Entered i s u st pre)
    (hst : ∀ k o, (k, st, o) ∈ entryReturns → ¬ (k = .powerOff ∨ k = .retire)) :
    s.arrived (u.goesOn i st).align pre i st (s.slot i).cs.attempts 0 := by
  have harrived := State.onEntry_arrived u i (u.slot i).cs.attempts
  obtain ⟨hri, -, hout⟩ := (u.onEntry i st (u.slot i).cs.attempts).seNext_same
  obtain ⟨hprefix, hflight, hcauses, had⟩ := (u.goesOn i st).align_arrives i
  have hentry : (u.goesOn i st).slot i = (u.onEntry i st (u.slot i).cs.attempts).slot i := State.seNext_slot _ _
  rw [h.state] at harrived
  rw [← h.attempts]
  exact State.arrived_of harrived h.keeps.ad h.keeps.ri h.tb h.out (hout.trans hprefix) (hflight.trans (by rw [← hri]; rfl))
    (hcauses.trans (by rw [← hri]; rfl)) (had.trans (by rw [hentry])) fun k o hko hk => absurd hk (hst k o hko)

/-- The operation at the head of the queue starts after the outputs of the returns. -/
theorem Entered.ended {i : Slot} {s u : State} {st : SlotState} {pre : List Output} (h : Entered i s u st pre) :
    ∃ pre', s.operationEnded (u.goesOn i st).align pre' := by
  have hreturns := u.onEntry_returns i st (u.slot i).cs.attempts
  have honly := u.onEntry_only i st (u.slot i).cs.attempts
  obtain ⟨os, hos⟩ := hreturns.out
  have hse : (u.onEntry i st (u.slot i).cs.attempts).se = s.seClear.se := hreturns.se.trans h.se
  refine ⟨pre ++ os, State.operationEnded.align ?_⟩
  refine (State.seNext_ended (by rw [hse]; rfl) (by rw [hse]; rfl) (by rw [hse]; rfl)).before (by rw [hse]; rfl) ?_
    ((State.onEntry_readId _ _ _ _).trans h.readId) (honly.tb.trans h.tb) fun op _ => ?_
  · rw [List.append_nil, ← hos, h.out, List.append_assoc]
  · rw [← h.policy op.slot]
    by_cases hi : op.slot = i
    · rw [hi, honly.policy]
    · rw [honly.others _ hi]

theorem Entered.close {i : Slot} {s u : State} {st : SlotState} {pre : List Output} (h : Entered i s u st pre)
    (hd : (s.slot i).planDone) : (u.goesOn i st).close i = (u.goesOn i st).align := by
  have hplan : (u.slot i).planDone := by
    unfold SlotRec.planDone
    rw [h.keeps.ad]
    exact hd
  exact State.close_ended ((u.goesOn_slot i st).2.2.2 hplan).settled

/-! ## A restore that is refused: HELD (R56, R111) -/

/-- HELD entered and RESTORE_SKIPPED raised, before AD returns what waits for it. -/
def State.skipped (s : State) (i : Slot) (detail : Nat) : State :=
  (s.seClear.enterHeld i).raise i .restoreSkipped 0 0 (detailOf detail 0)

theorem State.restoreUnusable_eq (s : State) (i : Slot) (detail : Nat) :
    s.restoreUnusable i detail = (s.skipped i detail).goesOn i .held := rfl

theorem State.skipped_slot (s : State) (i : Slot) (detail : Nat) : (s.skipped i detail).slot i = (s.slot i).held := by
  rw [State.skipped, State.raise_slot, State.enterHeld_slot]
  rfl

theorem State.skipped_entered (s : State) (i : Slot) (detail : Nat) : Entered i s (s.skipped i detail) .held [] := by
  have hslot := s.skipped_slot i detail
  refine ⟨rfl, ⟨rfl, by rw [hslot]; rfl⟩, rfl, rfl, (List.append_nil _).symm, fun j => ?_, by rw [hslot]; rfl,
    by rw [hslot]; rfl⟩
  by_cases hj : j = i
  · rw [hj, hslot]
    rfl
  · rw [State.skipped, State.raise_slot, (State.enterHeld_only _ i).others j hj]
    rfl

theorem State.skipped_incident {s : State} {i : Slot} (detail : Nat) (hq : queuedFor i s.iq ≤ 3) :
    ∃ x ∈ (s.skipped i detail).iq, x.slot = i ∧ x.kind = .restoreSkipped ∧ x.detail = BitVec.ofNat 64 detail :=
  ⟨_, State.mem_raise (s := s.seClear.enterHeld i) .restoreSkipped 0 0 (detailOf detail 0) hq, rfl, rfl,
    congrArg (BitVec.ofNat 64) (Nat.add_zero detail)⟩

/-! ## A restore that succeeds: PROBATION (R56, R57, R115) -/

theorem State.restoreDone_eq (s : State) (i : Slot) : s.restoreDone i = (s.seClear.onTrial i).goesOn i .probation := rfl

/-- No entry that PROBATION returns has the last bleed reading for its result. -/
theorem entryReturns_probation {k : ActCode} {o : ActOutcome} (h : (k, SlotState.probation, o) ∈ entryReturns) :
    ¬ (k = .powerOff ∨ k = .retire) := by
  rintro (rfl | rfl) <;> simp [entryReturns] at h

theorem CsRec.startProbation_kept (c : CsRec) (p : Policy) :
    (c.startProbation p).state = c.state ∧ (c.startProbation p).attempts = c.attempts := by
  unfold CsRec.startProbation
  split <;> exact ⟨rfl, rfl⟩

/-- PROBATION entered after a restore: what TT promoted goes down first, then the held interrupt message goes up. -/
theorem WentOnTrial.entered {i : Slot} {s u : State} {t : TtRec} {pre : List Output} (h : WentOnTrial i s.seClear u t pre) :
    Entered i s u .probation (pre ++ (s.slot i).ctf.holdover.toList.map (.cardWriteUp i)) := by
  obtain ⟨hstate, hattempts⟩ := CsRec.startProbation_kept { (s.slot i).cs with state := .probation } (s.slot i).pol
  refine ⟨h.se, ⟨h.ri, by rw [h.slot]; rfl⟩, h.tb, h.readId, by rw [h.out, List.append_assoc]; rfl, fun j => ?_,
    by rw [h.slot]; exact hstate, by rw [h.slot]; exact hattempts⟩
  by_cases hj : j = i
  · rw [hj, h.slot]
    rfl
  · rw [h.others j hj]
    rfl

end Sys2Proof.Machine
end

section
/-! PROOFS. The host memory reads of an operation, up to its first card access. -/

namespace Sys2Proof.Machine

open Sys2Proof

/-! ## What a read gives (R107, R111) -/

/-- SE takes the bytes it asked for. -/
def State.readGives (s : State) (op : SeOp) (w : SeRead) (b : List Byte) : State :=
  match w with
  | .header => s.headerRead op b
  | .mapHead => s.mapHeadRead op b
  | .mapEntries c => s.mapEntriesRead op b c
  | .data =>
    match op.kind with
    | .restore => s.writeBackBegin op.slot b
    | .snapshot => s

theorem exec_readGives {s : State} {op : SeOp} {ref : ReadRef} {w : SeRead} {b : List Byte} (hc : s.se.current = some op)
    (hw : s.se.waiting = .read ref w) (hb : b.length = s.se.asked w) :
    exec (.shadowReadDone ref.id (.data b)) s = .next ((s.readGives op w b).close op.slot) := by
  rw [exec_shadowReadDone hc]
  unfold State.shadowRead
  rw [hc, hw]
  dsimp only
  rw [if_pos rfl, ReadResult.bytes_of_length hb]
  cases w <;> rfl

/-- A next read asked for leaves RI and the slots alone: the event ends with it. -/
theorem State.seRead_close {s : State} {e : SeRec} {i : Slot} {addr : Addr} {n : Nat} {w : SeRead} (hs : s.summaryInLine)
    (hp : (s.slot i).planSettled) :
    (({ s with se := e } : State).seRead i addr n w).close i =
      { s with
        se := { e with waiting := .read ⟨s.readId, deadlineIn s.tb.counter (s.pol i).completionDeadline⟩ w }
        out := s.out ++ [.hostRead .shadowEngine s.readId addr n]
        readId := s.readId + 1 } :=
  State.close_quiet hs hp rfl rfl

/-! ## The header and the map head (R99, R107, R111) -/

theorem leNat_two (b : List Byte) (k : Nat) : leNat b k 2 = (b.getD k 0).toNat + 256 * (b.getD (k + 1) 0).toNat := by
  simp [leNat, byteAt]

theorem State.readGives_header (s : State) (i : Slot) (b : List Byte) :
    s.readGives ⟨.snapshot, i⟩ .header b = ({ s with
      se := { s.se with step := .readMap, generation := (b.getD 2 0).toNat + 256 * (b.getD 3 0).toNat } } : State).seRead i
        s.se.mapAddr 4 .mapHead := by
  rw [← leNat_two]
  rfl

theorem State.readGives_validHeader {s : State} {i : Slot} {b : List Byte} (h : b.getD 0 0 = 2) :
    s.readGives ⟨.restore, i⟩ .header b = ({ s with
      se := { s.se with step := .readMap, hdrCount := (b.getD 1 0).toNat, hdrLength := leNat b 8 4 } } : State).seRead i
        s.se.mapAddr 4 .mapHead := by
  have hvalid : byteAt b 0 = HdrState.valid.code := by rw [byteAt, h]; rfl
  exact if_pos hvalid

/-- SE's check of the map head. -/
theorem mapHeadCount_iff (b : List Byte) (n : Nat) :
    mapHeadCount b = some n ↔ (1 ≤ leNat b 0 2 ∧ leNat b 0 2 ≤ 64 ∧ leNat b 2 2 = 0) ∧ leNat b 0 2 = n := by
  unfold mapHeadCount zeroFrom
  split
  next h =>
    rw [Bool.and_eq_true, inRange_iff, decide_eq_true_iff, and_assoc] at h
    simp [h]
  next h =>
    rw [Bool.and_eq_true, inRange_iff, decide_eq_true_iff, and_assoc] at h
    simp [h]

theorem State.readGives_mapHead {s : State} {op : SeOp} {b : List Byte} (h1 : b.getD 1 0 = 0) (h2 : b.getD 2 0 = 0)
    (h3 : b.getD 3 0 = 0) (hlow : 1 ≤ (b.getD 0 0).toNat) (hhigh : (b.getD 0 0).toNat ≤ 64) :
    s.readGives op .mapHead b = ({ s with se := s.se } : State).seRead op.slot (s.se.mapAddr + 4) (4 * (b.getD 0 0).toNat)
      (.mapEntries (b.getD 0 0).toNat) := by
  have hcount : leNat b 0 2 = (b.getD 0 0).toNat := by rw [leNat_two, h1]; rfl
  have hrest : leNat b 2 2 = 0 := by rw [leNat_two, h2, h3]; rfl
  have hhead : mapHeadCount b = some (b.getD 0 0).toNat :=
    (mapHeadCount_iff b _).2 ⟨⟨by rw [hcount]; exact hlow, by rw [hcount]; exact hhigh, hrest⟩, hcount⟩
  simp only [State.readGives, State.mapHeadRead, hhead]

/-! ## Card accesses that TT takes (R16, R104) -/

/-- Slot `i` with the engine tag carrying an access. -/
def State.offered (s : State) (i : Slot) (write : Option Dword) : State :=
  { s.modSlot i fun r => r.setTt (r.tt.setEntry engineTag
      (engineEntry write.isSome (deadlineIn s.tb.counter (s.slot i).pol.completionDeadline))) with
    se := { s.se with waiting := .card }
    out := s.out ++ [.engineDown i s.se.bus s.se.cardIndex write] }

theorem State.offer_taken {s : State} {i : Slot} (k : OpKind) (write : Option Dword)
    (h : (s.slot i).tt.entry engineTag = .free) : s.offer i k write = s.offered i write := by
  unfold State.offer
  dsimp only
  exact if_pos (by rw [h]; rfl)

theorem State.offered_slot (s : State) (i : Slot) (write : Option Dword) : (s.offered i write).slot i
    = (s.slot i).setTt ((s.slot i).tt.setEntry engineTag
        (engineEntry write.isSome (deadlineIn s.tb.counter (s.slot i).pol.completionDeadline))) :=
  State.modSlot_slot_self s i fun r => r.setTt (r.tt.setEntry engineTag
    (engineEntry write.isSome (deadlineIn s.tb.counter (s.slot i).pol.completionDeadline)))

theorem State.offered_waits (s : State) (i : Slot) (write : Option Dword) :
    ((s.offered i write).slot i).engineWaits (if write.isSome then .configWrite else .configRead) := by
  refine ⟨deadlineIn s.tb.counter (s.slot i).pol.completionDeadline, ?_⟩
  rw [State.offered_slot, SlotRec.setTt, TtRec.setEntry_self]
  cases write <;> rfl

/-- An access offered ends the event. -/
theorem State.offered_close {s t : State} {i : Slot} {write : Option Dword} (hs : s.summaryInLine) (hp : (s.slot i).planSettled)
    (hri : t.ri = s.ri) (had : (t.slot i).ad = (s.slot i).ad) : (t.offered i write).close i = t.offered i write :=
  State.close_quiet hs hp hri (by rw [State.offered_slot]; exact had)

end Sys2Proof.Machine
end

section
/-! PROOFS. The reads of an operation lead to its first card access. -/

namespace Sys2Proof.Machine

open Sys2Proof

/-! ## The entries of the map (R99, R107, R108, R111) -/

theorem State.readGives_copyMap {s : State} {i : Slot} {b : List Byte} {m : List MapEntry} (hm : mapSays b m) :
    s.readGives ⟨.snapshot, i⟩ (.mapEntries m.length) b = ({ s with se := { s.se with map := m } } : State).copyBegin i := by
  simp only [State.readGives, State.mapEntriesRead, (mapEntries_iff b m.length m).2 ⟨rfl, hm⟩]

theorem State.readGives_restoreMap {s : State} {i : Slot} {b : List Byte} {m : List MapEntry} (hm : mapSays b m)
    (h : m.length = s.se.hdrCount ∧ 4 * totalDwords m = s.se.hdrLength) :
    s.readGives ⟨.restore, i⟩ (.mapEntries m.length) b =
      ({ s with se := { s.se with map := m, step := .readData } } : State).seRead i (s.se.areaAddr + 16)
        (4 * totalDwords m) .data := by
  simp only [State.readGives, State.mapEntriesRead, (mapEntries_iff b m.length m).2 ⟨rfl, hm⟩]
  exact if_pos h

theorem State.readGives_otherMap {s : State} {i : Slot} {b : List Byte} {m : List MapEntry} (hm : mapSays b m)
    (h : ¬ (m.length = s.se.hdrCount ∧ 4 * totalDwords m = s.se.hdrLength)) :
    s.readGives ⟨.restore, i⟩ (.mapEntries m.length) b =
      ({ s with se := { s.se with map := m } } : State).restoreUnusable i 3 := by
  simp only [State.readGives, State.mapEntriesRead, (mapEntries_iff b m.length m).2 ⟨rfl, hm⟩]
  exact if_neg h

/-- The header is written PARTIAL, and the first dword of the copy asked for. -/
theorem State.copyBegin_offers {s : State} {i : Slot} (m : List MapEntry) (h : (s.slot i).tt.entry engineTag = .free) :
    ({ s with se := { s.se with map := m } } : State).copyBegin i
      = (({ s with se := s.se.copying m } : State).emits
          [.hostWrite s.se.areaAddr (headerBytes .partialCopy m.length s.se.generation s.tb.counter 0)]).offered i none :=
  State.offer_taken .snapshot none h

/-! ## The staged data (R100, R112) -/

theorem totalDwords_take {m : List MapEntry} {n : Nat} {x : MapEntry} (h : m[n]? = some x) (hx : 1 ≤ x.count) :
    totalDwords (m.take n) < totalDwords m := by
  obtain ⟨hn, rfl⟩ := List.getElem?_eq_some_iff.1 h
  have hsplit : totalDwords m = totalDwords (m.take n) + totalDwords (m.drop n) := by
    unfold totalDwords
    rw [← List.sum_append, ← List.map_append, List.take_append_drop]
  have hdrop : totalDwords (m.drop n) = m[n].count + totalDwords (m.drop (n + 1)) := by
    rw [List.drop_eq_getElem_cons hn]
    rfl
  omega

theorem dwordsOf_getD (b : List Byte) {n k : Nat} (h : k < n) :
    (dwordsOf b n).getD k 0 = BitVec.ofNat 32 (leNat b (4 * k) 4) := by
  simp [dwordsOf, List.getD_eq_getElem?_getD, h]

/-- The data is staged, and the first dword of the write-back offered. -/
theorem State.writeBackBegin_offers {s : State} {i : Slot} {b : List Byte} {q : Pass} {n : Nat} {m : MapEntry}
    (hm : follows s.se.map .first 0 q n m) (hcount : 1 ≤ m.count) (h : (s.slot i).tt.entry engineTag = .free) :
    s.writeBackBegin i b = ({ s with se := s.se.writingBack b q n } : State).offered i
        (some (BitVec.ofNat 32 (leNat b (4 * totalDwords (s.se.map.take n)) 4))) := by
  have hstaged : (s.se.writingBack b q n).staged = BitVec.ofNat 32 (leNat b (4 * totalDwords (s.se.map.take n)) 4) :=
    dwordsOf_getD b (totalDwords_take hm.1 hcount)
  unfold State.writeBackBegin
  dsimp only
  rw [(nextPlace_some s.se.map .first q 0 n).2 ⟨m, hm⟩, ← hstaged]
  exact State.offer_taken .restore _ h

/-- The dword index of the first access of a write-back. -/
theorem SeRec.writingBack_cardIndex {e : SeRec} {p q : Pass} {k n : Nat} {m : MapEntry} (b : List Byte)
    (h : follows e.map p k q n m) : (e.writingBack b q n).cardIndex = m.index := by
  have hget : e.map[n]? = some m := h.1
  rw [SeRec.cardIndex_eq]
  change (e.map.getD n ⟨0, 0, false, false, false⟩).index + 0 = m.index
  rw [List.getD_eq_getElem?_getD, hget]
  rfl

theorem State.writeBackBegin_ends {s : State} {i : Slot} {b : List Byte} (hm : nothingFollows s.se.map .first 0) :
    s.writeBackBegin i b = ({ s with
      se := { s.se with staging := dwordsOf b (totalDwords s.se.map), waiting := .nothing } } : State).restoreDone i := by
  unfold State.writeBackBegin
  dsimp only
  rw [(nextPlace_none s.se.map .first 0).2 hm]

/-! ## A restore that ends in PROBATION with its event -/

/-- The slot is in PROBATION, what waits for it is returned, and the next operation starts. -/
theorem State.restoreDone_closes {s : State} {i : Slot} (hd : (s.slot i).planDone) :
    let w := (s.restoreDone i).close i
    (w.slot i).cs.state = .probation ∧ (w.slot i).cs.attempts = (s.slot i).cs.attempts
      ∧ (∃ pre, s.arrived w pre i .probation (s.slot i).cs.attempts 0) ∧ ∃ pre, s.operationEnded w pre := by
  obtain ⟨t, pre, hwent, -⟩ := s.seClear.onTrial_wentOnTrial i
  have hentered := hwent.entered
  obtain ⟨hslot, -, -, -⟩ := (s.seClear.onTrial i).goesOn_slot i .probation
  dsimp only
  rw [State.restoreDone_eq, hentered.close hd, State.align_slot]
  refine ⟨?_, ?_, ⟨_, hentered.arrived fun k o => entryReturns_probation⟩, hentered.ended⟩
  · rw [hslot]
    exact hentered.state
  · rw [hslot]
    exact hentered.attempts

/-- Settles O33, by what SE waits for. -/
theorem shadowReadsLeadFromHeaderToCard : Obligations.ShadowReadsLeadFromHeaderToCard := by
  intro s i kd ref b
  dsimp only
  intro hs hp hc
  refine ⟨fun hw hb => ⟨?_, ?_⟩, fun hw hb h1 h2 h3 hlow hhigh => ?_, fun m hw hb hm => ⟨?_, ?_⟩, ?_⟩
  · rintro rfl
    rw [exec_readGives hc hw hb, State.readGives_header, State.seRead_close hs hp]
  · rintro rfl hvalid
    rw [exec_readGives hc hw hb, State.readGives_validHeader hvalid, State.seRead_close hs hp]
  · rw [exec_readGives hc hw hb, State.readGives_mapHead h1 h2 h3 hlow hhigh, State.seRead_close hs hp]
  · rintro rfl htag
    rw [exec_readGives hc hw hb, State.readGives_copyMap hm, State.copyBegin_offers m htag]
    refine ⟨_, rfl, ?_⟩
    generalize hu : State.emits _ _ = u
    rw [State.offered_close (s := s) hs hp (by rw [← hu]; rfl) (by rw [← hu]; rfl)]
    refine ⟨by rw [← hu]; rfl, ?_, State.offered_waits u i none⟩
    rw [← hu]
    change s.out ++ _ ++ _ = _
    rw [List.append_assoc]
    rfl
  · rintro rfl hcount hlength
    rw [exec_readGives hc hw hb, State.readGives_restoreMap hm ⟨hcount, hlength⟩, State.seRead_close hs hp]
  · rintro hw rfl hb
    rw [exec_readGives hc hw hb]
    change (∀ q n m, _ → _ → _ → ∃ t, Host.Outcome.next ((s.writeBackBegin i b).close i) = .next t ∧ _)
      ∧ (_ → _ → ∃ t, Host.Outcome.next ((s.writeBackBegin i b).close i) = .next t ∧ _)
    refine ⟨fun q n m hm hcount htag => ?_, fun hm hd => ?_⟩
    · have hclose := State.offered_close (s := s) (t := { s with se := s.se.writingBack b q n }) (i := i)
        (write := some (BitVec.ofNat 32 (leNat b (4 * totalDwords (s.se.map.take n)) 4))) hs hp rfl rfl
      rw [State.writeBackBegin_offers hm hcount htag, hclose]
      refine ⟨_, rfl, rfl, ?_, fun k hk => dwordsOf_getD b hk, ?_, State.offered_waits _ i _⟩
      · change (dwordsOf b (totalDwords s.se.map)).length = _
        simp [dwordsOf]
      · rw [← SeRec.writingBack_cardIndex b hm]
        rfl
    · rw [State.writeBackBegin_ends hm]
      exact ⟨_, rfl, State.restoreDone_closes
        (s := { s with se := { s.se with staging := dwordsOf b (totalDwords s.se.map), waiting := .nothing } }) hd⟩

end Sys2Proof.Machine
end

section
/-! PROOFS. The host memory reads that end their operation. -/

namespace Sys2Proof.Machine

open Sys2Proof

/-! ## Answers that change nothing (R17, R103) -/

theorem exec_otherRead {s : State} {op : SeOp} {w : SeRead} {ref : ReadRef} {id : Nat} (res : ReadResult)
    (hs : s.summaryInLine) (hp : (s.slot op.slot).planSettled) (hc : s.se.current = some op) (hw : s.se.waiting = .read ref w)
    (hid : id ≠ ref.id) : exec (.shadowReadDone id res) s = .next s := by
  have hread : s.shadowRead id res = s := by
    unfold State.shadowRead
    rw [hc, hw]
    exact if_neg hid.symm
  have hclose : (s.shadowRead id res).closeEngine s.se.current = s := by
    rw [hread, hc]
    exact State.close_settled hp hs
  exact congrArg Host.Outcome.next hclose

theorem exec_earlyDeadline {s : State} {op : SeOp} {w : SeRead} {ref : ReadRef} (hs : s.summaryInLine)
    (hp : (s.slot op.slot).planSettled) (hc : s.se.current = some op) (hw : s.se.waiting = .read ref w)
    (hd : (s.tb.counter - ref.deadline).toNat ≥ 2 ^ 31) : exec .shadowReadDeadline s = .next s := by
  have hlate : s.shadowReadLate = s := by
    unfold State.shadowReadLate
    rw [hc, hw]
    exact if_neg fun h => absurd (deadlineReached_iff.1 h) (Nat.not_lt.2 hd)
  have hclose : s.shadowReadLate.closeEngine s.se.current = s := by
    rw [hlate, hc]
    exact State.close_settled hp hs
  exact congrArg Host.Outcome.next hclose

/-! ## The ends (R107, R111) -/

/-- The read of an operation of slot `i` ends it: a snapshot with outcome `o`, a restore with detail `dt`. A map that has been
taken over does not matter to what follows. -/
def ReadEnds (s : State) (i : Slot) (kd : OpKind) (c : Instr) (o : ActOutcome) (dt : Nat) : Prop :=
  (kd = .snapshot → exec c s = .next ((s.snapshotEnds i o 0).close i))
    ∧ (kd = .restore → ∃ m, exec c s = .next ((({ s with se := { s.se with map := m } } : State).restoreUnusable i dt).close i))

theorem State.seReadError_ends {s : State} {i : Slot} {kd : OpKind} {c : Instr}
    (h : exec c s = .next ((s.seReadError ⟨kd, i⟩).close i)) : ReadEnds s i kd c .memoryError 4 := by
  refine ⟨?_, ?_⟩ <;> rintro rfl
  · exact h
  · exact ⟨s.se.map, h⟩

theorem State.mapInvalid_ends {s : State} {i : Slot} {kd : OpKind} {c : Instr}
    (h : exec c s = .next ((s.mapInvalid ⟨kd, i⟩).close i)) : ReadEnds s i kd c .badArgument 2 := by
  refine ⟨?_, ?_⟩ <;> rintro rfl
  · exact h
  · exact ⟨s.se.map, h⟩

theorem exec_readFails {s : State} {op : SeOp} {ref : ReadRef} {w : SeRead} {res : ReadResult} (hc : s.se.current = some op)
    (hw : s.se.waiting = .read ref w) (hres : res.bytes (s.se.asked w) = none) :
    exec (.shadowReadDone ref.id res) s = .next ((s.seReadError op).close op.slot) := by
  have hread : s.shadowRead ref.id res = s.seReadError op := by
    unfold State.shadowRead
    rw [hc, hw]
    dsimp only
    rw [if_pos rfl, hres]
  have hclose : (s.shadowRead ref.id res).closeEngine s.se.current = (s.seReadError op).close op.slot := by
    rw [hread, hc]
    rfl
  exact congrArg Host.Outcome.next hclose

theorem exec_readLate {s : State} {op : SeOp} {ref : ReadRef} {w : SeRead} (hc : s.se.current = some op)
    (hw : s.se.waiting = .read ref w) (hd : (s.tb.counter - ref.deadline).toNat < 2 ^ 31) :
    exec .shadowReadDeadline s = .next ((s.seReadError op).close op.slot) := by
  have hlate : s.shadowReadLate = s.seReadError op := by
    unfold State.shadowReadLate
    rw [hc, hw]
    exact if_pos (show deadlineReached s.now ref.deadline = true from deadlineReached_iff.2 hd)
  have hclose : s.shadowReadLate.closeEngine s.se.current = (s.seReadError op).close op.slot := by
    rw [hlate, hc]
    rfl
  exact congrArg Host.Outcome.next hclose

/-- The four ways in which a read error shows. -/
theorem readError_ends {s : State} {i : Slot} {kd : OpKind} {ref : ReadRef} {w : SeRead} {c : Instr}
    (hc : s.se.current = some ⟨kd, i⟩) (hw : s.se.waiting = .read ref w)
    (h : c = .shadowReadDone ref.id .unsupported ∨ c = .shadowReadDone ref.id .aborted
      ∨ (∃ b : List Byte, b.length < s.se.asked w ∧ c = .shadowReadDone ref.id (.data b))
      ∨ c = .shadowReadDeadline ∧ (s.tb.counter - ref.deadline).toNat < 2 ^ 31) :
    ReadEnds s i kd c .memoryError 4 := by
  refine State.seReadError_ends ?_
  rcases h with rfl | rfl | ⟨b, hb, rfl⟩ | ⟨rfl, hd⟩
  · exact exec_readFails hc hw rfl
  · exact exec_readFails hc hw rfl
  · exact exec_readFails hc hw (ReadResult.bytes_short hb)
  · exact exec_readLate hc hw hd

/-! ## What is read and found wrong (R99, R107, R111) -/

theorem State.readGives_badHeader {s : State} {i : Slot} {b : List Byte} (h : b.getD 0 0 ≠ 2) :
    s.readGives ⟨.restore, i⟩ .header b = s.restoreUnusable i 1 := by
  have hinvalid : byteAt b 0 ≠ HdrState.valid.code := fun hv => h (BitVec.eq_of_toNat_eq hv)
  exact if_neg hinvalid

theorem State.readGives_badHead {s : State} {op : SeOp} {b : List Byte}
    (h : ¬ (1 ≤ leNat b 0 2 ∧ leNat b 0 2 ≤ 64 ∧ leNat b 2 2 = 0)) : s.readGives op .mapHead b = s.mapInvalid op := by
  have hnone : mapHeadCount b = none := Option.eq_none_iff_forall_ne_some.2 fun n hn => h ((mapHeadCount_iff b n).1 hn).1
  simp only [State.readGives, State.mapHeadRead, hnone]

theorem State.readGives_badMap {s : State} {op : SeOp} {b : List Byte} {n : Nat}
    (h : ¬ ∃ m : List MapEntry, m.length = n ∧ mapSays b m) : s.readGives op (.mapEntries n) b = s.mapInvalid op := by
  have hnone : mapEntries b n = none := Option.eq_none_iff_forall_ne_some.2 fun m hm => h ⟨m, (mapEntries_iff b n m).1 hm⟩
  simp only [State.readGives, State.mapEntriesRead, hnone]

/-! ## The slot and the queue after the end -/

/-- A snapshot that ends without its entry in the record ends all the same. -/
theorem State.snapshotEnds_ended (s : State) (i : Slot) (o : ActOutcome) (n : Nat) :
    ∃ pre, s.operationEnded (s.snapshotEnds i o n) pre := by
  unfold State.snapshotEnds State.endSnapshot
  split
  · have hret := s.seClear.endEntry_returns i o n
    have honly := s.seClear.endEntry_only i o n
    obtain ⟨pre, hpre⟩ := hret.out
    refine ⟨pre, (State.seNext_ended (by rw [hret.se]; rfl) (by rw [hret.se]; rfl) (by rw [hret.se]; rfl)).before
      (by rw [hret.se]; rfl) ?_ (State.endEntry_readId _ _ _ _) honly.tb fun op _ => ?_⟩
    · rw [List.append_nil]
      exact hpre.symm
    · by_cases hi : op.slot = i
      · rw [hi, honly.policy]
        rfl
      · rw [honly.others _ hi]
        rfl
  · exact ⟨[], s.seClear_seNext_ended⟩

theorem State.snapshotEnds_close {s : State} {i : Slot} {o : ActOutcome} {n : Nat} (ho : o ≠ .done)
    (hp : (s.slot i).planSettled) : (s.snapshotEnds i o n).close i = (s.snapshotEnds i o n).align :=
  State.close_ended ((s.snapshotEnds_slot i o n).2.2 ho hp)

end Sys2Proof.Machine
end

section
/-! PROOFS. The errors of the host memory reads. -/

namespace Sys2Proof.Machine

open Sys2Proof

/-- The errors that a whole read shows, each with the outcome of a snapshot and the detail of a refused restore. -/
theorem badRead_ends {s : State} {i : Slot} {kd : OpKind} {ref : ReadRef} {w : SeRead} {b : List Byte} {o : ActOutcome} {dt : Nat}
    (hc : s.se.current = some ⟨kd, i⟩) (hw : s.se.waiting = .read ref w) (hb : b.length = s.se.asked w)
    (h : w = .header ∧ kd = .restore ∧ b.getD 0 0 ≠ 2 ∧ dt = 1
      ∨ w = .mapHead ∧ ¬ (1 ≤ leNat b 0 2 ∧ leNat b 0 2 ≤ 64 ∧ leNat b 2 2 = 0) ∧ o = .badArgument ∧ dt = 2
      ∨ (∃ n, w = .mapEntries n ∧ (¬ ∃ m : List MapEntry, m.length = n ∧ mapSays b m) ∧ o = .badArgument ∧ dt = 2)
      ∨ ∃ m : List MapEntry, w = .mapEntries m.length ∧ kd = .restore ∧ mapSays b m
        ∧ (m.length ≠ s.se.hdrCount ∨ 4 * totalDwords m ≠ s.se.hdrLength) ∧ dt = 3) :
    ReadEnds s i kd (.shadowReadDone ref.id (.data b)) o dt ∧ (kd = .snapshot → o = .badArgument) := by
  have hexec := exec_readGives hc hw hb
  rcases h with ⟨rfl, rfl, hbad, rfl⟩ | ⟨rfl, hbad, rfl, rfl⟩ | ⟨n, rfl, hbad, rfl, rfl⟩ | ⟨m, rfl, rfl, hm, hbad, rfl⟩
  · rw [State.readGives_badHeader hbad] at hexec
    exact ⟨⟨nofun, fun _ => ⟨s.se.map, hexec⟩⟩, nofun⟩
  · rw [State.readGives_badHead hbad] at hexec
    exact ⟨State.mapInvalid_ends hexec, fun _ => rfl⟩
  · rw [State.readGives_badMap hbad] at hexec
    exact ⟨State.mapInvalid_ends hexec, fun _ => rfl⟩
  · rw [State.readGives_otherMap hm fun hsame => hbad.elim (absurd hsame.1) (absurd hsame.2)] at hexec
    exact ⟨⟨nofun, fun _ => ⟨m, hexec⟩⟩, nofun⟩

/-- What the statement asks of a snapshot that ends. -/
theorem State.snapshotEnds_settles {s : State} {i : Slot} {o : ActOutcome} (ho : o ≠ .done) (hp : (s.slot i).planSettled) :
    let t := (s.snapshotEnds i o 0).close i
    (∃ pre, s.operationEnded t pre)
      ∧ ∀ e f cb, s.holdsEntry i e f cb → e.act = some .snapshot →
        s.returned t [] i e f cb o (s.slot i).cs.state 0 ∧ (t.slot i).cs = (s.slot i).cs
          ∧ s.operationEnded t (s.returnOf cb i e o (s.slot i).cs.state 0) := by
  obtain ⟨pre, hended⟩ := s.snapshotEnds_ended i o 0
  obtain ⟨hslot, -, -⟩ := s.snapshotEnds_slot i o 0
  dsimp only
  rw [State.snapshotEnds_close ho hp]
  refine ⟨⟨pre, hended.align⟩, fun e f cb h he => ?_⟩
  obtain ⟨hreturned, hend⟩ := State.snapshotEnds_returned o 0 h he
  refine ⟨hreturned.align, ?_, hend.align⟩
  rw [State.align_slot, hslot]

/-- What the statement asks of a restore that is refused. -/
theorem State.restoreUnusable_settles {s : State} {i : Slot} (dt : Nat) (hd : (s.slot i).planDone) :
    let t := (s.restoreUnusable i dt).close i
    (∃ pre, s.operationEnded t pre) ∧ (t.slot i).cs = { (s.slot i).cs with state := .held }
      ∧ (t.slot i).ctf = { (s.slot i).ctf with cls := .hold } ∧ s.arrived t [] i .held (s.slot i).cs.attempts 0
      ∧ (queuedFor i s.iq ≤ 3 → ∃ x ∈ t.iq, x.slot = i ∧ x.kind = .restoreSkipped ∧ x.detail = BitVec.ofNat 64 dt) := by
  have hentered := s.skipped_entered i dt
  obtain ⟨hslot, hiq, -, -⟩ := (s.skipped i dt).goesOn_slot i .held
  rw [s.skipped_slot i dt] at hslot
  dsimp only
  rw [State.restoreUnusable_eq, hentered.close hd, State.align_slot, (State.align_ring _).iq, hiq, hslot]
  exact ⟨hentered.ended, rfl, rfl, hentered.arrived fun k o => entryReturns_held, State.skipped_incident dt⟩

/-- Settles O34: the answers that change nothing, and the ends of either operation. -/
theorem shadowReadErrorsEndTheOperation : Obligations.ShadowReadErrorsEndTheOperation := by
  intro s i kd w ref c o dt r asked
  have hasked : asked = s.se.asked w := by cases w <;> rfl
  clear_value asked
  subst hasked
  intro hs hp hc hw
  refine ⟨fun id res hid => exec_otherRead res hs hp hc hw hid, fun hd => exec_earlyDeadline hs hp hc hw hd, fun hcase => ?_⟩
  obtain ⟨⟨hsnapshot, hrestore⟩, ho⟩ : ReadEnds s i kd c o dt ∧ (kd = .snapshot → o ≠ .done) := by
    rcases hcase with ⟨hfails, rfl, rfl⟩ | ⟨b, hb, rfl, hbad⟩
    · exact ⟨readError_ends hc hw hfails, fun _ => by decide⟩
    · obtain ⟨hends, houtcome⟩ := badRead_ends hc hw hb hbad
      exact ⟨hends, fun hk => by rw [houtcome hk]; decide⟩
  cases kd with
  | snapshot =>
    obtain ⟨hended, hreturns⟩ := State.snapshotEnds_settles (ho rfl) hp
    exact ⟨_, hsnapshot rfl, fun _ => hended, fun _ => hreturns, nofun⟩
  | restore =>
    obtain ⟨m, hexec⟩ := hrestore rfl
    refine ⟨_, hexec, fun hd => ?_, nofun, fun _ hd => ?_⟩
    · exact (State.restoreUnusable_settles (s := { s with se := { s.se with map := m } }) dt (hd.resolve_left nofun)).1
    · exact (State.restoreUnusable_settles (s := { s with se := { s.se with map := m } }) dt hd).2

end Sys2Proof.Machine
end

section
/-! PROOFS. The completions of a write-back. -/

namespace Sys2Proof.Machine

open Sys2Proof

/-! ## A completion with Success on the engine tag (R13, R16) -/

/-- The engine tag FREE again, and the free values of the dword handed over. -/
def State.accessDone (s : State) (i : Slot) : State := { s.setEntry i engineTag .free with free := s.free + 4 }

theorem State.accessDone_slot (s : State) (i : Slot) :
    (s.accessDone i).slot i = (s.slot i).setTt ((s.slot i).tt.setEntry engineTag .free) :=
  State.modSlot_slot_self s i fun r => r.setTt (r.tt.setEntry engineTag .free)

theorem State.accessDone_free (s : State) (i : Slot) : ((s.accessDone i).slot i).tt.entry engineTag = .free := by
  rw [State.accessDone_slot, SlotRec.setTt, TtRec.setEntry_self]

theorem State.accessDone_policy (s : State) (i j : Slot) : ((s.accessDone i).slot j).policy = (s.slot j).policy := by
  by_cases hj : j = i
  · rw [hj, State.accessDone_slot]
    rfl
  · exact congrArg SlotRec.policy (State.modSlot_slot_ne s i j (fun r => r.setTt (r.tt.setEntry engineTag .free)) hj)

/-- An access of the engine that ends with Success hands SE its dword. -/
theorem exec_accessSucceeds {s : State} {i : Slot} {kd : OpKind} {kind : ReqKind} {c : CardCpl} {d : Dword} (f : Bool)
    (hwaits : (s.slot i).engineWaits kind) (hkind : kind ≠ .memoryRead) (hc : s.se.current = some ⟨kd, i⟩)
    (hw : s.se.waiting = .card) (hst : c.status = .success) (hlen : c.data.length ≤ if kind = .configRead then 4 else 0)
    (hd : s.engineDword c.data = d) :
    exec (.cardCompletion i 31 c f) s = .next (((s.accessDone i).accessSucceeded i kd d).close i) := by
  obtain ⟨n, hentry⟩ := hwaits
  have hdone : ∀ fl : OrtFields, fl.malformed c = false →
      s.engineCompletes i engineTag fl c f = (s.accessDone i).accessResult i (.success d) := fun fl hfl => by
    unfold State.engineCompletes
    dsimp only
    rw [if_neg (by rw [hfl]; decide), hst, ← hd]
    rfl
  have hresult : (s.accessDone i).accessResult i (.success d) = (s.accessDone i).accessSucceeded i kd d := by
    have hcurrent : (s.accessDone i).se.current = some ⟨kd, i⟩ := hc
    unfold State.accessResult
    rw [hcurrent]
    exact if_pos ⟨rfl, hw⟩
  rw [exec_engineCompletes c f hentry rfl, hdone _ ?_, hresult]
  rw [OrtFields.malformed_engine _ hkind]
  exact decide_eq_false (Nat.not_lt.2 hlen)

/-- The dword that four bytes make; free values do not reach it. -/
theorem State.engineDword_four (s : State) (b0 b1 b2 b3 : Byte) :
    s.engineDword [b0, b1, b2, b3] = BitVec.ofNat 32 (leNat [b0, b1, b2, b3] 0 4) := by
  simp [State.engineDword, leNat, byteAt]

/-! ## What a success leads to (R112, R113, R115) -/

theorem State.writeSucceeds_verifies {s : State} {i : Slot} (d : Dword) (hstep : s.se.step = .writeBack)
    (hverify : s.se.here.verify = true) : (s.accessDone i).accessSucceeded i .restore d
      = ({ s.accessDone i with se := { s.se with step := .verifyRead } } : State).offered i none := by
  have hoffer : (s.accessDone i).accessSucceeded i .restore d
      = ({ s.accessDone i with se := { s.se with step := .verifyRead } } : State).offer i .restore none := by
    have h : (s.accessDone i).se.step = .writeBack := hstep
    unfold State.accessSucceeded
    rw [h]
    exact if_pos hverify
  rw [hoffer]
  exact State.offer_taken .restore none (s.accessDone_free i)

theorem State.writeSucceeds_goesOn {s : State} {i : Slot} (d : Dword) (hstep : s.se.step = .writeBack)
    (hverify : s.se.here.verify = false) : (s.accessDone i).accessSucceeded i .restore d = (s.accessDone i).nextWrite i := by
  have h : (s.accessDone i).se.step = .writeBack := hstep
  unfold State.accessSucceeded
  rw [h]
  exact if_neg (by rw [show (s.accessDone i).se.here.verify = false from hverify]; decide)

theorem State.readbackAgrees {s : State} {i : Slot} {d : Dword} (hstep : s.se.step = .verifyRead) (hd : d = s.se.staged) :
    (s.accessDone i).accessSucceeded i .restore d = (s.accessDone i).nextWrite i := by
  have h : (s.accessDone i).se.step = .verifyRead := hstep
  unfold State.accessSucceeded
  rw [h]
  exact if_pos hd

theorem State.readbackDiffers {s : State} {i : Slot} {d : Dword} (hstep : s.se.step = .verifyRead) (hd : d ≠ s.se.staged) :
    (s.accessDone i).accessSucceeded i .restore d = (s.accessDone i).restoreFails i 5 := by
  have h : (s.accessDone i).se.step = .verifyRead := hstep
  unfold State.accessSucceeded
  rw [h]
  exact if_neg hd

/-! ## The next write (R112) -/

theorem State.nextWrite_offers {s : State} {i : Slot} {e : SeRec} (h : s.se.restoreNext = some e) :
    (s.accessDone i).nextWrite i = ({ s.accessDone i with se := e } : State).offered i (some e.staged) := by
  have hnext : (s.accessDone i).nextWrite i = ({ s.accessDone i with se := e } : State).offer i .restore (some e.staged) := by
    have hsame : (s.accessDone i).se.restoreNext = some e := h
    unfold State.nextWrite
    rw [hsame]
  rw [hnext]
  exact State.offer_taken .restore _ (s.accessDone_free i)

theorem State.nextWrite_ends {s : State} {i : Slot} (h : s.se.restoreNext = none) :
    (s.accessDone i).nextWrite i = (s.accessDone i).restoreDone i := by
  have hsame : (s.accessDone i).se.restoreNext = none := h
  unfold State.nextWrite
  rw [hsame]

theorem SeRec.restoreNext_dword {e : SeRec} (h : e.dword + 1 < e.here.count) :
    e.restoreNext = some { e with step := .writeBack, dword := e.dword + 1 } := if_pos h

theorem SeRec.restoreNext_entry {e : SeRec} {q : Pass} {n : Nat} {m : MapEntry} (h : e.here.count ≤ e.dword + 1)
    (hm : follows e.map e.pass (e.entry + 1) q n m) :
    e.restoreNext = some { e with step := .writeBack, pass := q, entry := n, dword := 0 } := by
  unfold SeRec.restoreNext
  rw [if_neg (Nat.not_lt.2 h), (nextPlace_some e.map e.pass q (e.entry + 1) n).2 ⟨m, hm⟩]
  rfl

theorem SeRec.restoreNext_none {e : SeRec} (h : e.here.count ≤ e.dword + 1)
    (hm : nothingFollows e.map e.pass (e.entry + 1)) : e.restoreNext = none := by
  unfold SeRec.restoreNext
  rw [if_neg (Nat.not_lt.2 h), (nextPlace_none e.map e.pass (e.entry + 1)).2 hm]
  rfl

/-- An access offered in the event of a completion ends the event; SE waits for it. -/
theorem State.accessDone_offered {s : State} {i : Slot} (e : SeRec) (write : Option Dword) (hs : s.summaryInLine)
    (hp : (s.slot i).planSettled) (hw : e.waiting = .card) :
    let t := ({ s.accessDone i with se := e } : State).offered i write
    t.close i = t ∧ t.se = e ∧ t.out = s.out ++ [.engineDown i e.bus e.cardIndex write]
      ∧ (t.slot i).engineWaits (if write.isSome then .configWrite else .configRead) ∧ (t.slot i).cs = (s.slot i).cs := by
  have hslot : (({ s.accessDone i with se := e } : State)).slot i = (s.accessDone i).slot i := rfl
  refine ⟨State.offered_close hs hp rfl (by rw [hslot, State.accessDone_slot]; rfl), ?_, rfl, State.offered_waits _ i write, ?_⟩
  · change { e with waiting := .card } = e
    rw [← hw]
  · rw [State.offered_slot, hslot, State.accessDone_slot]
    rfl

end Sys2Proof.Machine
end

section
/-! PROOFS. A write-back verifies and admits. -/

namespace Sys2Proof.Machine

open Sys2Proof

/-- A state entry seen from before a step that leaves SE, RI, the outputs and the policies as they were. -/
theorem Entered.before {i : Slot} {s u v : State} {st : SlotState} {pre : List Output} (h : Entered i u v st pre)
    (hse : u.se = s.se) (hkeeps : Unreturned i s u) (htb : u.tb = s.tb) (hid : u.readId = s.readId) (hout : u.out = s.out)
    (hpolicy : ∀ j, (u.slot j).policy = (s.slot j).policy) (hattempts : (u.slot i).cs.attempts = (s.slot i).cs.attempts) :
    Entered i s v st pre where
  se := h.se.trans (by rw [State.seClear, hse]; rfl)
  keeps := hkeeps.trans h.keeps
  tb := h.tb.trans htb
  readId := h.readId.trans hid
  out := h.out.trans (by rw [hout])
  policy j := (h.policy j).trans (hpolicy j)
  state := h.state
  attempts := h.attempts.trans hattempts

/-- The last access of a restore that is done admits the slot to PROBATION. -/
theorem State.accessDone_admits {s : State} {i : Slot} (hd : (s.slot i).planDone) (hh : (s.slot i).tt.hold = []) :
    let w := ((s.accessDone i).restoreDone i).close i
    let pre := (s.slot i).ctf.holdover.toList.map (.cardWriteUp i)
    (w.slot i).cs.state = .probation ∧ (w.slot i).cs.attempts = (s.slot i).cs.attempts
      ∧ (w.slot i).hm = { score := 0, watched := false, alert := false, firstExpiry := false }
      ∧ (w.slot i).ctf = { holdover := none, dmaReported := false, cls := .permit }
      ∧ s.out ++ pre <+: w.out ∧ s.arrived w pre i .probation (s.slot i).cs.attempts 0 ∧ ∃ pre', s.operationEnded w pre' := by
  have hrecord := s.accessDone_slot i
  have hwent := State.onTrial_still (s := (s.accessDone i).seClear) (i := i) (by
    change ((s.accessDone i).slot i).tt.hold = []
    rw [hrecord]
    exact hh)
  have hentered := hwent.entered.before (s := s) rfl ⟨rfl, by rw [hrecord]; rfl⟩ rfl rfl rfl (s.accessDone_policy i)
    (by rw [hrecord]; rfl)
  have hpre : ((s.accessDone i).slot i).ctf.holdover = (s.slot i).ctf.holdover := by rw [hrecord]; rfl
  rw [hpre, List.nil_append] at hentered
  obtain ⟨hslot, -, hout, -⟩ := ((s.accessDone i).seClear.onTrial i).goesOn_slot i .probation
  obtain ⟨hprefix, -, -, -⟩ := (((s.accessDone i).seClear.onTrial i).goesOn i .probation).align_arrives i
  have hstate := hentered.state
  have hattempts := hentered.attempts
  dsimp only
  rw [State.restoreDone_eq, hentered.close hd, State.align_slot, hslot]
  refine ⟨hstate, hattempts, by rw [hwent.slot]; rfl, by rw [hwent.slot]; rfl, ?_,
    hentered.arrived fun k o => entryReturns_probation, hentered.ended⟩
  rw [← hentered.out]
  exact hout.trans hprefix

/-- A readback that differs fails the attempt. -/
theorem State.accessDone_fails {s : State} {i : Slot} (hp : (s.slot i).planSettled) :
    let w := ((s.accessDone i).restoreFails i 5).close i
    (w.slot i).cs.state = .bleeding ∧ (w.slot i).cs.kind = .cold ∧ (w.slot i).pru.dark
      ∧ ((∀ op ∈ s.se.queue, op.slot ≠ i) → ∃ pre, s.operationEnded w pre)
      ∧ (queuedFor i s.iq ≤ 3 → ∃ x ∈ w.iq, x.slot = i ∧ x.kind = .recoveryFailed
        ∧ x.detail = BitVec.ofNat 64 (5 + 4294967296 * s.se.cardIndex)) := by
  have hrecord := s.accessDone_slot i
  obtain ⟨a, hslot, hsettled⟩ := (s.accessDone i).restoreFails_slot i 5
  dsimp only
  rw [State.close_ended (hsettled (by rw [hrecord]; exact hp)), State.align_slot, (State.align_ring _).iq, hslot]
  refine ⟨rfl, CsRec.failCheck_kind _ _, SlotRec.failed_dark _, fun hq => ?_, fun hq => ?_⟩
  · obtain ⟨pre, hended⟩ := State.restoreFails_ended (s := s.accessDone i) (i := i) 5 hq
    exact ⟨pre, (hended.before (r := s) rfl rfl rfl rfl fun op _ => s.accessDone_policy i op.slot).align⟩
  · exact State.restoreFails_incident (s := s.accessDone i) (i := i) 5 hq

/-- Settles O36: the verification, the next write, the admission, and the readback that differs. -/
theorem writeBackVerifiesAndAdmits : Obligations.WriteBackVerifiesAndAdmits := by
  intro s i c f b0 b1 b2 b3
  dsimp only
  intro hs hd hc hw hsuccess hdata
  have hwrites : (s.slot i).engineWaits .configWrite → exec (.cardCompletion i 31 c f) s
      = .next (((s.accessDone i).accessSucceeded i .restore (s.engineDword c.data)).close i) := fun hwaits =>
    exec_accessSucceeds f hwaits nofun hc hw hsuccess (by rw [hdata]; exact Nat.zero_le _) rfl
  have hreads : (s.slot i).engineWaits .configRead →
      exec (.cardCompletion i 31 { status := .success, data := [b0, b1, b2, b3], remaining := 0 } f) s
        = .next (((s.accessDone i).accessSucceeded i .restore (BitVec.ofNat 32 (leNat [b0, b1, b2, b3] 0 4))).close i) :=
    fun hwaits => exec_accessSucceeds f hwaits nofun hc hw rfl (by rw [if_pos rfl]; exact le_rfl) (s.engineDword_four b0 b1 b2 b3)
  refine ⟨fun hstep hwaits hverify => ?_, fun d hcase => ?_, fun hstep hwaits hdiffers => ?_⟩
  · obtain ⟨hclose, hse, hout, htag, hcs⟩ :=
      State.accessDone_offered (i := i) { s.se with step := .verifyRead } none hs hd.settled hw
    rw [hwrites hwaits, State.writeSucceeds_verifies _ hstep hverify, hclose]
    exact ⟨_, rfl, hse, hout, htag, hcs⟩
  · have hgoes : exec (.cardCompletion i 31 d f) s = .next (((s.accessDone i).nextWrite i).close i) := by
      rcases hcase with ⟨rfl, hstep, hwaits, hverify⟩ | ⟨rfl, hstep, hwaits, hagrees⟩
      · rw [hwrites hwaits, State.writeSucceeds_goesOn _ hstep hverify]
      · rw [hreads hwaits, State.readbackAgrees hstep hagrees]
    rw [hgoes]
    refine ⟨fun hmore => ?_, fun q n m hlast hm => ?_, fun hlast hm hh => ?_⟩
    · obtain ⟨hclose, hse, hout, htag, hcs⟩ := State.accessDone_offered (i := i)
        { s.se with step := .writeBack, dword := s.se.dword + 1 }
        (some ({ s.se with step := .writeBack, dword := s.se.dword + 1 } : SeRec).staged) hs hd.settled hw
      rw [State.nextWrite_offers (SeRec.restoreNext_dword hmore), hclose]
      exact ⟨_, rfl, hse, hout, htag, hcs⟩
    · obtain ⟨hclose, hse, hout, htag, hcs⟩ := State.accessDone_offered (i := i)
        { s.se with step := .writeBack, pass := q, entry := n, dword := 0 }
        (some ({ s.se with step := .writeBack, pass := q, entry := n, dword := 0 } : SeRec).staged) hs hd.settled hw
      have hindex : ({ s.se with step := .writeBack, pass := q, entry := n, dword := 0 } : SeRec).cardIndex = m.index := by
        have hget : s.se.map[n]? = some m := hm.1
        rw [SeRec.cardIndex_eq]
        dsimp only
        rw [List.getD_eq_getElem?_getD, hget]
        rfl
      rw [hindex] at hout
      rw [State.nextWrite_offers (SeRec.restoreNext_entry hlast hm), hclose]
      exact ⟨_, rfl, hse, hout, htag, hcs⟩
    · obtain ⟨hstate, hattempts, hhm, hctf, hout, harrived, hended⟩ := State.accessDone_admits hd hh
      rw [State.nextWrite_ends (SeRec.restoreNext_none hlast hm)]
      refine ⟨_, rfl, hstate, hattempts, hhm, hctf, fun w hheld => ?_, harrived, hended⟩
      rw [hheld] at hout
      exact hout
  · rw [hreads hwaits, State.readbackDiffers hstep hdiffers]
    exact ⟨_, rfl, State.accessDone_fails hd.settled⟩

end Sys2Proof.Machine
end

section
/-! SUPPORT. The reading of a conversion: what a bleed check makes of it, and the end of its event. -/

namespace Sys2Proof.Machine

open Sys2Proof

theorem reading_eq (rail : Int) : reading rail = (max 0 (min 14000 rail)).toNat := by
  unfold reading
  omega

/-! ## The end of the event (R93, R160) -/

/-- The service ends, the plan of the slot goes on, and the summary is brought into line. -/
def State.served (x : State) (i : Slot) : State := ((x.serviceEnds i).settle i).align

theorem exec_measuring {s : State} {i : Slot} (rail : Int) (ha : s.rm.activity = .measuring) (ht : s.rm.timer = 0)
    (hi : s.rm.inService = some i) :
    exec (.measuringConversionEnd rail) s
      = .next ((s.handReading i (max 0 (min 14000 rail)).toNat).served i) := by
  have h : s.measuringEnds rail = ((s.handReading i (reading rail)).serviceEnds i).settle i := by
    unfold State.measuringEnds
    rw [hi]
    exact if_pos ⟨ha, ht⟩
  rw [← reading_eq]
  exact congrArg (fun t : State => Host.Outcome.next t.align) h

/-- With no entry left to start, the end of the event leaves the slots, the queue and what has been returned. -/
structure Serves (i : Slot) (x w : State) : Prop where
  slot : w.slot i = x.slot i
  iq : w.iq = x.iq
  out : x.out <+: w.out
  inFlight : w.ri.inFlight = x.ri.inFlight
  causes : w.ri.causes = x.ri.causes
  sample : (w.rm.req i).sample = false

theorem State.served_serves {x : State} {i : Slot} (h : (x.slot i).planSettled) : Serves i x (x.served i) := by
  have hsettle : (x.serviceEnds i).settle i = x.serviceEnds i := State.settle_settled h
  have hsample : ((x.rm.endService i).req i).sample = false := by
    unfold RmRec.endService
    rw [RmRec.arbitrate_sample]
    exact congrArg RailReq.sample (x.rm.setReq_self i RailReq.none)
  obtain ⟨hout, hflight, hcauses, -⟩ := (x.serviceEnds i).align_arrives i
  unfold State.served
  rw [hsettle]
  refine ⟨State.align_slot _ _, (State.align_ring _).iq, hout, hflight, hcauses, ?_⟩
  rw [(State.align_ring _).rm]
  exact hsample

/-! ## The bleed check (R81 to R83, R49) -/

/-- From `s` to `u` the bleed has ended on the reading `mv` and the slot has entered `st`, before AD returns what waits for it. -/
structure Bled (i : Slot) (s u : State) (st : SlotState) (mv : Nat) : Prop where
  keeps : Unreturned i s u
  tb : u.tb = s.tb
  out : u.out = s.out
  state : (u.slot i).cs.state = st
  attempts : (u.slot i).cs.attempts = (s.slot i).cs.attempts
  pru : (u.slot i).pru = { (s.slot i).pru with lastReading := mv }.endBleed

/-- PRU's record of a bleed that has ended, on the slot. -/
def State.bledOut (s : State) (i : Slot) (mv : Nat) : State :=
  (s.modPru i fun q => { q with lastReading := mv }).modPru i PruRec.endBleed

theorem State.bledOut_slot (s : State) (i : Slot) (mv : Nat) :
    (s.bledOut i mv).slot i = { s.slot i with pru := { (s.slot i).pru with lastReading := mv }.endBleed } := by
  rw [State.bledOut, State.modPru_slot_self, State.modPru_slot_self]

theorem State.bleedResult_below {s : State} {i : Slot} {mv : Nat} (h : mv < (s.slot i).pol.offT) :
    s.bleedResult i mv = (s.bledOut i mv).bleedEnd i := if_pos h

theorem State.bleedResult_off {s : State} {i : Slot} {mv : Nat} (h : mv < (s.slot i).pol.offT)
    (ht : (s.slot i).cs.target = .off) :
    ∃ u, s.bleedResult i mv = u.onEntry i .off (s.slot i).cs.attempts ∧ Bled i s u .off mv
      ∧ (u.slot i).cs.retryPending = false ∧ u.iq = s.iq := by
  have hslot := s.bledOut_slot i mv
  have hafter : (((s.bledOut i mv).enter i .off).modCs i fun c => { c with retryPending := false }).slot i
      = { s.slot i with
          cs := { (s.slot i).cs with state := .off, retryPending := false }
          ctf := { (s.slot i).ctf with cls := SlotState.off.cls }
          pru := { (s.slot i).pru with lastReading := mv }.endBleed } := by
    rw [State.modCs, State.modSlot_slot_self, State.enter_slot_self, hslot]
    rfl
  have htarget : ((s.bledOut i mv).slot i).cs.target = .off := by rw [hslot]; exact ht
  refine ⟨((s.bledOut i mv).enter i .off).modCs i fun c => { c with retryPending := false }, ?_,
    ⟨⟨rfl, by rw [hafter]⟩, rfl, rfl, by rw [hafter], by rw [hafter], by rw [hafter]⟩, by rw [hafter], rfl⟩
  rw [State.bleedResult_below h, State.bleedEnd]
  dsimp only
  rw [htarget, hslot]

/-- RETIRED entered on the last reading, with what `x` is from before. -/
theorem State.retireFromBleed_bled {s x : State} {i : Slot} {mv : Nat}
    (hslot : x.slot i = { s.slot i with pru := { (s.slot i).pru with lastReading := mv }.endBleed })
    (hri : x.ri = s.ri) (htb : x.tb = s.tb) (hout : x.out = s.out) :
    ∃ u, x.retireFromBleed i = u.onEntry i .retired (s.slot i).cs.attempts ∧ Bled i s u .retired mv
      ∧ (u.slot i).cs.kind = .none ∧ (u.slot i).cs.target = .none ∧ (u.slot i).cs.retryPending = false
      ∧ ∃ y, u.iq = iwTake y x.iq ∧ y.slot = i ∧ y.kind = .retired ∧ y.countB = mv := by
  have hafter : (x.enterRetired i (x.slot i).pru.lastReading).slot i = { s.slot i with
      cs := { (s.slot i).cs with state := .retired, kind := .none, target := .none, retryPending := false }
      ctf := { (s.slot i).ctf with cls := SlotState.retired.cls }
      pru := { (s.slot i).pru with lastReading := mv }.endBleed } := by
    rw [State.enterRetired, State.modCs, State.modSlot_slot_self, State.raise_slot, State.enter_slot_self, hslot]
    rfl
  refine ⟨x.enterRetired i (x.slot i).pru.lastReading, ?_, ⟨⟨hri, by rw [hafter]⟩, htb, hout, by rw [hafter], by rw [hafter],
    by rw [hafter]⟩, by rw [hafter], by rw [hafter], by rw [hafter], _, rfl, rfl, rfl, by rw [hslot]; rfl⟩
  rw [State.retireFromBleed, hafter]

theorem State.bleedResult_retired {s : State} {i : Slot} {mv : Nat} (h : mv < (s.slot i).pol.offT)
    (ht : (s.slot i).cs.target = .retired) :
    ∃ u, s.bleedResult i mv = u.onEntry i .retired (s.slot i).cs.attempts ∧ Bled i s u .retired mv
      ∧ (u.slot i).cs.kind = .none ∧ (u.slot i).cs.target = .none ∧ (u.slot i).cs.retryPending = false
      ∧ (queuedFor i s.iq ≤ 3 → ∃ x ∈ u.iq, x.slot = i ∧ x.kind = .retired ∧ x.countB = mv) := by
  have hslot := s.bledOut_slot i mv
  obtain ⟨u, hu, hbled, h1, h2, h3, y, hy, hyi, hyk, hyb⟩ :=
    State.retireFromBleed_bled (x := s.bledOut i mv) hslot rfl rfl rfl
  refine ⟨u, ?_, hbled, h1, h2, h3, fun hq => ⟨y, ?_, hyi, hyk, hyb⟩⟩
  · rw [State.bleedResult_below h, State.bleedEnd, ← hu]
    dsimp only
    rw [hslot]
    dsimp only
    rw [ht]
  · rw [hy]
    refine mem_iwTake_self ?_
    rw [hyi]
    exact Nat.lt_succ_of_le hq

/-- The extensions are used up: BLEED_STUCK is raised, and the slot retires. -/
theorem State.bleedResult_stuck {s : State} {i : Slot} {mv : Nat} (h : (s.slot i).pol.offT ≤ mv)
    (hused : (s.slot i).pol.bleedExt ≤ (s.slot i).pru.rechecks) :
    ∃ u, s.bleedResult i mv = u.onEntry i .retired (s.slot i).cs.attempts ∧ Bled i s u .retired mv
      ∧ (queuedFor i s.iq ≤ 2 → ∃ x ∈ u.iq, x.slot = i ∧ x.kind = .railFault ∧ x.countA = (s.slot i).pru.rechecks + 1
        ∧ x.countB = mv) := by
  have hstuck : s.bleedResult i mv = ((s.bledOut i mv).raise i .railFault ((s.slot i).pru.rechecks + 1) mv
      (detailOf RailFault.bleedStuck.code 0)).retireFromBleed i :=
    (if_neg (Nat.not_lt.2 h)).trans (if_neg (Nat.not_lt.2 hused))
  obtain ⟨u, hu, hbled, -, -, -, y, hy, hyi, -, -⟩ := State.retireFromBleed_bled (x := (s.bledOut i mv).raise i .railFault
    ((s.slot i).pru.rechecks + 1) mv (detailOf RailFault.bleedStuck.code 0)) (s.bledOut_slot i mv) rfl rfl rfl
  refine ⟨u, hstuck.trans hu, hbled, fun hq => ⟨(s.bledOut i mv).incident i .railFault
    ((s.slot i).pru.rechecks + 1) mv (detailOf RailFault.bleedStuck.code 0), ?_, rfl, rfl, rfl, rfl⟩⟩
  have hone := queuedFor_iwTake_le ((s.bledOut i mv).incident i .railFault ((s.slot i).pru.rechecks + 1) mv
    (detailOf RailFault.bleedStuck.code 0)) s.iq i
  rw [hy]
  refine mem_iwTake ?_ (State.mem_raise .railFault _ _ _ (hq.trans (by decide)))
  rw [hyi]
  exact Nat.lt_succ_of_le (hone.trans (Nat.succ_le_succ hq))

theorem State.bleedResult_again {s : State} {i : Slot} {mv : Nat} (h : (s.slot i).pol.offT ≤ mv)
    (hused : (s.slot i).pru.rechecks < (s.slot i).pol.bleedExt) :
    (s.bleedResult i mv).slot i = { s.slot i with pru := { (s.slot i).pru with
        lastReading := mv, rechecks := (s.slot i).pru.rechecks + 1, timer := some (s.slot i).pol.bleedRecheck
        phase := .bleedWait } }
      ∧ (s.bleedResult i mv).iq = s.iq ∧ (s.bleedResult i mv).ri = s.ri ∧ (s.bleedResult i mv).tb = s.tb
      ∧ (s.bleedResult i mv).out = s.out := by
  have hagain : s.bleedResult i mv = (s.modPru i fun q => { q with lastReading := mv }).modPru i fun q =>
      { q with
        rechecks := (s.slot i).pru.rechecks + 1, timer := some (s.slot i).pol.bleedRecheck, phase := .bleedWait } :=
    (if_neg (Nat.not_lt.2 h)).trans (if_pos hused)
  rw [hagain, State.modPru_slot_self, State.modPru_slot_self]
  exact ⟨rfl, rfl, rfl, rfl, rfl⟩

end Sys2Proof.Machine
end

section
/-! PROOFS. The reading of a conversion goes to the shares present. -/

namespace Sys2Proof.Machine

open Sys2Proof

/-! ## The next attempt after a bleed (R49, R51, R53) -/

theorem State.powerUp_rises {x : State} {i : Slot} (h : (x.slot i).sense.pgAcc = false) :
    (x.powerUp i).slot i = (x.slot i).rising (x.slot i).cs := by
  have hup : x.powerUp i = (x.enter i .powering).modPru i PruRec.enterRamp := if_neg (by rw [h]; decide)
  rw [hup, State.modPru_slot_self, State.enter_slot_self]
  rfl

theorem State.bleedResult_ramps {s : State} {i : Slot} {mv : Nat} (h : mv < (s.slot i).pol.offT)
    (ht : (s.slot i).cs.target = .none) (hacc : (s.slot i).sense.pgAcc = false) :
    ∃ c : CsRec, (s.bleedResult i mv).slot i
        = SlotRec.rising { s.slot i with pru := { (s.slot i).pru with lastReading := mv }.endBleed } c
      ∧ c.retryPending = false
      ∧ c.attempts = if (s.slot i).cs.retryPending then min (s.slot i).pol.maxAttempts ((s.slot i).cs.attempts + 1)
        else (s.slot i).cs.attempts := by
  have hslot := s.bledOut_slot i mv
  have htarget : ((s.bledOut i mv).slot i).cs.target = .none := by rw [hslot]; exact ht
  rw [State.bleedResult_below h, State.bleedEnd]
  dsimp only
  rw [htarget]
  dsimp only
  by_cases hretry : (s.slot i).cs.retryPending = true
  · rw [if_pos (by rw [hslot]; exact hretry), if_pos hretry,
      State.powerUp_rises (by rw [State.modCs, State.modSlot_slot_self, hslot]; exact hacc), State.modCs,
      State.modSlot_slot_self, State.pol, hslot]
    exact ⟨_, rfl, rfl, rfl⟩
  · rw [if_neg (by rw [hslot]; exact hretry), if_neg hretry, State.powerUp_rises (by rw [hslot]; exact hacc), hslot]
    exact ⟨_, rfl, Bool.eq_false_of_not_eq_true hretry, rfl⟩

/-! ## A bleed share alone (R93) -/

theorem State.handReading_bleed {s : State} {i : Slot} (mv : Nat) (hb : (s.rm.req i).bleed = true)
    (hs : (s.rm.req i).sample = false) : s.handReading i mv = s.bleedResult i mv := by
  simp only [State.handReading, hb, hs, if_true, Bool.false_eq_true, if_false]

/-- The event of a bleed that has ended: what waits for the state entered is returned, with the reading as the result of
POWER_OFF and RETIRE. -/
theorem Bled.serves {i : Slot} {s u : State} {st : SlotState} {mv : Nat} (h : Bled i s u st mv) (hd : (s.slot i).planDone) :
    let w := (u.onEntry i st (s.slot i).cs.attempts).served i
    w.slot i = { u.slot i with ad := (w.slot i).ad } ∧ w.iq = u.iq ∧ s.arrived w [] i st (s.slot i).cs.attempts mv := by
  have hreturns := u.onEntry_returns i st (s.slot i).cs.attempts
  have hplan : (u.slot i).planDone := by
    unfold SlotRec.planDone
    rw [h.keeps.ad]
    exact hd
  have hserves := State.served_serves (hreturns.done hplan).settled
  have harrived := State.onEntry_arrived u i (s.slot i).cs.attempts
  have hreading : (u.slot i).pru.lastReading = mv := by rw [h.pru]; rfl
  rw [h.state, hreading] at harrived
  dsimp only
  refine ⟨?_, hserves.iq.trans hreturns.iq, State.arrived_of harrived h.keeps.ad h.keeps.ri h.tb
    (h.out.trans (List.append_nil _).symm) hserves.out hserves.inFlight hserves.causes (by rw [hserves.slot])
    fun _ _ _ _ => rfl⟩
  rw [hserves.slot]
  exact hreturns.slot

/-! ## A sample share (R93, R157, R161) -/

theorem State.handReading_sample {s : State} {i : Slot} (mv : Nat) (hs : (s.rm.req i).sample = true)
    (hb : (s.rm.req i).bleed = false) : s.handReading i mv = s.sampleResult i mv := by
  simp only [State.handReading, hb, hs, if_true, Bool.false_eq_true, if_false]

theorem State.handReading_both {s : State} {i : Slot} (mv : Nat) (hs : (s.rm.req i).sample = true)
    (hb : (s.rm.req i).bleed = true) : s.handReading i mv = (s.bleedResult i mv).sampleResult i mv := by
  simp only [State.handReading, hb, hs, if_true]

/-- A RAIL_SAMPLE that is the last of its record is returned with the reading, after what `x` is from before. -/
theorem State.sampleResult_served {s x : State} {i : Slot} {e : ActEntry} {f : InFlight} {cb : ControlBlock} (mv : Nat)
    (h : s.holdsEntry i e f cb) (he : e.act = some .railSample) (hkeeps : Unreturned i s x) (htb : x.tb = s.tb)
    (hout : x.out = s.out) :
    let w := (x.sampleResult i mv).served i
    s.returned w [] i e f cb (if (s.slot i).ad.cardRemoved then .cardRemoved else .done) (x.slot i).cs.state mv
      ∧ w.slot i = { x.slot i with ad := (w.slot i).ad } ∧ (w.rm.req i).sample = false := by
  have hruns : (x.slot i).ad.runs .railSample = true := by
    rw [hkeeps.ad, AdRec.runs_iff h.1]
    exact decide_eq_true he
  have hhold : x.holdsEntry i e f cb := by
    unfold State.holdsEntry
    rw [hkeeps.ad, hkeeps.ri]
    exact h
  have hresult : x.sampleResult i mv
      = x.endEntry i (if (s.slot i).ad.cardRemoved then .cardRemoved else .done) mv := by
    rw [State.sampleResult, if_pos hruns, hkeeps.ad]
  have hreturned := x.endEntry_returned i e f cb (if (s.slot i).ad.cardRemoved then .cardRemoved else .done) mv hhold
  have hreturns := x.endEntry_returns i (if (s.slot i).ad.cardRemoved then .cardRemoved else .done) mv
  have hplan : (x.slot i).planDone := hhold.2.1
  have hserves := State.served_serves (hreturns.done hplan).settled
  rw [hresult]
  refine ⟨?_, ?_, hserves.sample⟩
  · exact (hreturned.before (hout.trans (List.append_nil _).symm) hkeeps.ri htb).after hserves.out hserves.inFlight
      hserves.causes (by rw [hserves.slot])
  · rw [hserves.slot]
    exact hreturns.slot

/-- With both shares, a RAIL_SAMPLE does not wait for the state that the bleed ends in. -/
theorem Bled.both {i : Slot} {s u : State} {st : SlotState} {mv : Nat} {e : ActEntry} {f : InFlight} {cb : ControlBlock}
    (h : Bled i s u st mv) (hhold : s.holdsEntry i e f cb) (he : e.act = some .railSample) :
    let w := ((u.onEntry i st (s.slot i).cs.attempts).sampleResult i mv).served i
    (w.slot i).cs.state = st
      ∧ s.returned w [] i e f cb (if (s.slot i).ad.cardRemoved then .cardRemoved else .done) st mv := by
  have hunawaited : u.onEntry i st (s.slot i).cs.attempts = u := by
    refine State.onEntry_unawaited _ (by rw [h.keeps.ad]; exact hhold.1) ?_
    rw [ActEntry.awaits, he]
    rfl
  obtain ⟨hreturned, hslot, -⟩ := State.sampleResult_served mv hhold he h.keeps h.tb h.out
  dsimp only
  rw [hunawaited]
  rw [h.state] at hreturned
  refine ⟨?_, hreturned⟩
  rw [hslot]
  exact h.state

end Sys2Proof.Machine
end

section
/-! PROOFS. A reading by the shares present. -/

namespace Sys2Proof.Machine

open Sys2Proof

/-- Settles O30, by the shares and by what the bleed check makes of the reading. -/
theorem readingGoesToTheSharePresent : Obligations.ReadingGoesToTheSharePresent := by
  refine ⟨fun s i rail => ?_, fun s i rail e f cb => ?_, fun s i rail e f cb => ?_⟩ <;> dsimp only <;>
    generalize hmv : (max 0 (min 14000 rail)).toNat = mv
  · intro ha ht hi hb hs hd _
    refine ⟨_, exec_measuring rail ha ht hi, ?_⟩
    rw [hmv, State.handReading_bleed mv hb hs]
    refine ⟨fun h htarget => ?_, fun h htarget => ?_, fun h htarget hacc => ?_, fun h hused => ?_, fun h hused => ?_⟩
    · obtain ⟨u, hu, hbled, hretry, hiq⟩ := State.bleedResult_off h htarget
      obtain ⟨hslot, hqueue, harrived⟩ := hbled.serves hd
      rw [hu, hslot, hqueue, hbled.pru]
      exact ⟨hbled.state, hretry, rfl, rfl, rfl, rfl, hiq, harrived⟩
    · obtain ⟨u, hu, hbled, hkind, hnone, hretry, hqueued⟩ := State.bleedResult_retired h htarget
      obtain ⟨hslot, hqueue, harrived⟩ := hbled.serves hd
      rw [hu, hslot, hqueue, hbled.pru]
      exact ⟨hbled.state, hkind, hnone, hretry, hbled.attempts, rfl, rfl, harrived, hqueued⟩
    · obtain ⟨c, hslot, hretry, hattempts⟩ := State.bleedResult_ramps h htarget hacc
      have hserves := State.served_serves (x := s.bleedResult i mv) (i := i) (by rw [hslot]; exact hd.settled)
      rw [hserves.slot, hslot]
      exact ⟨rfl, hretry, hattempts, rfl, rfl, rfl, rfl, rfl, rfl⟩
    · obtain ⟨hslot, hiq, -⟩ := State.bleedResult_again h hused
      have hserves := State.served_serves (x := s.bleedResult i mv) (i := i) (by rw [hslot]; exact hd.settled)
      rw [hserves.slot, hserves.iq]
      exact ⟨hslot, hiq⟩
    · obtain ⟨u, hu, hbled, hqueued⟩ := State.bleedResult_stuck h hused
      obtain ⟨hslot, hqueue, harrived⟩ := hbled.serves hd
      rw [hu, hslot, hqueue, hbled.pru]
      exact ⟨hbled.state, rfl, rfl, harrived, hqueued⟩
  · intro ha ht hi hs hb hhold he
    obtain ⟨hreturned, hslot, hsample⟩ := State.sampleResult_served mv hhold he (Unreturned.refl i s) rfl rfl
    refine ⟨_, exec_measuring rail ha ht hi, ?_⟩
    rw [hmv, State.handReading_sample mv hs hb]
    exact ⟨hreturned, by rw [hslot], by rw [hslot], hsample⟩
  · intro ha ht hi hs hb hhold he
    refine ⟨_, exec_measuring rail ha ht hi, ?_⟩
    rw [hmv, State.handReading_both mv hs hb]
    refine ⟨fun h htarget => ?_, ?_, fun h hused => ?_⟩
    · obtain ⟨u, hu, hbled, -⟩ := State.bleedResult_off h htarget
      rw [hu]
      exact hbled.both hhold he
    · rintro (⟨h, htarget⟩ | ⟨h, hused⟩)
      · obtain ⟨u, hu, hbled, -⟩ := State.bleedResult_retired h htarget
        rw [hu]
        exact hbled.both hhold he
      · obtain ⟨u, hu, hbled, -⟩ := State.bleedResult_stuck h hused
        rw [hu]
        exact hbled.both hhold he
    · obtain ⟨hagain, -, hri, htb, hout⟩ := State.bleedResult_again h hused
      obtain ⟨hreturned, hslot, -⟩ := State.sampleResult_served mv hhold he ⟨hri, by rw [hagain]⟩ htb hout
      rw [hagain] at hreturned hslot
      rw [hslot]
      exact ⟨rfl, rfl, rfl, hreturned⟩

end Sys2Proof.Machine
end

section
/-! PROOFS. The ends of SETTLE, RECONNECT and BLEED_WAIT. -/

namespace Sys2Proof.Machine

open Sys2Proof

/-! ## SETTLE and RECONNECT (R77, R78) -/

theorem State.modPru_eq (s : State) (i : Slot) (f : PruRec → PruRec) : s.modPru i f
    = (s.setSlot i { s.slot i with pru := f (s.slot i).pru }).drives (signalChanges i (s.slot i).pru (f (s.slot i).pru)) := rfl

theorem State.drives_setSlot (s : State) (i : Slot) (cs : List SignalChange) (r : SlotRec) :
    (s.drives cs).setSlot i r = (s.setSlot i r).drives cs := rfl

theorem State.drives_drives (s : State) (cs ds : List SignalChange) : (s.drives cs).drives ds = s.drives (cs ++ ds) := by
  unfold State.drives
  rw [List.append_assoc]

theorem State.drives_enter (s : State) (i : Slot) (cs : List SignalChange) (st : SlotState) :
    (s.drives cs).enter i st = (s.enter i st).drives cs := rfl

theorem State.setSlot_enter (s : State) (i : Slot) (r : SlotRec) (st : SlotState) :
    (s.setSlot i r).enter i st = s.setSlot i (r.enter st) := by
  rw [State.enter, State.modSlot_eq, State.setSlot_slot_self, State.setSlot_setSlot]

/-- Reset RELEASED and the slot in TRAINING: the one output that can change. -/
theorem State.releaseReset_eq (s : State) (i : Slot) :
    s.releaseReset i = (s.setSlot i { s.slot i with
        pru := { (s.slot i).pru with asserted := false, timer := some (s.slot i).pol.trainTimeout, phase := .training }
        cs := { (s.slot i).cs with state := .training }
        ctf := { (s.slot i).ctf with cls := .hold } }).drives
      (if (s.slot i).pru.asserted then [⟨i, .reset, false⟩] else []) := by
  have hsig : signalChanges i (s.slot i).pru
      { (s.slot i).pru with asserted := false, timer := some (s.slot i).pol.trainTimeout, phase := .training }
      = if (s.slot i).pru.asserted then [⟨i, .reset, false⟩] else [] := by simp [signalChanges]
  rw [← hsig]
  unfold State.releaseReset
  dsimp only
  rw [State.modPru_eq, State.drives_enter, State.setSlot_enter]
  rfl

/-- Isolation CLOSED with no release lag: reset is RELEASED in the same event. -/
theorem State.reconnect_releases {s : State} {i : Slot} (h : (s.slot i).pol.releaseLag = 0) :
    s.reconnect i = (s.setSlot i { s.slot i with
        pru := { (s.slot i).pru with
          isoOpen := false, asserted := false, timer := some (s.slot i).pol.trainTimeout, phase := .training }
        cs := { (s.slot i).cs with state := .training }
        ctf := { (s.slot i).ctf with cls := .hold } }).drives
      ((if (s.slot i).pru.isoOpen then [⟨i, .isolation, false⟩] else [])
        ++ if (s.slot i).pru.asserted then [⟨i, .reset, false⟩] else []) := by
  have hsig : signalChanges i (s.slot i).pru { (s.slot i).pru with isoOpen := false, timer := some 0, phase := .reconnect }
      = if (s.slot i).pru.isoOpen then [⟨i, .isolation, false⟩] else [] := by simp [signalChanges]
  have hrec : s.reconnect i
      = (s.modPru i fun p => { p with isoOpen := false, timer := some 0, phase := .reconnect }).releaseReset i := by
    unfold State.reconnect
    dsimp only
    rw [State.pol, h]
    exact if_pos rfl
  rw [hrec, State.releaseReset_eq, State.modPru_slot_self, State.modPru_eq, hsig, State.drives_setSlot,
    State.setSlot_setSlot, State.drives_drives]
  rfl

theorem exec_settleEnd {s : State} {i : Slot} (hp : (s.slot i).pru.phase = .settle) (ht : (s.slot i).pru.timer = some 0) :
    exec (.settleEnd i) s = .next (s.reconnect i) :=
  congrArg Host.Outcome.next (if_pos (by simp [PruRec.ends, hp, ht]))

theorem exec_reconnectEnd {s : State} {i : Slot} (hp : (s.slot i).pru.phase = .reconnect)
    (ht : (s.slot i).pru.timer = some 0) : exec (.reconnectEnd i) s = .next (s.releaseReset i) :=
  congrArg Host.Outcome.next (if_pos (by simp [PruRec.ends, hp, ht]))

/-- Settles O24: isolation CLOSED with a lag and without, and reset RELEASED. -/
theorem settleAndReconnectEnd : Obligations.SettleAndReconnectEnd := by
  refine ⟨fun s i hphase htimer => ⟨fun hlag => ?_, fun hlag => ?_⟩, fun s i hphase htimer => ?_⟩
  · rw [exec_settleEnd hphase htimer, State.reconnect_lags hlag]
  · rw [exec_settleEnd hphase htimer, State.reconnect_releases hlag, List.append_assoc]
    rfl
  · rw [exec_reconnectEnd hphase htimer, State.releaseReset_eq]
    rfl

/-! ## The bleed share of BLEED_CHECK (R81, R91, R92) -/

theorem RmRec.place_sample_of_bleed (m : RmRec) (i j : Slot) : ((m.place i .bleed).req j).sample = (m.req j).sample := by
  have hset : ∀ q : RailReq, q.sample = (m.req i).sample → ((m.setReq i q).req j).sample = (m.req j).sample := by
    intro q hq
    by_cases hj : j = i
    · rw [hj, RmRec.setReq_self, hq]
    · rw [RmRec.setReq_ne _ _ _ _ hj]
  unfold RmRec.place
  dsimp only
  split
  · rw [RmRec.arbitrate_sample]
    exact hset _ rfl
  · exact hset _ rfl
  · exact hset _ rfl

/-- A share joins the request of its slot: with one there already, or with the converter at work, the converter goes on. -/
theorem RmRec.place_joins {m : RmRec} {i : Slot} (k : Share) (h : (m.req i).state ≠ .none ∨ m.activity ≠ .idle) :
    ∃ q, m.place i k = m.setReq i q := by
  unfold RmRec.place
  dsimp only
  split
  next hnone =>
    have hbusy : m.activity ≠ .idle := h.resolve_left fun hn => hn hnone
    exact ⟨_, if_neg hbusy⟩
  · exact ⟨_, rfl⟩
  · exact ⟨_, rfl⟩

/-- The only pending request is the arbiter's choice. -/
theorem RmRec.choice_of_only {m : RmRec} {i : Slot} (hi : (m.req i).state = .pending)
    (h : ∀ j, j ≠ i → (m.req j).state = .none) : m.choice = some i := by
  have hall : ∀ k j : Slot, j ∈ roundRobin k := by decide
  cases hc : m.choice with
  | none =>
    have hnot := List.find?_eq_none.1 hc i (hall _ i)
    simp [hi] at hnot
  | some j =>
    by_contra hj
    have hp := List.find?_some hc
    have hne : j ≠ i := fun e => hj (by rw [e])
    simp [h j hne] at hp

/-- A share placed with the converter IDLE and no other request begins its service. -/
theorem RmRec.place_serves {m : RmRec} {i : Slot} (k : Share) (ha : m.activity = .idle)
    (h : ∀ j, (m.req j).state = .none) :
    m.place i k = (m.setReq i { (m.req i).setShare k true with state := .pending }).serve i := by
  have hchoice : (m.setReq i { (m.req i).setShare k true with state := .pending }).choice = some i := by
    refine RmRec.choice_of_only (by rw [RmRec.setReq_self]) fun j hj => ?_
    rw [RmRec.setReq_ne _ _ _ _ hj, h j]
  have hidle : (m.setReq i { (m.req i).setShare k true with state := .pending }).activity = .idle := ha
  unfold RmRec.place
  rw [h i]
  dsimp only
  unfold RmRec.arbitrate
  rw [if_pos hidle, hchoice]

/-- The service of a slot: the channel decides whether the converter settles first (R90). -/
theorem RmRec.serve_spec (m : RmRec) (i : Slot) :
    (m.serve i).inService = some i ∧ (m.serve i).lastServed = i ∧ (m.serve i).channel = some i ∧ (m.serve i).timer = 2
      ∧ ((m.serve i).req i).state = .inService
      ∧ (m.serve i).activity = if m.channel = some i then .measuring else .settling := by
  have hreq : ((m.setReq i { m.req i with state := .inService }).req i).state = .inService := by rw [RmRec.setReq_self]
  unfold RmRec.serve
  dsimp only
  split
  next h => exact ⟨rfl, rfl, h, rfl, hreq, rfl⟩
  next h => exact ⟨rfl, rfl, rfl, rfl, hreq, rfl⟩

theorem exec_bleedWaitEnd {s : State} {i : Slot} (hp : (s.slot i).pru.phase = .bleedWait)
    (ht : (s.slot i).pru.timer = some 0) : exec (.bleedWaitEnd i) s
      = .next ((s.modPru i fun p => { p with phase := .bleedCheck, timer := none }).placeShare i .bleed) :=
  congrArg Host.Outcome.next (if_pos (by simp [PruRec.ends, hp, ht]))

/-- Settles O28, by what the placing of a share makes of RM's record. -/
theorem bleedWaitEndPlacesABleedShare : Obligations.BleedWaitEndPlacesABleedShare := by
  intro s i
  dsimp only
  intro hphase htimer
  have hslot : (s.modPru i fun p => { p with phase := .bleedCheck, timer := none }).slot i
      = { s.slot i with pru := { (s.slot i).pru with phase := .bleedCheck, timer := none } } := State.modPru_slot_self _ _ _
  have hbleed : ∀ j, ((s.rm.place i .bleed).req j).bleed = Function.update s.rm.bleeds i true j :=
    congrFun (s.rm.place_bleeds i .bleed)
  refine ⟨_, exec_bleedWaitEnd hphase htimer, hslot, (hbleed i).trans (Function.update_self ..),
    s.rm.place_sample_of_bleed i i, fun j hj => ⟨(hbleed j).trans (Function.update_of_ne hj ..),
      s.rm.place_sample_of_bleed i j⟩, fun hjoins => ?_, fun hidle hnone => ?_⟩
  · obtain ⟨q, hq⟩ := RmRec.place_joins .bleed hjoins
    have hrm : ((s.modPru i fun p => { p with phase := .bleedCheck, timer := none }).placeShare i .bleed).rm
        = s.rm.setReq i q := hq
    rw [hrm]
    exact ⟨rfl, rfl, rfl, rfl, rfl⟩
  · obtain ⟨h1, h2, h3, h4, h5, h6⟩ :=
      (s.rm.setReq i { (s.rm.req i).setShare .bleed true with state := .pending }).serve_spec i
    rw [← RmRec.place_serves .bleed hidle hnone] at h1 h2 h3 h4 h5 h6
    exact ⟨h1, h2, h3, h4, h5, h6⟩

end Sys2Proof.Machine
end

section
/-! PROOFS. The output changes of PRU, one at a time: the levels that a list of changes leads to, and power OFF with reset
ASSERTED and isolation OPEN after each of them. -/

namespace Sys2Proof.Machine

open Sys2Proof

/-! ## The levels of the four outputs (R67, R68) -/

/-- The level of each output. -/
def outputs (isoOpen asserted power bleed : Bool) : Signal → Bool
  | .isolation => isoOpen
  | .reset => asserted
  | .power => power
  | .bleed => bleed

/-- The levels of a record's outputs. -/
def PruRec.level (p : PruRec) : Signal → Bool := outputs p.isoOpen p.asserted p.power p.bleed

/-- Power OFF means reset ASSERTED and isolation OPEN. -/
def Orderly (f : Signal → Bool) : Prop := f .power = false → f .reset = true ∧ f .isolation = true

theorem orderly_outputs {a r w b : Bool} : Orderly (outputs a r w b) ↔ (w = false → r = true ∧ a = true) := Iff.rfl

theorem PruRec.orderly_of_power {p : PruRec} (h : p.power = true) : Orderly p.level := fun hp =>
  absurd (h.symm.trans hp) (by decide)

theorem PruRec.orderly_of_dark {p : PruRec} (h : p.dark) : Orderly p.level := fun _ => h.2

/-- The changes lead to the levels `f` of slot `i`, and its levels are orderly after each of them. -/
structure Follows (l : List SignalChange) (i : Slot) (f : Signal → Bool) : Prop where
  now : levelAfter l i = f
  always : ∀ m, m <+: l → Orderly (levelAfter m i)

theorem Follows.orderly {l : List SignalChange} {i : Slot} {f : Signal → Bool} (h : Follows l i f) : Orderly f :=
  h.now ▸ h.always l List.prefix_rfl

theorem State.signalLaw_iff (s : State) : s.signalLaw ↔ ∀ i, Follows s.signals i (s.slot i).pru.level := by
  refine ⟨fun ⟨hnow, halways⟩ i => ⟨funext fun g => ?_, fun m hm => halways m hm i⟩,
    fun h => ⟨fun i => ?_, fun m hm i => (h i).always m hm⟩⟩
  · obtain ⟨hiso, hreset, hpower, hbleed⟩ := hnow i
    cases g with
    | isolation => exact hiso
    | reset => exact hreset
    | power => exact hpower
    | bleed => exact hbleed
  · rw [(h i).now]
    exact ⟨rfl, rfl, rfl, rfl⟩

/-! ## One change more -/

theorem levelAfter_concat (l : List SignalChange) (i : Slot) (g : Signal) (v : Bool) :
    levelAfter (l ++ [⟨i, g, v⟩]) i = Function.update (levelAfter l i) g v := by
  funext h
  unfold levelAfter
  rw [List.foldl_append]
  by_cases hg : h = g
  · simp [hg]
  · simp [hg, Ne.symm hg]

theorem levelAfter_concat_other (l : List SignalChange) {i : Slot} {c : SignalChange} (h : c.slot ≠ i) :
    levelAfter (l ++ [c]) i = levelAfter l i := by
  funext g
  unfold levelAfter
  rw [List.foldl_append]
  simp [h]

theorem Follows.concat {l : List SignalChange} {i : Slot} {f g : Signal → Bool} (h : Follows l i f) {c : SignalChange}
    (hc : levelAfter (l ++ [c]) i = g) (hg : Orderly g) : Follows (l ++ [c]) i g := by
  refine ⟨hc, fun m hm => ?_⟩
  rcases List.prefix_concat_iff.1 hm with rfl | hm
  · exact hc.symm ▸ hg
  · exact h.always m hm

/-- The changes of another slot. -/
theorem Follows.others {i : Slot} {f : Signal → Bool} (cs : List SignalChange) (hcs : ∀ c ∈ cs, c.slot ≠ i)
    {l : List SignalChange} (h : Follows l i f) : Follows (l ++ cs) i f := by
  induction cs generalizing l with
  | nil => rwa [List.append_nil]
  | cons c cs ih =>
    rw [List.append_cons]
    refine ih (fun d hd => hcs d (List.mem_cons_of_mem _ hd)) (h.concat ?_ h.orderly)
    rw [levelAfter_concat_other l (hcs c List.mem_cons_self), h.now]

/-- An output changes, if it does not have its new level already. -/
theorem Follows.change {l : List SignalChange} {i : Slot} {f : Signal → Bool} (h : Follows l i f) (g : Signal) (b v : Bool)
    {f' : Signal → Bool} (hf : f' = if b then Function.update f g v else f) (ho : Orderly f') :
    Follows (l ++ if b then [⟨i, g, v⟩] else []) i f' := by
  cases b with
  | false =>
    obtain rfl : f' = f := hf
    simpa using h
  | true => exact h.concat (by rw [levelAfter_concat, h.now, hf]; rfl) ho

/-! ## The changes of one update (R68) -/

theorem update_isolation (a r p b v : Bool) : Function.update (outputs a r p b) .isolation v = outputs v r p b := by
  funext g
  cases g <;> rfl

theorem update_reset (a r p b v : Bool) : Function.update (outputs a r p b) .reset v = outputs a v p b := by
  funext g
  cases g <;> rfl

theorem update_power (a r p b v : Bool) : Function.update (outputs a r p b) .power v = outputs a r v b := by
  funext g
  cases g <;> rfl

theorem update_bleed (a r p b v : Bool) : Function.update (outputs a r p b) .bleed v = outputs a r p v := by
  funext g
  cases g <;> rfl

/-- On the way down isolation opens and reset is asserted before power goes OFF; on the way up power is ON before isolation
closes and reset is released. -/
theorem Follows.drive {l : List SignalChange} {i : Slot} {p q : PruRec} (h : Follows l i p.level) (hq : Orderly q.level) :
    Follows (l ++ signalChanges i p q) i q.level := by
  unfold PruRec.level at h hq ⊢
  unfold signalChanges
  generalize p.isoOpen = a, p.asserted = r, p.power = w, p.bleed = b at h ⊢
  generalize q.isoOpen = a', q.asserted = r', q.power = w', q.bleed = b' at hq ⊢
  have hp := orderly_outputs.1 h.orderly
  have hq := orderly_outputs.1 hq
  have both : (w && w') = false → (r || r') = true ∧ (a || a') = true := fun e => by
    rcases Bool.and_eq_false_iff.1 e with e | e
    · simp [hp e]
    · simp [hq e]
  have opened := h.change .isolation (!a && a') true (f' := outputs (a || a') r w b)
    (by rw [update_isolation]; cases a <;> cases a' <;> rfl) (orderly_outputs.2 fun e => by simp [hp e])
  have asserted := opened.change .reset (!r && r') true (f' := outputs (a || a') (r || r') w b)
    (by rw [update_reset]; cases r <;> cases r' <;> rfl) (orderly_outputs.2 fun e => by simp [hp e])
  have powerOff := asserted.change .power (w && !w') false (f' := outputs (a || a') (r || r') (w && w') b)
    (by rw [update_power]; cases w <;> cases w' <;> rfl) (orderly_outputs.2 both)
  have bleedOn := powerOff.change .bleed (!b && b') true (f' := outputs (a || a') (r || r') (w && w') (b || b'))
    (by rw [update_bleed]; cases b <;> cases b' <;> rfl) (orderly_outputs.2 both)
  have bleedOff := bleedOn.change .bleed (b && !b') false (f' := outputs (a || a') (r || r') (w && w') b')
    (by rw [update_bleed]; cases b <;> cases b' <;> rfl) (orderly_outputs.2 both)
  have powerOn := bleedOff.change .power (!w && w') true (f' := outputs (a || a') (r || r') w' b')
    (by rw [update_power]; cases w <;> cases w' <;> rfl) (orderly_outputs.2 fun e => by simp [hq e])
  have closed := powerOn.change .isolation (a && !a') false (f' := outputs a' (r || r') w' b')
    (by rw [update_isolation]; cases a <;> cases a' <;> rfl) (orderly_outputs.2 fun e => by simp [hq e])
  have released := closed.change .reset (r && !r') false (f' := outputs a' r' w' b')
    (by rw [update_reset]; cases r <;> cases r' <;> rfl) (orderly_outputs.2 hq)
  simpa only [List.append_assoc] using released

end Sys2Proof.Machine
end

section
/-! PROOFS. The law of the output changes through the operations that never take an output up while power is OFF: what they
do to the log, whatever the state they start in. -/

namespace Sys2Proof.Machine

open Sys2Proof

/-! ## Operations that keep the law -/

/-- From `s` to `t` the law of the output changes is kept. -/
def Tells (s t : State) : Prop := s.signalLaw → t.signalLaw

theorem Tells.refl (s : State) : Tells s s := id

theorem Tells.trans {s t u : State} (h : Tells s t) (k : Tells t u) : Tells s u := fun hs => k (h hs)

theorem Tells.foldl {α : Type} {f : State → α → State} (h : ∀ t a, Tells t (f t a)) (l : List α) (s : State) :
    Tells s (l.foldl f s) := by
  induction l generalizing s with
  | nil => exact Tells.refl s
  | cons a l ih => exact (h s a).trans (ih _)

/-- No output and no level has changed. -/
theorem Tells.of_levels {s t : State} (hsig : t.signals = s.signals)
    (hl : ∀ i, (t.slot i).pru.level = (s.slot i).pru.level) : Tells s t := fun h => by
  rw [State.signalLaw_iff] at h ⊢
  intro i
  rw [hsig, hl i]
  exact h i

/-- The records and the log are the same. -/
theorem Tells.same {s t : State} (hslots : t.slots = s.slots) (hsig : t.signals = s.signals) : Tells s t :=
  .of_levels hsig fun i => by rw [State.slot, hslots]; rfl

/-- Only slot `i` has changed, and neither its levels nor the log. -/
theorem Within.tells {i : Slot} {s t : State} (h : Within i s t) (hl : (t.slot i).pru.level = (s.slot i).pru.level)
    (hsig : t.signals = s.signals) : Tells s t := .of_levels hsig fun j => by
  by_cases hj : j = i
  · rw [hj, hl]
  · rw [h.others j hj]

theorem Returns.tells {i : Slot} {s t : State} (h : Returns i s t) (ho : Only i s t) : Tells s t :=
  ho.tells (by rw [h.slot]) h.signals

theorem State.setSlot_tells (s : State) (i : Slot) (r : SlotRec) (h : r.pru.level = (s.slot i).pru.level) :
    Tells s (s.setSlot i r) := (Within.setSlot s i r).tells (by rw [State.setSlot_slot_self, h]) rfl

theorem State.modSlot_tells (s : State) (i : Slot) (f : SlotRec → SlotRec)
    (h : (f (s.slot i)).pru.level = (s.slot i).pru.level) : Tells s (s.modSlot i f) := s.setSlot_tells i _ h

theorem State.enter_tells (s : State) (i : Slot) (st : SlotState) : Tells s (s.enter i st) := s.modSlot_tells i _ rfl

theorem State.modCs_tells (s : State) (i : Slot) (f : CsRec → CsRec) : Tells s (s.modCs i f) := s.modSlot_tells i _ rfl

theorem State.modHm_tells (s : State) (i : Slot) (f : HmRec → HmRec) : Tells s (s.modHm i f) := s.modSlot_tells i _ rfl

theorem State.modSense_tells (s : State) (i : Slot) (f : SenseRec → SenseRec) : Tells s (s.modSense i f) :=
  s.modSlot_tells i _ rfl

theorem State.setAd_tells (s : State) (i : Slot) (a : AdRec) : Tells s (s.setAd i a) := s.modSlot_tells i _ rfl

theorem State.setTrigger_tells (s : State) (i : Slot) (t : Trigger) : Tells s (s.setTrigger i t) := s.modSlot_tells i _ rfl

theorem State.setEntry_tells (s : State) (i : Slot) (k : Tag) (e : OrtEntry) : Tells s (s.setEntry i k e) :=
  s.modSlot_tells i _ rfl

theorem State.raise_tells (s : State) (i : Slot) (k : IncKind) (a b : Nat) (d : BitVec 64) : Tells s (s.raise i k a b d) :=
  .same rfl rfl

theorem Tells.emits {s t : State} (h : Tells s t) (os : List Output) : Tells s (t.emits os) := h.trans (.same rfl rfl)

/-- PRU drives what its update changes; the new levels are orderly if the old ones were. -/
theorem State.modPru_tells (s : State) (i : Slot) (f : PruRec → PruRec)
    (h : Orderly (s.slot i).pru.level → Orderly (f (s.slot i).pru).level) : Tells s (s.modPru i f) := fun hs => by
  rw [State.signalLaw_iff] at hs ⊢
  intro j
  rw [State.modPru_signals]
  by_cases hj : j = i
  · subst hj
    rw [State.modPru_slot_self]
    exact (hs j).drive (h (hs j).orderly)
  · rw [State.modPru_slot_ne _ _ _ _ hj]
    exact (hs j).others _ fun c hc => by rw [signalChanges_slot hc]; exact Ne.symm hj

/-! ## Returns, promotion and TT's work -/

theorem State.align_tells (s : State) : Tells s s.align := .same s.align_ring.slots s.align_signals

theorem State.giveBack_tells (s : State) (i : Slot) (e : ActEntry) (o : ActOutcome) (n : Nat) :
    Tells s (s.giveBack i e o n) := (s.giveBack_returns i e o n).tells (s.giveBack_only i e o n)

theorem State.skipAll_tells (s : State) (i : Slot) (es : List ActEntry) : Tells s (s.skipAll i es) :=
  (s.skipAll_returnsOnly i es).tells (s.skipAll_only i es)

theorem State.endEntry_tells (s : State) (i : Slot) (o : ActOutcome) (n : Nat) : Tells s (s.endEntry i o n) :=
  (s.endEntry_returns i o n).tells (s.endEntry_only i o n)

theorem State.onEntry_tells (s : State) (i : Slot) (st : SlotState) (n : Nat) : Tells s (s.onEntry i st n) :=
  (s.onEntry_returns i st n).tells (s.onEntry_only i st n)

theorem State.loseCard_tells (s : State) (i : Slot) : Tells s (s.loseCard i) :=
  (s.loseCard_returns i).tells (s.loseCard_only i)

theorem State.promote_tells (s : State) (i : Slot) : Tells s (s.promote i) := by
  obtain ⟨-, t, ht⟩ := promoteLoop_path i false 0 (s.slot i).tt.hold.length (s.slot i)
  exact (s.setSlot_tells i (promoteLoop i (s.slot i).tt.hold.length (s.slot i)).1 (by rw [ht]; rfl)).emits _

theorem State.fenceWork_tells (s : State) (i : Slot) : Tells s (s.fenceWork i) :=
  (s.setSlot_tells i (s.slot i).fenceWork rfl).emits _

theorem State.resetAssertion_tells (s : State) (i : Slot) : Tells s (s.resetAssertion i) :=
  (s.setSlot_tells i (s.slot i).resetReported rfl).emits _

theorem State.presenceWork_tells (s : State) (i : Slot) : Tells s (s.presenceWork i) :=
  (s.setSlot_tells i ((s.slot i).setTt (s.slot i).tt.cutOff) rfl).emits _

/-! ## SE's operations -/

theorem State.seNext_tells (s : State) : Tells s s.seNext := by
  unfold State.seNext
  split <;> exact .same rfl rfl

theorem State.seRequest_tells (s : State) (op : SeOp) : Tells s (s.seRequest op) := by
  unfold State.seRequest
  split <;> exact .same rfl rfl

theorem State.seDrop_tells (s : State) (i : Slot) : Tells s (s.seDrop i) :=
  .same (s.seDrop_slots i).1 (s.seDrop_rest i).2

theorem State.cancelOp_tells (s : State) (i : Slot) : Tells s (s.cancelOp i) :=
  (s.cancelOp_only i).tells (by rw [State.cancelOp_slot]) (s.cancelOp_rest i).2

/-! ## Power-off and power-up (R48, R51, R74, R80) -/

theorem State.powerOffNow_tells (s : State) (i : Slot) : Tells s (s.powerOffNow i) :=
  (s.modPru_tells i (fun p => p.powerOff (s.pol i).bleedWait) fun _ => PruRec.orderly_of_dark ⟨rfl, rfl, rfl⟩).trans
    ((State.resetAssertion_tells _ i).trans (State.enter_tells _ i _))

theorem State.shutdown_tells (s : State) (i : Slot) : Tells s (s.shutdown i) :=
  (s.modPru_tells i (fun p => { p with sequence := .shutdown }) id).trans (State.powerOffNow_tells _ i)

theorem State.failAttempt_tells (s : State) (i : Slot) (c n : Nat) : Tells s (s.failAttempt i c n) :=
  (s.raise_tells i _ _ _ _).trans
    ((State.modCs_tells _ i _).trans ((State.cancelOp_tells _ i).trans (State.shutdown_tells _ i)))

theorem State.rampFault_tells (s : State) (i : Slot) (k : RailFault) : Tells s (s.rampFault i k) :=
  (s.raise_tells i _ _ _ _).trans (State.failAttempt_tells _ i _ _)

theorem State.powerUp_tells (s : State) (i : Slot) : Tells s (s.powerUp i) := by
  have hramp : Tells s ((s.enter i .powering).modPru i PruRec.enterRamp) :=
    (s.enter_tells i _).trans (State.modPru_tells _ i _ fun _ => PruRec.orderly_of_power rfl)
  unfold State.powerUp
  dsimp only
  split
  · exact hramp.trans (State.rampFault_tells _ i _)
  · exact hramp

theorem State.bringUp_tells (s : State) (i : Slot) (b : Bool) : Tells s (s.bringUp i b) :=
  (s.modCs_tells i _).trans (State.powerUp_tells _ i)

theorem State.recoverRetired_tells (s : State) (i : Slot) (t : Trigger) : Tells s (s.recoverRetired i t) :=
  (s.modCs_tells i _).trans (State.powerUp_tells _ i)

theorem State.recoverCold_tells (s : State) (i : Slot) : Tells s (s.recoverCold i) :=
  (s.modCs_tells i _).trans (State.shutdown_tells _ i)

theorem State.powerDown_tells (s : State) (i : Slot) (g : Target) (t : Trigger) : Tells s (s.powerDown i g t) := by
  unfold State.powerDown
  split
  case h_10 => exact s.modCs_tells i _
  case h_11 => exact Tells.refl s
  all_goals exact (s.modCs_tells i _).trans ((State.cancelOp_tells _ i).trans (State.shutdown_tells _ i))

/-! ## Arrivals (R50, R52, R55, R57 to R59) -/

theorem State.enterIsolated_tells (s : State) (i : Slot) : Tells s (s.enterIsolated i) :=
  (s.enter_tells i _).trans
    ((State.modCs_tells _ i _).trans ((State.raise_tells _ i _ _ _ _).trans (State.onEntry_tells _ i _ _)))

theorem State.enterRetired_tells (s : State) (i : Slot) (n : Nat) : Tells s (s.enterRetired i n) :=
  (s.enter_tells i _).trans ((State.raise_tells _ i _ _ _ _).trans (State.modCs_tells _ i _))

theorem State.retireFromBleed_tells (s : State) (i : Slot) : Tells s (s.retireFromBleed i) :=
  (s.enterRetired_tells i _).trans (State.onEntry_tells _ i _ _)

theorem State.bleedEnd_tells (s : State) (i : Slot) : Tells s (s.bleedEnd i) := by
  unfold State.bleedEnd
  dsimp only
  split
  · exact s.retireFromBleed_tells i
  · exact (s.enter_tells i _).trans ((State.modCs_tells _ i _).trans (State.onEntry_tells _ i _ _))
  · split
    · exact (s.modCs_tells i _).trans (State.powerUp_tells _ i)
    · exact s.powerUp_tells i

theorem State.enterHeld_tells (s : State) (i : Slot) : Tells s (s.enterHeld i) :=
  (s.enter_tells i _).trans (State.modSlot_tells _ i _ rfl)

theorem State.sendHoldover_tells (s : State) (i : Slot) : Tells s (s.sendHoldover i) := by
  unfold State.sendHoldover
  dsimp only
  split
  · exact (s.modSlot_tells i _ rfl).emits _
  · exact s.modSlot_tells i _ rfl

theorem State.enterProbation_tells (s : State) (i : Slot) : Tells s (s.enterProbation i) :=
  (s.enter_tells i _).trans ((State.modCs_tells _ i _).trans ((State.modSlot_tells _ i _ rfl).trans
    ((State.promote_tells _ i).trans ((State.sendHoldover_tells _ i).trans (State.onEntry_tells _ i _ _)))))

theorem State.probationEnd_tells (s : State) (i : Slot) : Tells s (s.probationEnd i) :=
  (s.enter_tells i _).trans ((State.modSlot_tells _ i _ rfl).trans ((State.raise_tells _ i _ _ _ _).trans
    ((State.modCs_tells _ i _).trans ((State.promote_tells _ i).trans (State.onEntry_tells _ i _ _)))))

theorem State.countSuccess_tells (s : State) (i : Slot) : Tells s (s.countSuccess i) := by
  unfold State.countSuccess
  dsimp only
  split
  · split
    · exact (s.modCs_tells i _).trans (State.probationEnd_tells _ i)
    · exact s.modCs_tells i _
  · exact Tells.refl s

/-! ## Health, before the thresholds (R28 to R33) -/

theorem State.noteExpiry_tells (s : State) (i : Slot) (e : ScoreEvent) : Tells s (s.noteExpiry i e) := by
  unfold State.noteExpiry
  split
  · split
    · exact Tells.refl s
    · exact (s.raise_tells i _ _ _ _).trans (State.modHm_tells _ i _)
  · exact Tells.refl s

theorem State.alignWatch_tells (s : State) (i : Slot) : Tells s (s.alignWatch i) := by
  unfold State.alignWatch
  split
  · exact Tells.refl s
  · dsimp only
    split
    · exact Tells.refl s
    · split
      · exact (s.modHm_tells i _).trans (State.raise_tells _ i _ _ _ _)
      · exact (s.modHm_tells i _).trans (State.promote_tells _ i)

theorem State.alignAlert_tells (s : State) (i : Slot) : Tells s (s.alignAlert i) := by
  unfold State.alignAlert
  split
  · exact Tells.refl s
  · split
    · exact s.modHm_tells i _
    · exact Tells.refl s

/-! ## Host requests and completions -/

theorem State.dispose_tells (s : State) (i : Slot) (r : HostRequest) : Tells s (s.dispose i r) := by
  have htrack : ∀ q n, ((s.slot i).track i q n).1.pru.level = (s.slot i).pru.level := fun q n => by
    unfold SlotRec.track
    dsimp only
    split
    · rfl
    · split <;> rfl
  unfold State.dispose
  cases r with
  | nonPosted q =>
    dsimp only
    split
    · exact (s.setSlot_tells i _ (htrack _ _)).emits _
    · exact .same rfl rfl
    · exact .same rfl rfl
  | posted p =>
    dsimp only
    split
    · exact .same rfl rfl
    · exact s.modSlot_tells i _ rfl

theorem State.hostRequest_tells (s : State) (r : HostRequest) : Tells s (s.hostRequest r) := by
  unfold State.hostRequest
  split
  · exact s.dispose_tells _ r
  · split <;> exact .same rfl rfl

theorem State.hostCompletion_tells (s : State) (c : HostCpl) : Tells s (s.hostCompletion c) := by
  unfold State.hostCompletion
  split
  · exact Tells.refl s
  · split <;> exact .same rfl rfl

theorem State.heldExpiry_tells (s : State) (i : Slot) (q : Requester) : Tells s (s.heldExpiry i q) := by
  unfold State.heldExpiry
  split
  · split
    · exact (s.modSlot_tells i _ rfl).emits _
    · exact Tells.refl s
  · exact Tells.refl s

end Sys2Proof.Machine
end

section
/-! PROOFS. The law of the output changes through SE's work, the actions that power a slot up or down, presence, power-good, the
link reports, the bleed and RI's work. -/

namespace Sys2Proof.Machine

open Sys2Proof

/-! ## The ends of an operation and its card accesses (R104, R106) -/

theorem State.endSnapshot_tells (s : State) (i : Slot) (o : ActOutcome) (n : Nat) : Tells s (s.endSnapshot i o n) := by
  unfold State.endSnapshot
  split
  · exact s.endEntry_tells i o n
  · exact Tells.refl s

theorem State.seClear_tells (s : State) : Tells s s.seClear := .same rfl rfl

theorem State.snapshotEnds_tells (s : State) (i : Slot) (o : ActOutcome) (n : Nat) : Tells s (s.snapshotEnds i o n) :=
  s.seClear_tells.trans ((State.endSnapshot_tells _ i o n).trans (State.seNext_tells _))

theorem State.restoreUnusable_tells (s : State) (i : Slot) (n : Nat) : Tells s (s.restoreUnusable i n) :=
  s.seClear_tells.trans ((State.enterHeld_tells _ i).trans ((State.raise_tells _ i _ _ _ _).trans
    ((State.onEntry_tells _ i _ _).trans (State.seNext_tells _))))

theorem State.restoreDone_tells (s : State) (i : Slot) : Tells s (s.restoreDone i) :=
  s.seClear_tells.trans ((State.enterProbation_tells _ i).trans (State.seNext_tells _))

theorem State.accessFailed_tells (s : State) (i : Slot) (k : OpKind) (c : Nat) : Tells s (s.accessFailed i k c) := by
  cases k with
  | snapshot => exact s.snapshotEnds_tells i _ _
  | restore => exact s.seClear_tells.trans ((State.failAttempt_tells _ i _ _).trans (State.seNext_tells _))

theorem State.offer_tells (s : State) (i : Slot) (k : OpKind) (w : Option Dword) : Tells s (s.offer i k w) := by
  unfold State.offer
  dsimp only
  split
  · exact (s.setEntry_tells i _ _).trans (.same rfl rfl)
  · exact s.accessFailed_tells i k 4

/-- SE's record is written anew, and the access of its position is offered. -/
theorem State.offerAt_tells (s : State) (e : SeRec) (i : Slot) (k : OpKind) (w : Option Dword) :
    Tells s (({ s with se := e } : State).offer i k w) :=
  Tells.trans (t := { s with se := e }) (.same rfl rfl) (State.offer_tells _ i k w)

theorem State.seWrite_tells (s : State) (a : Addr) (b : List Byte) : Tells s (s.seWrite a b) := .same rfl rfl

theorem State.snapshotDone_tells (s : State) (i : Slot) : Tells s (s.snapshotDone i) :=
  (s.seWrite_tells _ _).trans (State.snapshotEnds_tells _ i _ _)

theorem State.copyDword_tells (s : State) (i : Slot) (d : Dword) : Tells s (s.copyDword i d) := by
  unfold State.copyDword
  dsimp only
  split
  · exact (s.seWrite_tells _ _).trans (State.offerAt_tells _ _ i _ _)
  · exact (s.seWrite_tells _ _).trans (State.snapshotDone_tells _ i)

theorem State.nextWrite_tells (s : State) (i : Slot) : Tells s (s.nextWrite i) := by
  unfold State.nextWrite
  split
  · exact s.offerAt_tells _ i _ _
  · exact s.restoreDone_tells i

theorem State.accessSucceeded_tells (s : State) (i : Slot) (k : OpKind) (d : Dword) :
    Tells s (s.accessSucceeded i k d) := by
  unfold State.accessSucceeded
  split
  · exact s.copyDword_tells i d
  · split
    · exact s.offerAt_tells _ i _ _
    · exact s.nextWrite_tells i
  · split
    · exact s.nextWrite_tells i
    · exact s.accessFailed_tells i _ _
  · exact Tells.refl s

theorem State.accessResult_tells (s : State) (i : Slot) (res : AccessResult) : Tells s (s.accessResult i res) := by
  unfold State.accessResult
  split
  · exact Tells.refl s
  · split
    · split
      · exact s.accessSucceeded_tells i _ _
      · exact s.accessFailed_tells i _ _
      · exact s.accessFailed_tells i _ _
    · exact Tells.refl s

/-! ## Host memory reads (R103, R107, R111) -/

theorem State.seReadError_tells (s : State) (op : SeOp) : Tells s (s.seReadError op) := by
  unfold State.seReadError
  split
  · exact s.snapshotEnds_tells _ _ _
  · exact s.restoreUnusable_tells _ _

theorem State.mapInvalid_tells (s : State) (op : SeOp) : Tells s (s.mapInvalid op) := by
  unfold State.mapInvalid
  split
  · exact s.snapshotEnds_tells _ _ _
  · exact s.restoreUnusable_tells _ _

theorem State.headerRead_tells (s : State) (op : SeOp) (b : List Byte) : Tells s (s.headerRead op b) := by
  unfold State.headerRead
  dsimp only
  split
  · exact .same rfl rfl
  · split
    · exact .same rfl rfl
    · exact s.restoreUnusable_tells _ _

theorem State.mapHeadRead_tells (s : State) (op : SeOp) (b : List Byte) : Tells s (s.mapHeadRead op b) := by
  unfold State.mapHeadRead
  split
  · exact .same rfl rfl
  · exact s.mapInvalid_tells op

theorem State.copyBegin_tells (s : State) (i : Slot) : Tells s (s.copyBegin i) :=
  (s.seWrite_tells _ _).trans (State.offerAt_tells _ _ i _ _)

theorem State.mapEntriesRead_tells (s : State) (op : SeOp) (b : List Byte) (n : Nat) :
    Tells s (s.mapEntriesRead op b n) := by
  unfold State.mapEntriesRead
  split
  · exact s.mapInvalid_tells op
  next m hm =>
    have hmap : Tells s { s with se := { s.se with map := m } } := .same rfl rfl
    dsimp only
    split
    · exact hmap.trans (State.copyBegin_tells _ _)
    · split
      · exact .same rfl rfl
      · exact hmap.trans (State.restoreUnusable_tells _ _ _)

theorem State.writeBackBegin_tells (s : State) (i : Slot) (b : List Byte) : Tells s (s.writeBackBegin i b) := by
  unfold State.writeBackBegin
  dsimp only
  split
  · exact s.offerAt_tells _ i _ _
  · exact Tells.trans (t := { s with se := { s.se with staging := _, waiting := .nothing } }) (.same rfl rfl)
      (State.restoreDone_tells _ i)

theorem State.shadowRead_tells (s : State) (id : Nat) (res : ReadResult) : Tells s (s.shadowRead id res) := by
  unfold State.shadowRead
  split
  next op r what hop hw =>
    split
    · split
      · exact s.seReadError_tells op
      · cases what with
        | header => exact s.headerRead_tells op _
        | mapHead => exact s.mapHeadRead_tells op _
        | mapEntries c => exact s.mapEntriesRead_tells op _ _
        | data =>
          dsimp only
          split
          · exact s.writeBackBegin_tells _ _
          · exact Tells.refl s
    · exact Tells.refl s
  · exact Tells.refl s

theorem State.shadowReadLate_tells (s : State) : Tells s s.shadowReadLate := by
  unfold State.shadowReadLate
  split
  · split
    · exact s.seReadError_tells _
    · exact Tells.refl s
  · exact Tells.refl s

/-! ## Actions that do not fence (R148 to R160) -/

theorem State.startPowerOff_tells (s : State) (i : Slot) : Tells s (s.startPowerOff i) := by
  unfold State.startPowerOff
  split
  · exact s.endEntry_tells i _ _
  · exact s.endEntry_tells i _ _
  · exact s.powerDown_tells i _ _

theorem State.startRetire_tells (s : State) (i : Slot) : Tells s (s.startRetire i) := by
  unfold State.startRetire
  split
  · exact (s.setTrigger_tells i _).trans ((State.enterRetired_tells _ i _).trans (State.endEntry_tells _ i _ _))
  · exact s.endEntry_tells i _ _
  · exact s.powerDown_tells i _ _

theorem State.startAdmit_tells (s : State) (i : Slot) : Tells s (s.startAdmit i) :=
  (s.enterProbation_tells i).trans (State.endEntry_tells _ i _ _)

theorem State.startRelease_tells (s : State) (i : Slot) : Tells s (s.startRelease i) :=
  (s.probationEnd_tells i).trans (State.endEntry_tells _ i _ _)

theorem State.startLoadPolicy_tells (s : State) (i : Slot) : Tells s (s.startLoadPolicy i) := by
  unfold State.startLoadPolicy
  split
  · exact (s.setAd_tells i _).trans (.same rfl rfl)
  · exact Tells.refl s

theorem State.setRm_tells (s : State) (m : RmRec) : Tells s (s.setRm m) := .same rfl rfl

theorem State.overtake_tells (s : State) (i : Slot) : Tells s (s.overtake i) := by
  have hdrop : Tells s (if (s.slot i).ad.runs .snapshot then s.seDrop i else s) := by
    split
    · exact s.seDrop_tells i
    · exact Tells.refl s
  have hshare : ∀ t : State, Tells t (if (s.slot i).ad.runs .railSample then t.withdrawShare i .sample else t) :=
      fun t => by
    split
    · exact t.setRm_tells _
    · exact Tells.refl t
  exact hdrop.trans ((hshare _).trans (State.endEntry_tells _ i _ _))

theorem State.overtakeByPress_tells (s : State) (i : Slot) : Tells s (s.overtakeByPress i) := by
  unfold State.overtakeByPress
  dsimp only
  split
  · exact (s.skipAll_tells i _).trans (State.setAd_tells _ i _)
  · exact s.overtake_tells i

/-! ## Presence and long presses (R62, R63, R65) -/

theorem State.emptyHeader_tells (s : State) (i : Slot) : Tells s (s.emptyHeader i) := by
  unfold State.emptyHeader
  split
  · exact s.seWrite_tells _ _
  · exact Tells.refl s

theorem State.presenceLost_tells (s : State) (i : Slot) : Tells s (s.presenceLost i) := by
  unfold State.presenceLost
  split
  · exact Tells.refl s
  · exact (s.presenceWork_tells i).trans ((State.seDrop_tells _ i).trans ((State.emptyHeader_tells _ i).trans
      ((State.modPru_tells _ i _ fun _ => PruRec.orderly_of_dark ⟨rfl, rfl, rfl⟩).trans
      ((State.resetAssertion_tells _ i).trans ((State.setRm_tells _ _).trans ((State.enter_tells _ i _).trans ((State.modCs_tells _ i _).trans
      ((State.loseCard_tells _ i).trans (State.raise_tells _ i _ _ _ _)))))))))

theorem State.presenceGained_tells (s : State) (i : Slot) : Tells s (s.presenceGained i) := by
  have hgain : Tells s (((((s.enter i .off).modCs i fun c => { c with attempts := 0, trigger := .none }).modSlot i
      SlotRec.clearScore).modPru i fun p => { p with bleed := false }).raise i .presenceOn) :=
    (s.enter_tells i _).trans ((State.modCs_tells _ i _).trans ((State.modSlot_tells _ i _ rfl).trans
      ((State.modPru_tells _ i _ id).trans (State.raise_tells _ i _ _ _ _))))
  unfold State.presenceGained
  split
  · dsimp only
    split
    · split
      · exact hgain.trans (State.bringUp_tells _ i _)
      · exact hgain
    · exact hgain
  · exact Tells.refl s

theorem State.presenceSample_tells (s : State) (i : Slot) (raw : Bool) : Tells s (s.presenceSample i raw) := by
  unfold State.presenceSample
  dsimp only
  split
  · split
    · exact (s.modSense_tells i _).trans (State.presenceGained_tells _ i)
    · exact (s.modSense_tells i _).trans (State.presenceLost_tells _ i)
  · exact s.modSense_tells i _

theorem State.pressActs_tells (s : State) (i : Slot) : Tells s (s.pressActs i) := by
  unfold State.pressActs
  split
  · exact Tells.refl s
  · exact (s.setTrigger_tells i _).trans (State.bringUp_tells _ i _)
  · exact s.recoverRetired_tells i _
  · exact (s.setTrigger_tells i _).trans (State.powerDown_tells _ i _ _)
  · exact s.powerDown_tells i _ _

theorem State.longPress_tells (s : State) (i : Slot) (n : Nat) : Tells s (s.longPress i n) := by
  unfold State.longPress
  dsimp only
  split
  · exact (s.raise_tells i _ _ _ _).trans ((State.overtakeByPress_tells _ i).trans (State.pressActs_tells _ i))
  · exact s.raise_tells i _ _ _ _

theorem State.pressSample_tells (s : State) (i : Slot) : Tells s (s.pressSample i) := by
  unfold State.pressSample
  dsimp only
  split
  · exact (s.modSense_tells i _).trans (State.longPress_tells _ i _)
  · exact s.modSense_tells i _

/-! ## Power-good and the link (R55, R61, R73, R75) -/

theorem State.powerLostOutcome_tells (s : State) (i : Slot) : Tells s (s.powerLostOutcome i) := by
  unfold State.powerLostOutcome
  split
  case h_7 | h_8 | h_9 => exact (s.modCs_tells i _).trans (State.shutdown_tells _ i)
  case h_10 | h_11 | h_12 | h_13 => exact Tells.refl s
  all_goals exact s.failAttempt_tells i _ _

theorem State.powerLost_tells (s : State) (i : Slot) : Tells s (s.powerLost i) := by
  have hnote : Tells s ((s.raise i .powerLost).setTrigger i .powerLost) :=
    (s.raise_tells i _ _ _ _).trans (State.setTrigger_tells _ i _)
  unfold State.powerLost
  dsimp only
  split
  case h_1 | h_2 | h_3 | h_4 => exact Tells.refl s
  case h_5 | h_6 | h_7 =>
    exact hnote.trans ((State.fenceWork_tells _ i).trans ((State.modSlot_tells _ i _ rfl).trans
      ((State.cancelOp_tells _ i).trans (State.powerLostOutcome_tells _ i))))
  all_goals exact hnote.trans ((State.cancelOp_tells _ i).trans (State.powerLostOutcome_tells _ i))

theorem State.rampEnds_tells (s : State) (i : Slot) (b : Bool) : Tells s (s.rampEnds i b) := by
  unfold State.rampEnds
  dsimp only
  split
  · exact s.rampFault_tells i _
  · generalize (if b = true then (s.slot i).pru.rampCount - 1 else (s.slot i).pru.rampCount) = n
    have hcount : Tells s (s.modPru i fun q => { q with rampCount := n, rampDue := false }) := s.modPru_tells i _ id
    split
    · exact hcount.trans (State.rampFault_tells _ i _)
    · exact hcount.trans (State.modPru_tells _ i _ id)

theorem State.powerGood_tells (s : State) (i : Slot) (b c : Bool) : Tells s (s.powerGood i b c) := by
  unfold State.powerGood
  dsimp only
  split
  · exact Tells.refl s
  · split
    · exact s.rampEnds_tells i c
    · exact s.modPru_tells i _ id
  · exact Tells.refl s
  · exact Tells.refl s
  · exact (s.modPru_tells i _ id).trans (State.powerLost_tells _ i)

theorem State.powerGoodSample_tells (s : State) (p : TickPins) (i : Slot) : Tells s (s.powerGoodSample p i) := by
  unfold State.powerGoodSample
  dsimp only
  split
  · exact (s.modSense_tells i _).trans (State.powerGood_tells _ i _ _)
  · exact s.modSense_tells i _

theorem State.linkUp_tells (s : State) (i : Slot) : Tells s (s.linkUp i) := by
  have hrest : Tells s (s.modPru i PruRec.rest) := s.modPru_tells i _ id
  unfold State.linkUp
  split
  · dsimp only
    split
    · exact hrest.trans ((State.enter_tells _ i _).trans (State.seRequest_tells _ _))
    · exact hrest.trans ((State.enterHeld_tells _ i).trans (State.onEntry_tells _ i _ _))
  · exact Tells.refl s

/-! ## Timers and conversions (R58, R74, R79, R81 to R83, R93) -/

theorem State.quietCount_tells (s : State) (i : Slot) : Tells s (s.quietCount i) := by
  unfold State.quietCount
  dsimp only
  split
  · exact s.probationEnd_tells i
  · exact Tells.refl s

theorem State.rampCheck_tells (s : State) (i : Slot) : Tells s (s.rampCheck i) := by
  unfold State.rampCheck
  dsimp only
  split
  · exact s.rampFault_tells i _
  · exact Tells.refl s

theorem State.trainingTimer_tells (s : State) (i : Slot) : Tells s (s.trainingTimer i) := by
  unfold State.trainingTimer
  split
  · exact (s.modPru_tells i _ id).trans (State.failAttempt_tells _ i _ _)
  · exact Tells.refl s

theorem State.bleedTimer_tells (s : State) (i : Slot) : Tells s (s.bleedTimer i) := by
  unfold State.bleedTimer
  split
  · exact (s.modPru_tells i _ id).trans (State.setRm_tells _ _)
  · exact Tells.refl s

theorem State.settlingEnds_tells (s : State) : Tells s s.settlingEnds := by
  unfold State.settlingEnds
  split
  · split
    · exact s.setRm_tells _
    · exact Tells.refl s
  · exact Tells.refl s

theorem State.bleedResult_tells (s : State) (i : Slot) (mv : Nat) : Tells s (s.bleedResult i mv) := by
  have hread : Tells s (s.modPru i fun q => { q with lastReading := mv }) := s.modPru_tells i _ id
  unfold State.bleedResult
  dsimp only
  split
  · exact hread.trans ((State.modPru_tells _ i _ id).trans (State.bleedEnd_tells _ i))
  · split
    · exact hread.trans (State.modPru_tells _ i _ id)
    · exact hread.trans ((State.modPru_tells _ i _ id).trans
        ((State.raise_tells _ i _ _ _ _).trans (State.retireFromBleed_tells _ i)))

theorem State.sampleResult_tells (s : State) (i : Slot) (mv : Nat) : Tells s (s.sampleResult i mv) := by
  unfold State.sampleResult
  dsimp only
  split
  · exact s.endEntry_tells i _ _
  · exact Tells.refl s

theorem State.handReading_tells (s : State) (i : Slot) (mv : Nat) : Tells s (s.handReading i mv) := by
  have hbleed : Tells s (if (s.rm.req i).bleed then s.bleedResult i mv else s) := by
    split
    · exact s.bleedResult_tells i mv
    · exact Tells.refl s
  unfold State.handReading
  dsimp only
  split
  · exact hbleed.trans (State.sampleResult_tells _ i mv)
  · exact hbleed

/-! ## The counters and the host-port reset (R1, R66) -/

theorem State.count_tells (s : State) : Tells s s.count := .of_levels rfl fun i => by
  rw [State.count_slot, SlotRec.tick, PruRec.tick_eq]
  rfl

theorem State.resetSlot_tells (s : State) (i : Slot) : Tells s (s.resetSlot i) := by
  unfold State.resetSlot
  dsimp only
  split
  · exact (s.modPru_tells i _ fun _ _ => ⟨rfl, rfl⟩).trans ((State.resetAssertion_tells _ i).trans
      ((State.enter_tells _ i _).trans ((State.modCs_tells _ i _).trans (State.raise_tells _ i _ _ _ _))))
  · split
    · exact s.modCs_tells i _
    · exact Tells.refl s

theorem State.hostPort_tells (s : State) (order : List Slot) : Tells s (s.hostPort order) := by
  have hblocks : Tells s s.resetBlocks := .of_levels rfl fun i => by
    rw [State.resetBlocks_slot]
    rfl
  exact hblocks.trans (Tells.foldl State.resetSlot_tells _ _)

end Sys2Proof.Machine
end

section
/-! PROOFS. Outputs and states in agreement: every change of a view keeps it, with the tags put aside; and the operations that
take an output up, or fence a slot on the way there, keep it together with the law of the output changes. -/

namespace Sys2Proof.Machine

open Sys2Proof

/-! ## Agreement, whatever the tags -/

/-- With every tag FREE and nothing held, soundness says nothing of the tags. -/
theorem View.sound.freed {v : View} (h : v.sound) : v.freed.sound := h.withTags _ fun _ => TtRec.freeAll_quiet _

theorem Change.freed_sound {v w : View} (h : Change v w) (hv : v.freed.sound) : w.freed.sound := by
  cases h with
  | entry _ _ _ _ => exact hv
  | hold _ _ => exact hv
  | cut => exact hv
  | score n h => exact ((Change.score v.freed n h).sound hv).freed
  | watch b h => exact ((Change.watch v.freed b h).sound hv).freed
  | clear => exact ((Change.clear v.freed).sound hv).freed
  | accept p h => exact ((Change.accept v.freed p h).sound hv).freed
  | attempts n h => exact ((Change.attempts v.freed n h).sound hv).freed
  | drop n h => exact ((Change.drop v.freed n h).sound hv).freed
  | fence h => exact ((Change.fence v.freed h).sound hv).freed
  | drain h => exact ((Change.drain v.freed h).sound hv).freed
  | assert h => exact ((Change.assert v.freed h).sound hv).freed
  | isolate h => exact ((Change.isolate v.freed h).sound hv).freed
  | reconnect h => exact ((Change.reconnect v.freed h).sound hv).freed
  | warm h => exact ((Change.warm v.freed h).sound hv).freed
  | train h => exact ((Change.train v.freed h).sound hv).freed
  | shut hs hr => exact ((Change.shut v.freed hs hr).sound hv).freed
  | fail hs => exact ((Change.fail v.freed hs).sound hv).freed
  | up h => exact ((Change.up v.freed h).sound hv).freed
  | bled h => exact ((Change.bled v.freed h).sound hv).freed
  | recheck h => exact ((Change.recheck v.freed h).sound hv).freed
  | retire h => exact ((Change.retire v.freed h).sound hv).freed
  | settle h => exact ((Change.settle v.freed h).sound hv).freed
  | check h => exact ((Change.check v.freed h).sound hv).freed
  | unshare => exact ((Change.unshare v.freed).sound hv).freed
  | linked h => exact ((Change.linked v.freed h).sound hv).freed
  | restore h => exact ((Change.restore v.freed h).sound hv).freed
  | restored h st hst => exact ((Change.restored v.freed h st hst).sound hv).freed
  | trial h => exact ((Change.trial v.freed h).sound hv).freed
  | online h => exact ((Change.online v.freed h).sound hv).freed
  | lose => exact ((Change.lose v.freed).sound hv).freed
  | gain h => exact ((Change.gain v.freed h).sound hv).freed
  | move h h0 => exact ((Change.move v.freed h h0).sound hv).freed

theorem State.sequencesSound_iff (s : State) : s.sequencesSound ↔ ∀ i, (s.view i).freed.sound := by
  constructor
  · rintro ⟨hagrees, hshare, hrestore⟩ i
    exact ⟨hagrees i, hshare i, (hrestore i).1, fun h => (hrestore i).2 (List.count_pos_iff.1 h),
      fun _ => TtRec.freeAll_quiet _⟩
  · intro h
    exact ⟨fun i => (h i).agrees, fun i => (h i).share,
      fun i => ⟨(h i).restores, fun hm => (h i).restoring (List.count_pos_iff.2 hm)⟩⟩

theorem Lawful.sequencesSound {s t : State} (h : Lawful s t) (hs : s.sequencesSound) : t.sequencesSound := by
  rw [State.sequencesSound_iff] at hs ⊢
  exact h.keeps (P := fun v => v.freed.sound) (fun _ _ => Change.freed_sound) hs

/-- A slot that is powered by its state. -/
theorem State.sequencesSound.power_of_state {s : State} (h : s.sequencesSound) {i : Slot}
    (hst : (s.slot i).cs.state.powered) : (s.slot i).pru.power = true := by
  obtain ⟨hempty, hoff, hbleeding, hretired⟩ := hst
  have ha := h.1 i
  unfold SlotRec.phaseAgrees PruRec.up at ha
  cases hs : (s.slot i).cs.state <;> simp_all

/-- A slot in a phase on the way up or of a reset. -/
theorem State.sequencesSound.power_of_phase {s : State} (h : s.sequencesSound) {i : Slot}
    (hi : (s.slot i).pru.phase ≠ .idle) (hw : (s.slot i).pru.phase ≠ .bleedWait)
    (hc : (s.slot i).pru.phase ≠ .bleedCheck) :
    (s.slot i).pru.power = true := by
  have ha := h.1 i
  unfold SlotRec.phaseAgrees PruRec.up at ha
  cases hs : (s.slot i).cs.state <;> simp_all

/-- Power is OFF only in the states whose outputs are all down. -/
theorem State.sequencesSound.powerLaw {s : State} (h : s.sequencesSound) : s.powerLaw := fun i hp => by
  by_contra hdark
  have ha := h.1 i
  unfold SlotRec.phaseAgrees PruRec.up at ha
  cases hs : (s.slot i).cs.state <;> simp_all

/-! ## Both laws -/

/-- Outputs and states agree, and the law of the output changes holds. -/
def State.ordered (s : State) : Prop := s.sequencesSound ∧ s.signalLaw

/-- From `s` to `t` both laws are kept. -/
def Steady (s t : State) : Prop := s.ordered → t.ordered

theorem Steady.refl (s : State) : Steady s s := id

theorem Steady.trans {s t u : State} (h : Steady s t) (k : Steady t u) : Steady s u := fun hs => k (h hs)

theorem Steady.foldl {α : Type} {f : State → α → State} (h : ∀ t a, Steady t (f t a)) (l : List α) (s : State) :
    Steady s (l.foldl f s) := by
  induction l generalizing s with
  | nil => exact Steady.refl s
  | cons a l ih => exact (h s a).trans (ih _)

/-- A lawful operation, when agreement at its beginning gives what it needs to drive the outputs in order. -/
theorem Lawful.steady {s t : State} (h : Lawful s t) (k : s.sequencesSound → Tells s t) : Steady s t := fun ⟨hq, hs⟩ =>
  ⟨h.sequencesSound hq, k hq hs⟩

theorem Tells.steady {s t : State} (h : Tells s t) (k : Lawful s t) : Steady s t := k.steady fun _ => h

theorem Tells.steadyView {s t : State} (h : Tells s t) (hv : t.view = s.view) : Steady s t := h.steady (Lawful.of_view hv)

theorem Steady.same {s t : State} (hslots : t.slots = s.slots) (hrm : t.rm = s.rm)
    (hops : t.se.ops = s.se.ops) (hsig : t.signals = s.signals) : Steady s t :=
  (Tells.same hslots hsig).steadyView (State.view_congr hslots hrm hops)

theorem RingOnly.steady {s t : State} (h : RingOnly s t) (hsig : t.signals = s.signals) : Steady s t :=
  .same h.slots h.rm (by rw [h.se]) hsig

theorem SlotRec.phaseAgrees_congr {r q : SlotRec} (hp : r.pru = q.pru) (hs : r.cs.state = q.cs.state) (h : q.phaseAgrees) :
    r.phaseAgrees := by
  unfold SlotRec.phaseAgrees at *
  rw [hp, hs]
  exact h

/-- A record whose state and outputs stand. -/
theorem State.setSlot_steady (s : State) (i : Slot) (r : SlotRec) (hp : r.pru = (s.slot i).pru)
    (hs : r.cs.state = (s.slot i).cs.state) : Steady s (s.setSlot i r) := by
  have hrec : ∀ j, ((s.setSlot i r).slot j).pru = (s.slot j).pru
      ∧ ((s.setSlot i r).slot j).cs.state = (s.slot j).cs.state := fun j => by
    by_cases hj : j = i
    · subst hj
      rw [State.setSlot_slot_self]
      exact ⟨hp, hs⟩
    · rw [State.setSlot_slot_ne _ _ _ _ hj]
      exact ⟨rfl, rfl⟩
  rintro ⟨⟨hagrees, hshare, hrestore⟩, hsig⟩
  refine ⟨⟨fun j => SlotRec.phaseAgrees_congr (hrec j).1 (hrec j).2 (hagrees j), fun j hb => ?_, fun j =>
    ⟨(hrestore j).1, fun hm => ?_⟩⟩, s.setSlot_tells i r (by rw [hp]) hsig⟩
  · rw [(hrec j).1]
    exact hshare j hb
  · rw [(hrec j).2]
    exact (hrestore j).2 hm

theorem State.modSlot_steady (s : State) (i : Slot) (f : SlotRec → SlotRec)
    (hp : (f (s.slot i)).pru = (s.slot i).pru) (hs : (f (s.slot i)).cs.state = (s.slot i).cs.state) :
    Steady s (s.modSlot i f) := s.setSlot_steady i _ hp hs

theorem Steady.emits {s t : State} (h : Steady s t) (os : List Output) : Steady s (t.emits os) :=
  h.trans (.same rfl rfl rfl rfl)

theorem State.raise_steady (s : State) (i : Slot) (k : IncKind) (a b : Nat) (d : BitVec 64) :
    Steady s (s.raise i k a b d) := .same rfl rfl rfl rfl

theorem State.modCs_steady (s : State) (i : Slot) (f : CsRec → CsRec)
    (h : (f (s.slot i).cs).state = (s.slot i).cs.state) : Steady s (s.modCs i f) := s.modSlot_steady i _ rfl h

theorem State.modHm_steady (s : State) (i : Slot) (f : HmRec → HmRec) : Steady s (s.modHm i f) :=
  s.modSlot_steady i _ rfl rfl

theorem State.modSense_steady (s : State) (i : Slot) (f : SenseRec → SenseRec) : Steady s (s.modSense i f) :=
  s.modSlot_steady i _ rfl rfl

theorem State.setAd_steady (s : State) (i : Slot) (a : AdRec) : Steady s (s.setAd i a) := s.modSlot_steady i _ rfl rfl

theorem State.setEntry_steady (s : State) (i : Slot) (k : Tag) (e : OrtEntry) : Steady s (s.setEntry i k e) :=
  s.modSlot_steady i _ rfl rfl

theorem State.endEntry_steady (s : State) (i : Slot) (o : ActOutcome) (n : Nat) : Steady s (s.endEntry i o n) :=
  (s.endEntry_tells i o n).steadyView (s.endEntry_view i o n)

theorem State.align_steady (s : State) : Steady s s.align := s.align_tells.steadyView s.align_view

theorem State.promote_steady (s : State) (i : Slot) : Steady s (s.promote i) :=
  (s.promote_tells i).steady (s.promote_lawful i)

/-! ## From ISOLATE to TRAINING (R71, R72, R77, R78) -/

section
variable {s : State} {i : Slot} (hp : (s.slot i).pru.power = true)
include hp

theorem State.releaseReset_tells : Tells s (s.releaseReset i) :=
  (s.modPru_tells i _ fun _ => PruRec.orderly_of_power hp).trans (State.enter_tells _ i _)

theorem State.reconnect_tells : Tells s (s.reconnect i) := by
  have hclose : Tells s (s.modPru i fun p =>
      { p with isoOpen := false, timer := some (s.pol i).releaseLag, phase := .reconnect }) :=
    s.modPru_tells i _ fun _ => PruRec.orderly_of_power hp
  unfold State.reconnect
  dsimp only
  split
  · exact hclose.trans (State.releaseReset_tells (by rw [State.modPru_slot_self]; exact hp))
  · exact hclose

theorem State.assertDone_tells : Tells s (s.assertDone i) := by
  unfold State.assertDone
  split
  · exact State.reconnect_tells hp
  · exact (s.modPru_tells i _ id).trans (State.enterIsolated_tells _ i)
  · exact s.powerOffNow_tells i
  · exact Tells.refl s

theorem State.assertReset_tells : Tells s (s.assertReset i) := by
  have hassert : Tells s (s.enterAssert i) :=
    (s.modPru_tells i _ fun _ => PruRec.orderly_of_power hp).trans (State.resetAssertion_tells _ i)
  rw [State.assertReset_eq]
  split
  · exact hassert.trans (State.assertDone_tells (by rw [State.enterAssert_slot]; exact hp))
  · exact hassert

theorem State.startReset_tells (q : Sequence) : Tells s (s.startReset i q) := by
  have hopen : Tells s ((s.enter i .resetting).modPru i fun p =>
      { p with sequence := q, isoOpen := true, timer := some (s.pol i).isoLead, phase := .isolate }) :=
    (s.enter_tells i _).trans (State.modPru_tells _ i _ fun _ =>
      PruRec.orderly_of_power (by rw [State.enter_slot_self]; exact hp))
  unfold State.startReset
  dsimp only
  split
  · exact hopen.trans (State.assertReset_tells (by rw [State.modPru_slot_self, State.enter_slot_self]; exact hp))
  · exact hopen

/-! ## The drain and the fence (R42 to R46) -/

theorem State.modCs_power (f : CsRec → CsRec) : ((s.modCs i f).slot i).pru.power = true := by
  rw [State.modCs, State.modSlot_slot_self]
  exact hp

theorem State.drainEnd_tells : Tells s (s.drainEnd i) := by
  have hdrain := s.modCs_tells i fun c => { c with drain := none }
  have hpower := State.modCs_power hp fun c => { c with drain := none }
  unfold State.drainEnd
  dsimp only
  split
  · exact hdrain.trans (State.startReset_tells hpower _)
  · split
    · exact hdrain.trans ((State.modCs_tells _ i _).trans (State.startReset_tells (State.modCs_power hpower _) _))
    · exact hdrain.trans ((State.modCs_tells _ i _).trans (State.startReset_tells (State.modCs_power hpower _) _))

theorem State.startDrain_tells : Tells s (s.startDrain i) := by
  unfold State.startDrain
  split
  · exact State.drainEnd_tells hp
  · exact s.modCs_tells i _

theorem State.fence_tells (t : Trigger) (k : RecKind) (f : Option Nat) : Tells s (s.fence i t k f) := by
  have hcut : Tells s (s.fenceCut i t k) :=
    (s.enter_tells i _).trans ((State.modCs_tells _ i _).trans ((State.fenceWork_tells _ i).trans
      (State.cancelOp_tells _ i)))
  have hslots := ((s.fenceCut i t k).fenceRaises_slots i t k (s.slot i).tt.abortCount f).1
  have hraise : Tells (s.fenceCut i t k) ((s.fenceCut i t k).fenceRaises i t k (s.slot i).tt.abortCount f) := by
    refine .same hslots ?_
    unfold State.fenceRaises
    cases f <;> by_cases ht : t = .linkDown <;> simp [ht]
  rw [State.fence_eq]
  refine (hcut.trans hraise).trans (State.startDrain_tells ?_)
  have hpru : (((s.fenceCut i t k).fenceRaises i t k (s.slot i).tt.abortCount f).slot i).pru = (s.slot i).pru := by
    rw [State.slot, hslots, ← State.slot, State.fenceCut_slot]
    rfl
  rw [hpru]
  exact hp

theorem State.recoverWarm_tells : Tells s (s.recoverWarm i) := by
  refine (s.modCs_tells i _).trans ((State.enter_tells _ i _).trans ((State.modPru_tells _ i _ id).trans
    (State.reconnect_tells ?_)))
  rw [State.modPru_slot_self, State.enter_slot_self]
  exact State.modCs_power hp _

end

/-- Where the slot is powered the drain and the fence keep both laws. -/
theorem State.drainEnd_steady (s : State) (i : Slot) (h : (s.slot i).cs.state = .fenced) : Steady s (s.drainEnd i) :=
  (s.drainEnd_lawful i h).steady fun hq => State.drainEnd_tells (hq.power_of_state (by rw [h]; simp [SlotState.powered]))

theorem State.fence_steady (s : State) (i : Slot) (t : Trigger) (k : RecKind) (f : Option Nat)
    (h : (s.slot i).cs.state.fenceable) : Steady s (s.fence i t k f) := by
  refine (s.fence_lawful i t k f h).steady fun hq => State.fence_tells (hq.power_of_state ?_) t k f
  rcases h with h | h | h | h <;> rw [h] <;> simp [SlotState.powered]

theorem State.cardFence_steady (s : State) (i : Slot) (t : Trigger) : Steady s (s.cardFence i t) := by
  unfold State.cardFence
  split
  next h => exact s.fence_steady i _ _ _ (Or.inl h)
  next h => exact s.fence_steady i _ _ _ (Or.inr (Or.inl h))
  next h => exact s.fence_steady i _ _ _ (Or.inr (Or.inr (Or.inl h)))
  next h =>
    split
    · exact s.fence_steady i _ _ _ (Or.inr (Or.inr (Or.inr h)))
    · exact Steady.refl s
  · exact Steady.refl s

theorem State.recoverAction_steady (s : State) (i : Slot) (a : BitVec 16) (hp : (s.slot i).policy ≠ none) :
    Steady s (s.recoverAction i a) := by
  unfold State.recoverAction
  split
  next h =>
    split
    · exact (s.recoverWarm_lawful i h hp).steady fun hq =>
        State.recoverWarm_tells (hq.power_of_state (by rw [h]; simp [SlotState.powered]))
    · exact (s.recoverCold_tells i).steady (s.recoverCold_lawful i h hp)
  next h =>
    refine (s.modCs_steady i _ rfl).trans (State.fence_steady _ i _ _ _ ?_)
    rw [State.modCs_state]
    exact Or.inr (Or.inl h)
  next h => exact (s.recoverRetired_tells i _).steady (s.recoverRetired_lawful i _ h hp)
  · exact Steady.refl s

/-! ## Health (R28 to R36) -/

theorem State.alignWatch_steady (s : State) (i : Slot) : Steady s (s.alignWatch i) := by
  unfold State.alignWatch
  split
  · exact Steady.refl s
  · dsimp only
    split
    · exact Steady.refl s
    · split
      · exact (s.modHm_steady i _).trans (State.raise_steady _ i _ _ _ _)
      · exact (s.modHm_steady i _).trans (State.promote_steady _ i)

theorem State.alignAlert_steady (s : State) (i : Slot) : Steady s (s.alignAlert i) :=
  (s.alignAlert_tells i).steadyView (s.alignAlert_view i)

theorem State.fenceEvent_steady (s : State) (i : Slot) (p : Policy) (h : (s.slot i).cs.state.fenceable) :
    Steady s (s.fenceEvent i p) := by
  unfold State.fenceEvent
  split
  · exact s.fence_steady i _ _ _ h
  · exact (s.raise_steady i _ _ _ _).trans (State.modHm_steady _ i _)

theorem State.checkThresholds_steady (s : State) (i : Slot) (e : ScoreEvent) (n : Nat) :
    Steady s (s.checkThresholds i e n) := by
  unfold State.checkThresholds
  split
  · exact Steady.refl s
  · dsimp only
    split
    next h =>
      split
      · exact s.fenceEvent_steady i _ (Or.inl h)
      · exact Steady.refl s
    next h =>
      split
      · exact s.fenceEvent_steady i _ (Or.inr (Or.inl h))
      · exact Steady.refl s
    next h =>
      split
      · exact s.fence_steady i _ _ _ (Or.inr (Or.inr (Or.inl h)))
      · split
        · exact Tells.steadyView (s.modCs_tells i _) (s.scoreIncrease_view i)
        · exact Steady.refl s
    · exact Steady.refl s

theorem State.scoreChecks_steady (s : State) (i : Slot) (e : ScoreEvent) (n : Nat) : Steady s (s.scoreChecks i e n) :=
  ((s.noteExpiry_tells i e).steadyView (s.noteExpiry_view i e)).trans ((State.alignWatch_steady _ i).trans
    ((State.alignAlert_steady _ i).trans ((State.checkThresholds_steady _ i e n).trans (State.promote_steady _ i))))

theorem State.scoreEvent_steady (s : State) (i : Slot) (e : ScoreEvent) : Steady s (s.scoreEvent i e) :=
  (s.modHm_steady i _).trans (State.scoreChecks_steady _ i e _)

theorem State.scoreWith_steady (s : State) (i : Slot) (e : ScoreEvent) (f : State → State)
    (hf : ∀ t : State, Steady t (f t)) : Steady s (s.scoreWith i e f) :=
  (s.modHm_steady i _).trans ((hf _).trans (State.scoreChecks_steady _ i e _))

theorem State.alertAtAcceptance_steady (s : State) (i : Slot) (p : Policy) : Steady s (s.alertAtAcceptance i p) := by
  unfold State.alertAtAcceptance
  dsimp only
  split
  next h =>
    obtain ⟨-, -, hst⟩ := h
    refine (s.alignAlert_steady i).trans ((State.modHm_steady _ i _).trans (State.fence_steady _ i _ _ _ ?_))
    rw [State.modHm, State.modSlot_slot_self]
    exact hst.imp id Or.inl
  · exact s.alignAlert_steady i

theorem State.acceptPolicy_steady (s : State) (i : Slot) (p : Policy) : Steady s (s.acceptPolicy i p) :=
  (s.modSlot_steady i _ rfl rfl).trans ((State.promote_steady _ i).trans ((State.alignWatch_steady _ i).trans
    ((State.alertAtAcceptance_steady _ i p).trans (State.promote_steady _ i))))

end Sys2Proof.Machine
end

section
/-! PROOFS. Outputs and states in agreement through traffic, completions, the actions and plans, the samples and the timers. -/

namespace Sys2Proof.Machine

open Sys2Proof

/-! ## Card traffic (R121 to R131) -/

theorem State.emit_steady (s : State) (o : Output) : Steady s (s.emit o) := .same rfl rfl rfl rfl

theorem State.blocked_steady (s : State) (i : Slot) (a : Addr) (k n : Nat) : Steady s (s.blocked i a k n) := by
  refine s.scoreWith_steady i _ _ fun t => ?_
  dsimp only
  split
  · exact Steady.refl t
  · exact (t.raise_steady i _ _ _ _).trans (State.modSlot_steady _ i _ rfl rfl)

theorem State.cardWrite_steady (s : State) (i : Slot) (w : CardWrite) : Steady s (s.cardWrite i w) := by
  unfold State.cardWrite
  split
  · exact s.emit_steady _
  · exact s.emit_steady _
  · split
    · exact s.emit_steady _
    · exact s.blocked_steady i _ _ _
  · exact s.modSlot_steady i _ rfl rfl
  · exact Steady.refl s
  · exact Steady.refl s

theorem State.cardRead_steady (s : State) (i : Slot) (q : Requester) (a : Addr) (n : Nat) :
    Steady s (s.cardRead i q a n) := by
  unfold State.cardRead
  split
  · split
    · exact s.emit_steady _
    · split
      · exact s.emit_steady _
      · exact (s.emit_steady _).trans (State.blocked_steady _ i _ _ _)
    · exact s.emit_steady _
    · exact s.emit_steady _
  · exact s.emit_steady _

theorem State.cardError_steady (s : State) (i : Slot) (v : Severity) : Steady s (s.cardError i v) := by
  unfold State.cardError
  split
  · exact Steady.refl s
  · cases v with
    | correctable => exact s.scoreEvent_steady i _
    | nonfatal => exact s.scoreEvent_steady i _
    | fatal =>
      dsimp only
      split
      · exact (s.raise_steady i _ _ _ _).trans (State.cardFence_steady _ i _)
      · exact s.scoreWith_steady i _ _ fun t => t.raise_steady i _ _ _ _

theorem State.cardRequest_steady (s : State) (i : Slot) (r : CardRequest) : Steady s (s.cardRequest i r) := by
  cases r with
  | write w => exact s.cardWrite_steady i w
  | read q a n => exact s.cardRead_steady i q a n
  | error v => exact s.cardError_steady i v

/-! ## Completions and deadlines (R12 to R20) -/

theorem State.accessResult_steady (s : State) (i : Slot) (res : AccessResult) : Steady s (s.accessResult i res) :=
  (s.accessResult_tells i res).steady (s.accessResult_lawful i res)

theorem State.countSuccess_steady (s : State) (i : Slot) : Steady s (s.countSuccess i) :=
  (s.countSuccess_tells i).steady (s.countSuccess_lawful i)

theorem State.hostCompletes_steady (s : State) (i : Slot) (k : Tag) (f : OrtFields) (q : Requester) (c : CardCpl) :
    Steady s (s.hostCompletes i k f q c) := by
  have hfree : ∀ o, Steady s (((s.emit o).setEntry i k .free).promote i) := fun o =>
    (s.emit_steady o).trans ((State.setEntry_steady _ i k _).trans (State.promote_steady _ i))
  unfold State.hostCompletes
  split
  · exact (hfree _).trans (State.scoreEvent_steady _ i _)
  · split
    · exact (s.emit_steady _).trans (State.setEntry_steady _ i k _)
    · dsimp only
      split
      · exact (hfree _).trans ((State.scoreEvent_steady _ i _).trans (State.countSuccess_steady _ i))
      · exact (hfree _).trans (State.scoreEvent_steady _ i _)

theorem State.engineEvent_steady (s : State) (i : Slot) (b : Bool) (e : ScoreEvent) (r : AccessResult) :
    Steady s (s.engineEvent i b e r) := by
  unfold State.engineEvent
  dsimp only
  split
  · exact (s.modHm_steady i _).trans ((State.accessResult_steady _ i r).trans (State.scoreChecks_steady _ i e _))
  · exact (s.modHm_steady i _).trans ((State.scoreChecks_steady _ i e _).trans (State.accessResult_steady _ i r))

theorem State.engineCompletes_steady (s : State) (i : Slot) (k : Tag) (f : OrtFields) (c : CardCpl) (b : Bool) :
    Steady s (s.engineCompletes i k f c b) := by
  have hfree : Steady s (s.setEntry i k .free) := s.setEntry_steady i k _
  unfold State.engineCompletes
  dsimp only
  split
  · exact hfree.trans (State.engineEvent_steady _ i b _ _)
  · split
    · have hread : Steady s { s.setEntry i k .free with free := (s.setEntry i k .free).free + 4 } :=
        hfree.trans (.same rfl rfl rfl rfl)
      exact hread.trans (State.accessResult_steady _ i _)
    · exact hfree.trans (State.engineEvent_steady _ i b _ _)

theorem State.lateCompletes_steady (s : State) (i : Slot) (k : Tag) : Steady s (s.lateCompletes i k) := by
  have hlate : Steady s (((s.setEntry i k .free).scoreEvent i .late).promote i) :=
    (s.setEntry_steady i k _).trans ((State.scoreEvent_steady _ i _).trans (State.promote_steady _ i))
  unfold State.lateCompletes
  dsimp only
  split
  next h => exact hlate.trans (State.drainEnd_steady _ i h.1)
  next => exact hlate

theorem State.cardCompletion_steady (s : State) (i : Slot) (n : Nat) (c : CardCpl) (b : Bool) :
    Steady s (s.cardCompletion i n c b) := by
  unfold State.cardCompletion
  split
  · dsimp only
    split
    · exact s.scoreEvent_steady i _
    · exact s.lateCompletes_steady i _
    · split
      · exact s.hostCompletes_steady i _ _ _ _
      · exact s.engineCompletes_steady i _ _ _ _
  · exact s.scoreEvent_steady i _

theorem State.deadlineExpiry_steady (s : State) (i : Slot) (k : Tag) (b : Bool) : Steady s (s.deadlineExpiry i k b) := by
  unfold State.deadlineExpiry
  split
  · split
    · split
      · exact (s.emit_steady _).trans ((State.setEntry_steady _ i k _).trans
          ((State.scoreEvent_steady _ i _).trans (State.promote_steady _ i)))
      · exact (s.setEntry_steady i k _).trans (State.engineEvent_steady _ i b _ _)
    · exact Steady.refl s
  · exact Steady.refl s

/-! ## Actions and plans (R144 to R160) -/

theorem State.startFence_steady (s : State) (i : Slot) (e : ActEntry)
    (h : ActCode.fence.accepts (s.slot i).cs.state = true) (hp : (s.slot i).policy ≠ none) : Steady s (s.startFence i e) := by
  unfold State.startFence
  split
  · split
    · exact s.endEntry_steady i _ _
    · exact s.recoverAction_steady i _ hp
  next hst =>
    refine s.fence_steady i _ _ _ ?_
    cases hs : (s.slot i).cs.state <;> simp_all [ActCode.accepts, SlotState.fenceable]

theorem State.run_steady (s : State) (i : Slot) (e : ActEntry) (c : ActCode) (h : c.accepts (s.slot i).cs.state = true)
    (hp : c = .loadPolicy ∨ c = .readSlot ∨ (s.slot i).policy ≠ none) : Steady s (s.run i e c) := by
  have hl := s.run_lawful i e c h hp
  cases c with
  | fence => exact s.startFence_steady i e h (by simpa using hp)
  | recover => exact s.recoverAction_steady i _ (by simpa using hp)
  | powerOn => exact Tells.steady (s.bringUp_tells i _) hl
  | powerOff => exact Tells.steady (s.startPowerOff_tells i) hl
  | retire => exact Tells.steady (s.startRetire_tells i) hl
  | admitSlot => exact Tells.steady (s.startAdmit_tells i) hl
  | release => exact Tells.steady (s.startRelease_tells i) hl
  | snapshot => exact Tells.steady (s.seRequest_tells _) hl
  | loadPolicy => exact Tells.steady (s.startLoadPolicy_tells i) hl
  | readSlot => exact s.endEntry_steady i _ _
  | railSample => exact Tells.steady (s.setRm_tells _) hl

/-- An action that has passed its checks on the record, in a state whose slot has kept what they read. -/
theorem State.run_steady_of_view {s u : State} {i : Slot} {e : ActEntry} {own : Bool} {c : ActCode} {n : Nat}
    (hc : (s.slot i).check e own = .ok c) (hu : u.view i = { s.view i with restores := n }) : Steady u (u.run i e c) := by
  obtain ⟨hacc, hpol⟩ := SlotRec.check_ok hc
  have hst : (u.slot i).cs.state = (s.slot i).cs.state := congrArg View.state hu
  have hp : (u.slot i).policy = (s.slot i).policy := congrArg View.policy hu
  exact u.run_steady i e c (by rw [hst]; exact hacc) (by rw [hp]; exact hpol)

theorem State.startNext_steady (s : State) (i : Slot) : Steady s (s.startNext i) := by
  unfold State.startNext
  dsimp only
  split
  · split
    · exact (s.setAd_steady i _).trans (State.endEntry_steady _ i _ _)
    next c hc =>
      refine (s.setAd_steady i _).trans (State.run_steady_of_view (n := (s.view i).restores) hc ?_)
      rw [State.setAd_view]
  · exact Steady.refl s

theorem State.runPlan_steady (i : Slot) (n : Nat) (s : State) : Steady s (State.runPlan i n s) := by
  induction n generalizing s with
  | zero => exact Steady.refl s
  | succ n ih => exact (s.startNext_steady i).trans (ih _)

theorem State.settle_steady (s : State) (i : Slot) : Steady s (s.settle i) := State.runPlan_steady i _ s

theorem Steady.align {s t : State} (h : Steady s t) : Steady s t.align := h.trans t.align_steady

theorem Steady.close {s t : State} (h : Steady s t) (i : Slot) : Steady s (t.close i) := (h.trans (t.settle_steady i)).align

theorem Steady.closeEngine {s t : State} (h : Steady s t) (op : Option SeOp) : Steady s (t.closeEngine op) := by
  cases op with
  | none => exact h
  | some op => exact h.close op.slot

theorem State.passEntries_steady (s : State) (i : Slot) (occ : Occupant) (e : ActEntry) (rest : List ActEntry) :
    Steady s (s.passEntries i occ e rest) := by
  unfold State.passEntries
  split
  · exact ((s.giveBack_tells i _ _ _).trans (State.skipAll_tells _ i _)).steadyView
      (by rw [State.skipAll_view, State.giveBack_view])
  next c hc =>
    have htake : Steady s (if (s.slot i).ad.occupant = .none then s else s.overtake i)
        ∧ ∃ n, (if (s.slot i).ad.occupant = .none then s else s.overtake i).view i = { s.view i with restores := n } := by
      split
      · exact ⟨Steady.refl s, (s.view i).restores, rfl⟩
      · exact ⟨(s.overtake_tells i).steady (s.overtake_lawful i).1, (s.overtake_lawful i).2⟩
    obtain ⟨htake, n, hn⟩ := htake
    dsimp only
    refine ((htake.trans (State.setAd_steady _ i _)).trans (State.run_steady_of_view (n := n) hc ?_)).trans
      (State.settle_steady _ i)
    rw [State.setAd_view, hn]

theorem State.alone_steady (s : State) (i : Slot) (code : BitVec 8) (a : ActionArgs) : Steady s (s.alone i code a) := by
  unfold State.alone
  split
  · exact ((s.takeEntries_ring _).steady rfl |>.trans (State.passEntries_steady _ i _ _ _)).align
  · exact Steady.refl s

theorem State.policyReadEnds_steady (s : State) (i : Slot) (b : Option (List Byte)) :
    Steady s (s.policyReadEnds i b) := by
  unfold State.policyReadEnds
  split
  · exact s.endEntry_steady i _ _
  · split
    · exact s.endEntry_steady i _ _
    · split
      · exact (s.acceptPolicy_steady i _).trans (State.endEntry_steady _ i _ _)
      · exact s.endEntry_steady i _ _

theorem State.loadPolicyRead_steady (s : State) (i : Slot) (id : Nat) (res : ReadResult) :
    Steady s (s.loadPolicyRead i id res) := by
  unfold State.loadPolicyRead
  split
  · split
    · exact (s.policyReadEnds_steady i _).close i
    · exact Steady.refl s
  · exact Steady.refl s

theorem State.loadPolicyLate_steady (s : State) (i : Slot) : Steady s (s.loadPolicyLate i) := by
  unfold State.loadPolicyLate
  split
  · split
    · exact (s.policyReadEnds_steady i _).close i
    · exact Steady.refl s
  · exact Steady.refl s

/-! ## Presence and attention (R62 to R65, R137) -/

theorem State.presenceSample_steady (s : State) (i : Slot) (raw : Bool) : Steady s (s.presenceSample i raw) :=
  (s.presenceSample_tells i raw).steady (s.presenceSample_lawful i raw)

theorem State.shortPress_steady (s : State) (i : Slot) (n : Nat) : Steady s (s.shortPress i n) := by
  have hr : Steady s (s.raise i .attentionShort n) := s.raise_steady i _ _ _ _
  unfold State.shortPress
  dsimp only
  split
  · split
    next h => exact hr.trans (State.fence_steady _ i _ _ _ (Or.inl h))
    next h => exact hr.trans (State.fence_steady _ i _ _ _ (Or.inr (Or.inr (Or.inl h))))
    · exact hr
  · exact hr

theorem State.released_steady (s : State) (i : Slot) : Steady s (s.released i) := by
  unfold State.released
  dsimp only
  split
  · exact s.modSense_steady i _
  · exact (s.modSense_steady i _).trans (State.shortPress_steady _ i _)

theorem State.attentionSample_steady (s : State) (i : Slot) (raw : Bool) : Steady s (s.attentionSample i raw) := by
  have hpress : Steady s (s.pressSample i) := (s.pressSample_tells i).steady (s.pressSample_lawful i)
  unfold State.attentionSample
  dsimp only
  split
  · split
    · exact hpress.trans (State.released_steady _ i)
    · exact hpress.trans (State.modSense_steady _ i _)
  · split <;> exact s.modSense_steady i _

theorem State.slotSamples_steady (s : State) (p : SensePins) (i : Slot) : Steady s (s.slotSamples p i) := by
  unfold State.slotSamples
  dsimp only
  split
  · exact ((s.attentionSample_steady i _).trans (State.settle_steady _ i)).trans
      ((State.presenceSample_steady _ i _).trans (State.settle_steady _ i))
  · exact ((s.presenceSample_steady i _).trans (State.settle_steady _ i)).trans
      ((State.attentionSample_steady _ i _).trans (State.settle_steady _ i))

theorem State.senseSample_steady (s : State) (p : SensePins) : Steady s (s.senseSample p) := by
  unfold State.senseSample
  split
  · exact (Steady.foldl (fun t i => t.slotSamples_steady p i) (slotOrder p.order) s).trans (.same rfl rfl rfl rfl)
  · exact Steady.refl s

/-! ## Timers and conversions (R45, R69, R93) -/

theorem State.drainTimer_steady (s : State) (i : Slot) : Steady s (s.drainTimer i) := by
  unfold State.drainTimer
  split
  next h => exact s.drainEnd_steady i h.1
  · exact Steady.refl s

/-- The slot of a phase that ends is powered, but at the end of a bleed. -/
theorem State.sequencesSound.power_of_ends {s : State} (h : s.sequencesSound) {i : Slot} {f : Phase}
    (hf : (s.slot i).pru.ends f = true) (hi : f ≠ .idle) (hw : f ≠ .bleedWait) (hc : f ≠ .bleedCheck) :
    (s.slot i).pru.power = true := by
  have hphase := PruRec.ends_iff hf
  exact h.power_of_phase (hphase ▸ hi) (hphase ▸ hw) (hphase ▸ hc)

theorem State.isolateTimer_steady (s : State) (i : Slot) : Steady s (s.isolateTimer i) := by
  unfold State.isolateTimer
  split
  next h => exact (s.assertReset_lawful i (PruRec.ends_iff h)).steady fun hq =>
      State.assertReset_tells (hq.power_of_ends h nofun nofun nofun)
  · exact Steady.refl s

theorem State.assertTimer_steady (s : State) (i : Slot) : Steady s (s.assertTimer i) := by
  unfold State.assertTimer
  split
  next h => exact (s.assertDone_lawful i (PruRec.ends_iff h)).steady fun hq =>
      State.assertDone_tells (hq.power_of_ends h nofun nofun nofun)
  · exact Steady.refl s

theorem State.settleTimer_steady (s : State) (i : Slot) : Steady s (s.settleTimer i) := by
  unfold State.settleTimer
  split
  next h => exact (s.reconnect_lawful i (Or.inr (PruRec.ends_iff h))).steady fun hq =>
      State.reconnect_tells (hq.power_of_ends h nofun nofun nofun)
  · exact Steady.refl s

theorem State.reconnectTimer_steady (s : State) (i : Slot) : Steady s (s.reconnectTimer i) := by
  unfold State.reconnectTimer
  split
  next h => exact (s.releaseReset_lawful i (PruRec.ends_iff h)).steady fun hq =>
      State.releaseReset_tells (hq.power_of_ends h nofun nofun nofun)
  · exact Steady.refl s

theorem State.measuringEnds_steady (s : State) (v : Int) : Steady s (s.measuringEnds v) := by
  unfold State.measuringEnds
  split
  next i hi =>
    split
    · exact (((s.handReading_tells i (reading v)).trans (State.setRm_tells _ _)).steady
        (s.handReading_moves i (reading v)).serviceEnds).trans (State.settle_steady _ i)
    · exact Steady.refl s
  · exact Steady.refl s

/-! ## RI's work (chapter 10) -/

theorem State.examine_signals (s : State) : s.examine.signals = s.signals := by
  unfold State.examine
  split <;> rfl

theorem State.beginScan_signals (s : State) : s.beginScan.signals = s.signals := by
  unfold State.beginScan
  split
  · exact State.examine_signals _
  · rfl

theorem State.askScan_signals (s : State) : s.askScan.signals = s.signals := by
  unfold State.askScan
  split
  · rfl
  · exact s.beginScan_signals

theorem State.endScan_signals (s : State) : s.endScan.signals = s.signals := by
  unfold State.endScan
  dsimp only
  split
  · exact State.beginScan_signals _
  · rfl

theorem State.offerIncidents_signals (s : State) : s.offerIncidents.signals = s.signals := by
  unfold State.offerIncidents
  split
  · rfl
  · exact s.endScan_signals

theorem State.badChain_signals (s : State) (i : Slot) (e : ActEntry) : (s.badChain i e).signals = s.signals :=
  (State.examine_signals _).trans (State.giveBack_signals _ i e .badChain 0)

theorem State.lookFor_signals (s : State) (i : Slot) (es : List ActEntry) : (s.lookFor i es).signals = s.signals := by
  unfold State.lookFor
  split <;> rfl

theorem State.readPolicy_signals (s : State) (i : Slot) (b : BitVec 8) : (s.readPolicy i b).signals = s.signals := by
  unfold State.readPolicy
  split <;> rfl

theorem State.nextPolicy_signals (s : State) (i : Slot) (b : BitVec 8) : (s.nextPolicy i b).signals = s.signals := by
  unfold State.nextPolicy
  split
  · rfl
  · exact s.readPolicy_signals _ _

theorem State.controlBlockRead_signals (s : State) (id : Nat) (res : ReadResult) :
    (s.controlBlockRead id res).signals = s.signals := by
  unfold State.controlBlockRead
  split
  · split
    · split
      · rfl
      · split
        · exact (State.readPolicy_signals _ _ _).trans (State.align_signals _)
        · rfl
    · rfl
  · rfl

theorem State.initCommand_signals (s : State) : s.initCommand.signals = s.signals := by
  unfold State.initCommand
  split <;> rfl

theorem State.startCommand_signals (s : State) : s.startCommand.signals = s.signals := by
  unfold State.startCommand
  split
  · exact State.beginScan_signals _
  · rfl

theorem State.stopCommand_signals (s : State) : s.stopCommand.signals = s.signals := by
  unfold State.stopCommand
  split <;> rfl

theorem State.promptCommand_signals (s : State) : s.promptCommand.signals = s.signals := by
  unfold State.promptCommand
  split
  · exact s.askScan_signals
  · rfl

theorem State.scanTimerEnds_signals (s : State) : s.scanTimerEnds.signals = s.signals := by
  unfold State.scanTimerEnds
  split
  · exact State.askScan_signals _
  · rfl

theorem State.kcmdWrite_signals (s : State) (v : Dword) : (s.kcmdWrite v).signals = s.signals := by
  unfold State.kcmdWrite
  split
  · exact s.initCommand_signals
  · exact s.startCommand_signals
  · exact s.stopCommand_signals
  · exact s.promptCommand_signals
  · rfl

theorem State.registerWrite_signals (s : State) (r : CbReg) (v : Dword) : (s.registerWrite r v).signals = s.signals := by
  cases r <;> rfl

theorem State.badChain_steady (s : State) (i : Slot) (e : ActEntry) : Steady s (s.badChain i e) :=
  (s.badChain_ring i e).steady (s.badChain_signals i e)

theorem State.lookFor_steady (s : State) (i : Slot) (es : List ActEntry) : Steady s (s.lookFor i es) :=
  (s.lookFor_ring i es).steady (s.lookFor_signals i es)

theorem State.endScan_steady (s : State) : Steady s s.endScan := s.endScan_ring.steady s.endScan_signals

theorem State.offerIncidents_steady (s : State) : Steady s s.offerIncidents :=
  s.offerIncidents_ring.steady s.offerIncidents_signals

/-- AD takes the entries, and RI examines the next. -/
theorem State.taken_steady (s : State) (es : List ActEntry) (i : Slot) (occ : Occupant) (e : ActEntry) (rest : List ActEntry)
    (f : RiRec → RiRec) : Steady s (((s.takeEntries es).passEntries i occ e rest).modRi f).examine :=
  ((s.takeEntries_ring es).steady rfl).trans ((State.passEntries_steady _ i occ e rest).trans
    (((State.modRi_ring _ f).steady rfl).trans ((State.examine_ring _).steady (State.examine_signals _))))

theorem State.examined_steady (s : State) (b : List Byte) : Steady s (s.examined b) := by
  unfold State.examined
  dsimp only
  split
  · exact s.offerIncidents_steady
  · split
    · exact s.taken_steady _ _ _ _ _ _
    · exact s.lookFor_steady _ _
    · exact s.badChain_steady _ _
    · exact s.badChain_steady _ _

theorem State.lookedAt_steady (s : State) (i : Slot) (e : ActEntry) (mids : List ActEntry) (b : List Byte) :
    Steady s (s.lookedAt i e mids b) := by
  unfold State.lookedAt
  dsimp only
  split
  · exact Steady.refl s
  · split
    · exact s.offerIncidents_steady
    · split
      · exact s.badChain_steady i e
      · split
        · exact s.badChain_steady i e
        · exact s.badChain_steady i e
        · split
          · exact s.lookFor_steady _ _
          · exact s.badChain_steady i e
        · exact s.taken_steady _ i _ e _ _

theorem State.actionRead_steady (s : State) (id : Nat) (res : ReadResult) : Steady s (s.actionRead id res) := by
  unfold State.actionRead
  split
  · split
    · split
      · exact .same rfl rfl rfl rfl
      · exact s.examined_steady _
    · exact Steady.refl s
  · split
    · split
      · exact .same rfl rfl rfl rfl
      · exact s.lookedAt_steady _ _ _ _
    · exact Steady.refl s
  · exact Steady.refl s

theorem State.lend_steady (s : State) : Steady s s.lend := by
  unfold State.lend
  split
  · dsimp only
    refine Steady.trans ?_ (State.offerIncidents_steady _)
    exact .same rfl rfl rfl rfl
  · exact s.endScan_steady

theorem State.incidentRead_steady (s : State) (id : Nat) (res : ReadResult) : Steady s (s.incidentRead id res) := by
  unfold State.incidentRead
  split
  · split
    · split
      · exact .same rfl rfl rfl rfl
      · split
        · exact s.lend_steady
        · exact s.endScan_steady
    · exact Steady.refl s
  · exact Steady.refl s

theorem State.nextPolicy_steady (s : State) (i : Slot) (r : BitVec 8) : Steady s (s.nextPolicy i r) :=
  (s.nextPolicy_ring i r).steady (s.nextPolicy_signals i r)

theorem State.initPolicy_steady (s : State) (i : Slot) (r : BitVec 8) (b : Option (List Byte)) :
    Steady s (s.initPolicy i r b) := by
  unfold State.initPolicy
  split
  · exact (s.acceptPolicy_steady i _).trans ((State.settle_steady _ i).trans (State.nextPolicy_steady _ i r))
  · exact s.nextPolicy_steady _ _

theorem State.policyRecordRead_steady (s : State) (id : Nat) (res : ReadResult) :
    Steady s (s.policyRecordRead id res) := by
  unfold State.policyRecordRead
  split
  · split
    · exact s.initPolicy_steady _ _ _
    · exact Steady.refl s
  · exact Steady.refl s

theorem State.riReadLate_steady (s : State) : Steady s s.riReadLate := by
  unfold State.riReadLate
  split
  · exact Steady.refl s
  · split
    · split
      · exact .same rfl rfl rfl rfl
      · exact s.initPolicy_steady _ _ _
      · exact .same rfl rfl rfl rfl
      · exact .same rfl rfl rfl rfl
      · exact .same rfl rfl rfl rfl
      · exact Steady.refl s
    · exact Steady.refl s

theorem State.scanTimerEnds_steady (s : State) : Steady s s.scanTimerEnds :=
  s.scanTimerEnds_ring.steady s.scanTimerEnds_signals

end Sys2Proof.Machine
end

section
/-! PROOFS. Outputs and states in agreement through the tick, every row of the table and power-on reset. -/

namespace Sys2Proof.Machine

open Sys2Proof

/-! ## The tick (R1) -/

theorem State.due_steady (s : State) (e : DueEvent) : Steady s (s.due e) := by
  cases e with
  | deadline i k f => exact (s.deadlineExpiry_steady i k f).close i
  | held i q => exact (s.heldExpiry_tells i q).steady (s.heldExpiry_lawful i q)
  | drain i => exact (s.drainTimer_steady i).close i
  | quiet i => exact ((s.quietCount_tells i).steady (s.quietCount_lawful i)).close i
  | isolate i => exact (s.isolateTimer_steady i).close i
  | assert i => exact (s.assertTimer_steady i).close i
  | rampSlow i => exact ((s.rampCheck_tells i).steady (s.rampCheck_lawful i)).close i
  | settle i => exact s.settleTimer_steady i
  | reconnect i => exact s.reconnectTimer_steady i
  | training i => exact ((s.trainingTimer_tells i).steady (s.trainingTimer_lawful i)).close i
  | bleedWait i => exact (s.bleedTimer_tells i).steady (s.bleedTimer_lawful i)
  | settling => exact s.settlingEnds_tells.steady s.settlingEnds_lawful
  | measuring v => exact (s.measuringEnds_steady v).align
  | sense p => exact (s.senseSample_steady p).align
  | shadowRead => exact (s.shadowReadLate_tells.steady s.shadowReadLate_lawful).closeEngine _
  | loadPolicyRead i => exact s.loadPolicyLate_steady i
  | riRead => exact s.riReadLate_steady.align
  | scanTimer => exact s.scanTimerEnds_steady

theorem State.tick_steady (s : State) (p : TickPins) (early : List DueEvent) : Steady s (s.tick p early) :=
  (((s.count_tells.steadyView s.count_view).trans (Steady.foldl State.due_steady early _)).trans
    (Steady.foldl (fun t i => (t.powerGoodSample_tells p i).steady (t.powerGoodSample_lawful p i))
      (slotOrder p.order) _)).align

/-! ## Every row but power-on reset -/

theorem exec_steady {c : Instr} {s t : State} (hc : c ≠ .powerOnReset) (h : exec c s = .next t) : Steady s t := by
  cases c <;> cases h
  case powerOnReset => exact absurd rfl hc
  case hostPortReset order => exact (s.hostPort_tells order).steady (s.hostPort_lawful order)
  case tick p early => exact s.tick_steady p early
  case hostRequest r => exact (s.hostRequest_tells r).steady (s.hostRequest_lawful r)
  case cardCompletion i k c b => exact (s.cardCompletion_steady i k c b).close i
  case deadlineExpiry i k b => exact s.due_steady (.deadline i k b)
  case heldRequestExpiry i q => exact s.due_steady (.held i q)
  case drainTimerExpiry i => exact s.due_steady (.drain i)
  case probationQuietExpiry i => exact s.due_steady (.quiet i)
  case isolateEnd i => exact s.due_steady (.isolate i)
  case assertEnd i => exact s.due_steady (.assert i)
  case rampSlow i => exact s.due_steady (.rampSlow i)
  case settleEnd i => exact s.due_steady (.settle i)
  case reconnectEnd i => exact s.due_steady (.reconnect i)
  case trainingTimeout i => exact s.due_steady (.training i)
  case bleedWaitEnd i => exact s.due_steady (.bleedWait i)
  case settlingConversionEnd => exact s.due_steady .settling
  case measuringConversionEnd v => exact s.due_steady (.measuring v)
  case senseSample p => exact s.due_steady (.sense p)
  case linkUp i => exact ((s.linkUp_tells i).steady (s.linkUp_lawful i)).close i
  case linkDown i => exact (s.cardFence_steady i .linkDown).close i
  case cardRequest i r => exact (s.cardRequest_steady i r).close i
  case hostCompletion c => exact (s.hostCompletion_tells c).steadyView (s.hostCompletion_view c)
  case shadowReadDone id res => exact ((s.shadowRead_tells id res).steady (s.shadowRead_lawful id res)).closeEngine _
  case shadowReadDeadline => exact s.due_steady .shadowRead
  case fence i a => exact s.alone_steady i _ a
  case recover i a => exact s.alone_steady i _ a
  case powerOn i a => exact s.alone_steady i _ a
  case powerOff i a => exact s.alone_steady i _ a
  case retire i a => exact s.alone_steady i _ a
  case admitSlot i a => exact s.alone_steady i _ a
  case release i a => exact s.alone_steady i _ a
  case snapshot i a => exact s.alone_steady i _ a
  case loadPolicy i a => exact s.alone_steady i _ a
  case loadPolicyReadDone i id res => exact s.loadPolicyRead_steady i id res
  case loadPolicyReadDeadline i => exact s.due_steady (.loadPolicyRead i)
  case readSlot i a => exact s.alone_steady i _ a
  case railSample i a => exact s.alone_steady i _ a
  case unknownActionCode i code a => exact s.alone_steady i _ a
  case init => exact (s.initCommand_ring.steady s.initCommand_signals).align
  case start => exact (s.startCommand_ring.steady s.startCommand_signals).align
  case stop => exact (s.stopCommand_ring.steady s.stopCommand_signals).align
  case prompt => exact (s.promptCommand_ring.steady s.promptCommand_signals).align
  case unknownCommand v => exact ((s.kcmdWrite_ring v).steady (s.kcmdWrite_signals v)).align
  case kstatWrite v => exact ((s.setCauses_ring _).steady rfl).align
  case registerWrite r v => exact (s.registerWrite_ring r v).steady (s.registerWrite_signals r v)
  case controlBlockReadDone id res =>
    exact ((s.controlBlockRead_ring id res).steady (s.controlBlockRead_signals id res)).align
  case policyRecordReadDone id res => exact (s.policyRecordRead_steady id res).align
  case riReadDeadline => exact s.due_steady .riRead
  case scanTimerExpiry => exact s.due_steady .scanTimer
  case actionEntryReadDone id res => exact (s.actionRead_steady id res).align
  case incidentEntryReadDone id res => exact (s.incidentRead_steady id res).align

/-! ## Power-on reset (R67, R177) -/

/-- The changes with which the slots `is` go to the outputs of `q`, seen from a slot that is not among them. -/
theorem Follows.otherSlots (s : State) {i : Slot} (q : PruRec) (is : List Slot) (hi : i ∉ is)
    {l : List SignalChange} {f : Signal → Bool} (h : Follows l i f) :
    Follows (l ++ is.flatMap fun j => signalChanges j (s.slot j).pru q) i f := by
  refine h.others _ fun c hc hci => hi ?_
  obtain ⟨j, hj, hcj⟩ := List.mem_flatMap.1 hc
  rwa [← hci, signalChanges_slot hcj]

theorem State.powerOnReset_tells (s : State) : Tells s s.powerOnReset := fun hs => by
  rw [State.signalLaw_iff] at hs ⊢
  intro i
  have hdark : Orderly SlotRec.reset.pru.level := PruRec.orderly_of_dark ⟨rfl, rfl, rfl⟩
  obtain ⟨before, after, hsplit⟩ := List.append_of_mem (show i ∈ allSlots by revert i; decide)
  have hnodup : (before ++ i :: after).Nodup := hsplit ▸ (by decide : allSlots.Nodup)
  obtain ⟨-, hafter, hbefore⟩ := List.nodup_append.1 hnodup
  have hb : i ∉ before := fun hm => hbefore i hm i List.mem_cons_self rfl
  have ha : i ∉ after := (List.nodup_cons.1 hafter).1
  have h := (((hs i).otherSlots s SlotRec.reset.pru before hb).drive hdark).otherSlots s SlotRec.reset.pru after ha
  rw [State.powerOnReset_slot]
  have hsig : s.powerOnReset.signals
      = s.signals ++ allSlots.flatMap fun j => signalChanges j (s.slot j).pru SlotRec.reset.pru := rfl
  rw [hsig, hsplit, List.flatMap_append, List.flatMap_cons]
  simpa only [List.append_assoc] using h

/-! ## The law of every step -/

theorem step_steady {s t : State} (h : step s = .next t) : Steady s t := by
  unfold step at h
  split at h
  · cases h
    exact Steady.refl s
  next c rest hp =>
    have hpop : Steady s { s with pending := rest } := .same rfl rfl rfl rfl
    by_cases hc : c = .powerOnReset
    · subst hc
      cases h
      exact hpop.trans fun ho => ⟨State.reset_sequencesSound, State.powerOnReset_tells _ ho.2⟩
    · exact hpop.trans (exec_steady hc h)

/-- Settles O58: each change of a view keeps the agreement of a slot's outputs, phase and state, whatever its tags; in a state
that agrees, power is OFF only where every output is down; and each update of PRU's outputs makes its changes in an order
that is safe after each of them, where the outputs go up only of a slot whose state or phase is a powered one. -/
theorem stepsKeepOutputsAndStatesInAgreement : Obligations.StepsKeepOutputsAndStatesInAgreement := by
  refine ⟨fun s t hq hstep => ?_, fun s => State.sequencesSound.powerLaw,
    fun s t hq hs hstep => (step_steady hstep ⟨hq, hs⟩).2⟩
  rcases step_cases hstep with ⟨hl, -⟩ | ⟨u, rfl⟩
  · exact hl.sequencesSound hq
  · exact State.reset_sequencesSound

end Sys2Proof.Machine
end
